-- ==== Sys2Proof/Word.lean ====
section
/-! DEFINITION. The machine's words and their plainest arithmetic (spec/00_scope.md R3, R8). -/

namespace Sys2Proof

/-- A 64-bit register slot or scalar register (R157). -/
abbrev Word := BitVec 64

/-- A byte of memory. -/
abbrev Byte := BitVec 8

/-- The 32 bits of a mask register or an active mask, one per lane (R157). -/
abbrev Mask := BitVec 32

end Sys2Proof
end

