-- ==== Sys2Proof/Machine/Crypto.lean ====
section
/-! DEFINITION. SHA-384 and the RSA-PSS check of a firmware image (R346): SHA-384 as FIPS 180-4 defines it, RSASSA-PSS as RFC 8017
defines it, with MGF1-SHA-384 and a 48-byte salt. -/

namespace Sys2Proof.Machine

/-- A number with no divisor but 1 and itself. -/
def isPrime (n : Nat) : Bool := decide (2 ≤ n) && (List.range n).all fun d => decide (d < 2) || n % d != 0

/-- The primes below 410: the first eighty, from which SHA-384 takes its constants. -/
def primes80 : List Nat := (List.range 410).filter isPrime

/-- The greatest r with r to the power k at most n, found from its highest bit down. -/
def rootFrom (k n : Nat) : Nat → Nat → Nat
  | 0, r => r
  | bit + 1, r => rootFrom k n bit (if (r + 2 ^ bit) ^ k ≤ n then r + 2 ^ bit else r)

/-- The first 64 bits of the fractional part of the k-th root of p. -/
def rootFraction (k p : Nat) : Word := BitVec.ofNat 64 (rootFrom k (p * 2 ^ (64 * k)) 70 0)

/-- The constant of each round: from the cube roots of the first eighty primes. -/
def roundConstants : List Word := primes80.map (rootFraction 3)

/-- The initial hash value: from the square roots of the ninth to the sixteenth prime. -/
def initialHash : List Word := ((primes80.drop 8).take 8).map (rootFraction 2)

/-- The exclusive or of a word rotated right by each of some numbers. -/
def spun (x : Word) (by' : List Nat) : Word := by'.foldl (fun acc n => acc ^^^ x.rotateRight n) 0#64

/-- The big-endian number of some bytes. -/
def beNat (bs : List Byte) : Nat := bs.foldl (fun n b => 256 * n + b.toNat) 0

/-- The n big-endian bytes of a number. -/
def beBytes (n v : Nat) : List Byte := (List.range n).map fun i => BitVec.ofNat 8 (v / 256 ^ (n - 1 - i))

/-- A message padded to whole blocks of 128 bytes: a one bit, zeros, and the length in bits. -/
def padMessage (m : List Byte) : List Byte :=
  m ++ [0x80#8] ++ List.replicate ((239 - m.length % 128) % 128) 0 ++ beBytes 16 (8 * m.length)

/-- The last four values, newest first, of one of the two sequences that the rounds extend. -/
structure Quad where
  n0 : Word
  n1 : Word
  n2 : Word
  n3 : Word

/-- A sequence extended by a value. -/
def Quad.push (q : Quad) (x : Word) : Quad := ⟨x, q.n0, q.n1, q.n2⟩

/-- Two quadruples added value by value. -/
def Quad.plus (q r : Quad) : Quad := ⟨q.n0 + r.n0, q.n1 + r.n1, q.n2 + r.n2, q.n3 + r.n3⟩

/-- The rounds of a block: for each constant, the oldest word of the window of sixteen schedule words is used up and a new one joins
the window, and each sequence grows by one value. -/
def hashRounds : List Word → List Word → Quad × Quad → Quad × Quad
  | [], _, v => v
  | k :: ks, win, (a, e) =>
    let w := fun i => win.getD i 0#64
    let pick := (e.n0 &&& e.n1) ||| (~~~e.n0 &&& e.n2)
    let most := (a.n0 &&& a.n1) ||| (a.n2 &&& (a.n0 ||| a.n1))
    let t := e.n3 + spun e.n0 [14, 18, 41] + pick + k + w 0
    let joins := w 0 + (spun (w 1) [1, 8] ^^^ (w 1 >>> 7)) + w 9 + (spun (w 14) [19, 61] ^^^ (w 14 >>> 6))
    hashRounds ks (win.drop 1 ++ [joins]) (a.push (t + spun a.n0 [28, 34, 39] + most), e.push (a.n3 + t))

/-- The hash value after n blocks of padded bytes. -/
def hashBlocks : Nat → Quad × Quad → List Byte → Quad × Quad
  | 0, v, _ => v
  | n + 1, v, m =>
    let win := (List.range 16).map fun i => BitVec.ofNat 64 (beNat ((m.drop (8 * i)).take 8))
    let r := hashRounds roundConstants win v
    hashBlocks n (v.1.plus r.1, v.2.plus r.2) (m.drop 128)

/-- The 48 bytes of a message's SHA-384: the first six words of the hash value. -/
def sha384 (m : List Byte) : List Byte :=
  let h := fun i => initialHash.getD i 0#64
  let (a, e) := hashBlocks ((padMessage m).length / 128) (⟨h 0, h 1, h 2, h 3⟩, ⟨h 4, h 5, h 6, h 7⟩) (padMessage m)
  ([a.n0, a.n1, a.n2, a.n3, e.n0, e.n1]).flatMap fun x => beBytes 8 x.toNat

/-- b to the power e, modulo m, over the e's low n bits. -/
def modPow (m : Nat) : Nat → Nat → Nat → Nat
  | 0, _, _ => 1 % m
  | n + 1, b, e => (if e % 2 = 1 then b else 1) * modPow m n (b * b % m) (e / 2) % m

/-- The first n blocks of the mask that MGF1 with SHA-384 makes from a seed. -/
def maskBlocks (seed : List Byte) : Nat → List Byte
  | 0 => []
  | n + 1 => maskBlocks seed n ++ sha384 (seed ++ beBytes 4 n)

/-- Bytes combined by exclusive or. -/
def xorBytes (a b : List Byte) : List Byte := List.zipWith (· ^^^ ·) a b

/-- RSASSA-PSS with SHA-384, MGF1-SHA-384 and a 48-byte salt, a 3,072-bit modulus and exponent 65,537 (R346). -/
def pssVerify (modulus sig : Nat) (m : List Byte) : Bool :=
  if sig < modulus then
    let em := beBytes 384 (modPow modulus 17 sig 65537)
    let masked := em.take 335
    let h := (em.drop 335).take 48
    let db := xorBytes masked (maskBlocks h 7)
    let db := (db.head?.map (· &&& 0x7F#8)).toList ++ db.drop 1
    em.getLast? == some 0xBC#8 && (em.headD 0).getLsbD 7 == false &&
      db.take 287 == List.replicate 286 0#8 ++ [1#8] &&
      h == sha384 (List.replicate 8 0#8 ++ sha384 m ++ db.drop 287)
  else false

end Sys2Proof.Machine
end

