-- ==== Sys2Proof/Syntax.lean ====
section
/-! DEFINITION. The abstract syntax: one constructor of `Instr` per row of spec/opcode_table.json. The 170 encoded
words keep the fields of their format (spec/02_instruction_words.md R23 to R35); the other rows are the machine's
events (spec/95_what_each_step_holds.md), whose arguments say what the event is about. -/

namespace Sys2Proof

/-- A 16-bit word (R23). -/
structure HalfFields where
  a : BitVec 5
  d : BitVec 5
  h : Bool
  deriving DecidableEq, Repr

/-- A VR word (R27) or an S word (R29), without OP. -/
structure VRFields where
  x : BitVec 2
  b : BitVec 6
  a : BitVec 6
  d : BitVec 6
  t : BitVec 3
  h : Bool
  deriving DecidableEq, Repr

/-- LI and LIH (R30). -/
structure SIFields where
  imm : BitVec 16
  d : BitVec 6
  h : Bool
  deriving DecidableEq, Repr

/-- GETSR and SETSR (R30): the special-register number and the scalar register. -/
structure SRFields where
  n : BitVec 8
  d : BitVec 6
  h : Bool
  deriving DecidableEq, Repr

/-- An M word (R31). -/
structure MFields where
  mode : BitVec 2
  b : BitVec 6
  a : BitVec 6
  d : BitVec 6
  w : BitVec 3
  h : Bool
  deriving DecidableEq, Repr

/-- A BR word (R33). -/
structure BRFields where
  off : BitVec 14
  c : BitVec 5
  n : Bool
  w : Bool
  p : Bool
  u : Bool
  h : Bool
  deriving DecidableEq, Repr

/-- A J word (R33), without OP and SUB. -/
structure JFields where
  imm : BitVec 14
  a : BitVec 6
  h : Bool
  deriving DecidableEq, Repr

/-- An X word (R34). `sub` is used by MMAS alone; the other rows fix it. -/
structure XFields where
  sg : Bool
  clr : Bool
  aux : BitVec 6
  bm : BitVec 3
  am : BitVec 3
  c : BitVec 6
  sub : BitVec 3
  h : Bool
  deriving DecidableEq, Repr

/-- A K word (R35), without OP and SUB. -/
structure KFields where
  b : BitVec 6
  a : BitVec 6
  d : BitVec 6
  h : Bool
  deriving DecidableEq, Repr

/-- The prefix word (R40). -/
structure Prefix where
  sat : Bool
  z : Bool
  cv : Bool
  c : BitVec 6
  mask : BitVec 4
  rnd : BitVec 3
  deriving DecidableEq, Repr

/-- No prefix: every field zero (R41: MASK = 0 changes nothing). -/
def Prefix.none : Prefix := { sat := false, z := false, cv := false, c := 0, mask := 0, rnd := 0 }

/-- The VR operations, OP 0x00 to 0x4B (R42): what a prefix may precede (R41). -/
inductive VROp where
  | iadd | isub | iadds | isubs | imul | imulh | umulh | imad
  | imin | imax | umin | umax | iabs | shl | shr | sar
  | and | or | xor | andn | popc | clz | brev | bfx
  | bfi | lea | icmpeq | icmplt | icmpltu | sel | mov | fadd
  | fsub | fmul | ffma | fmin | fmax | fabs | fneg | fcmpeq
  | fcmplt | fcmple | fcmpun | frcp | frsq | fsqrt | fexp2 | flog2
  | fsin | fcos | ftanh | fround | fscale | fclass | fdot2 | cvt
  | cbld | cbst | shfl | bcast | perm | mred | scan | red
  | ballot | mset | movsv | movvs | first | iota
  deriving DecidableEq, Repr

/-- The agent that makes an I/O or host access (R379). A gang carries its PASID. -/
inductive IoAgent where
  | firmware
  | gang (pasid : Nat)
  | engine (pasid : Nat)
  | host (pasid : Nat)
  | guest
  deriving DecidableEq, Repr

/-- An access by physical address: `data` is what a write stores, none for a read of `len` bytes. -/
structure BusAccess where
  pa : Nat
  len : Nat
  data : Option (List Byte)
  deriving DecidableEq, Repr

/-- A die's L2 asks for an alias line (R97). -/
structure AliasAsk where
  die : Nat
  pa : Nat
  deriving DecidableEq, Repr

/-- A host snoop of a line (R93), with the bytes that the host then writes, if any, from the line's first on. -/
structure Snoop where
  pa : Nat
  data : List Byte
  deriving DecidableEq, Repr

/-- A waiting splice of a launch, and the dies whose PDELAY it has waited (R296). -/
structure PreemptingSplice where
  splice : Nat
  dies : BitVec 2
  deriving DecidableEq, Repr

/-- A bucket of a plan, and the stack whose base die's timer for it expires (R245). -/
structure DueBucket where
  bucket : Nat
  stack : Nat
  deriving DecidableEq, Repr

/-- The copy engine that works on a packet: a core's copy engine, or the engine of the memory queue whose header VA and
PASID are given (R135). -/
inductive EngineRef where
  | core (c : Nat)
  | queue (pasid hdr : Nat)
  deriving DecidableEq, Repr

/-- SKIND of a fault record (R323). -/
inductive EngineKind where
  | gang | coreCopy | bulkCopy | fabric | halyard | rollback | guest | launch
  deriving DecidableEq, Repr

/-- A mailbox command (R341): the PA of its 64-byte record, the virtual function it came from (none for the physical function), whether
STATUS was not 0 at its submission (R343; the device notes it), and whether this is no store to MBCMD but a step of firmware on the commands
that it holds. -/
structure Mailbox where
  recPA : Nat
  vf : Option Nat
  dirty : Bool
  go : Bool
  deriving DecidableEq, Repr

/-- TYPE of an import entry (R229). -/
inductive FabricType where
  | physical | virtual | doorbell
  deriving DecidableEq, Repr

/-- What a fabric request asks of its target: a read of n bytes, a write of bytes that follow each other, one of bytes at offsets in a
line, or an atomic (operation as W of R32, width in
bytes, operand, and the new value of a compare-and-swap). -/
inductive FabricOp where
  | read (n : Nat)
  | write (data : List Byte)
  | scatter (data : List (Nat × Byte))
  | atomic (op width : Nat) (x y : Word)
  deriving DecidableEq, Repr

/-- A request that arrives from another device (R230). -/
structure FabricRequest where
  dev : Nat
  pasid : Nat
  type : FabricType
  addr : Nat
  op : FabricOp
  tag : Nat
  deriving DecidableEq, Repr

/-- The answer to a request this device sent: done with the bytes read (the old value of an atomic), or refused with a
reason of R234. -/
inductive FabricAnswer where
  | done (data : List Byte)
  | refused (reason : Nat)
  deriving DecidableEq, Repr

/-- A Halyard packet (R238, R337): one rank's contribution to one slice of a bucket's round, `none` for a contribution
passed on as EMPTY (R245). Elements are given as encodings. -/
structure HalyardPacket where
  handle : Nat
  bucket : Nat
  round : Nat
  rank : Nat
  slice : Nat
  fmt : Nat
  len : Nat
  elems : Option (List Nat)
  deriving DecidableEq, Repr

/-- The results of the boot ROM's self-test (R348): compute dies, stacks, guest site. -/
structure SelfTest where
  dieOk : BitVec 2
  stackOk : BitVec 8
  guestOk : Bool
  flash : List Byte
  deriving DecidableEq, Repr

/-- What the host does at the device's ranges (R339, R340): an access through the HDM window, the giving up of a clean copy of a line
(R84), or an access to BAR0 at the offset `pa`. -/
inductive HostAccess where
  | mem (a : BusAccess)
  | drop (pa : Nat)
  | bar0 (a : BusAccess)
  deriving DecidableEq, Repr

/-- A byte offset in the doorbell region (R139), or in the BAR2 range of a virtual function (R340). -/
structure DoorbellOffset where
  vf : Option Nat
  off : Nat
  deriving DecidableEq, Repr

/-- A certificate of a guest's chain (R354): its RSA-3072 key, what else it says, and its signature (log 66). -/
structure GuestCert where
  key : List Byte
  body : List Byte
  sig : List Byte
  deriving DecidableEq, Repr

/-- What a guest presents at its reset (R354): its certificates, the leaf first, the measurement of its firmware and the
measurement's signature. -/
structure GuestIdentity where
  chain : List GuestCert
  measurement : List Byte
  sig : List Byte
  deriving DecidableEq, Repr

/-- A guest request on the coherent channel (R353): take ownership of a line, read a line, write bytes, begin, complete or reject a packet
of a queue, with a code of its own (R352) or for a protection failure (R355), or give up the clean copy of a line that it shares (R84). -/
inductive GuestRequest where
  | own (pasid : Nat) (va : Word)
  | read (pasid : Nat) (va : Word)
  | write (pasid : Nat) (va : Word) (data : List Byte)
  | begin (pasid hdr : Nat)
  | complete (pasid hdr slot : Nat)
  | reject (pasid hdr slot : Nat) (code : Option Nat)
  | drop (pa : Nat)
  deriving DecidableEq, Repr

/-- A fault record (R323), without SEQ and V, which posting assigns. -/
structure FaultRecord where
  addr : Word
  src : Word
  pasid : Nat
  reason : Nat
  acc : Nat
  skind : EngineKind
  cls : Nat
  deriving DecidableEq, Repr

/-- One step of the machine: an instruction word, a prefixed pair, or an event. -/
inductive Instr where
  /-- NOP (R25): The 16-bit all-zero word; it changes only the PC and is not a commit point. -/
  | nop
  /-- IADD_16 (R24): 16-bit form of IADD.32 with vD as first source; short class. -/
  | iadd16 (f : HalfFields)
  /-- ISUB_16 (R24): 16-bit form of ISUB.32 with vD as first source; short class. -/
  | isub16 (f : HalfFields)
  /-- AND_16 (R24): 16-bit form of AND at .64; short class. -/
  | and16 (f : HalfFields)
  /-- OR_16 (R24): 16-bit form of OR at .64; short class. -/
  | or16 (f : HalfFields)
  /-- XOR_16 (R24): 16-bit form of XOR at .64; short class. -/
  | xor16 (f : HalfFields)
  /-- SHL_16 (R24): 16-bit form of SHL.32 with vD as first source; short class. -/
  | shl16 (f : HalfFields)
  /-- MOV_16 (R24): 16-bit form of MOV copying vA into vD; short class. -/
  | mov16 (f : HalfFields)
  /-- FADD_16 (R196): 16-bit form of FADD.f32 at rne; short-class result with a hardware hold until clock 5. -/
  | fadd16 (f : HalfFields)
  /-- FSUB_16 (R196): 16-bit form of FSUB.f32 at rne; short-class result. -/
  | fsub16 (f : HalfFields)
  /-- FMUL_16 (R196): 16-bit form of FMUL.f32 at rne; short-class result. -/
  | fmul16 (f : HalfFields)
  /-- FMAX_16 (R196): 16-bit form of FMAX.f32; short-class result. -/
  | fmax16 (f : HalfFields)
  /-- IMIN_16 (R24): 16-bit form of IMIN.32 with vD as first source; short class. -/
  | imin16 (f : HalfFields)
  /-- IMAX_16 (R24): 16-bit form of IMAX.32 with vD as first source; short class. -/
  | imax16 (f : HalfFields)
  /-- SADD_16 (R24): 16-bit form of 64-bit SADD with sD as first source. -/
  | sadd16 (f : HalfFields)
  /-- SMOV_16 (R24): 16-bit form of SMOV copying sA into sD. -/
  | smov16 (f : HalfFields)
  /-- PREFIXED_INSTRUCTION (R41): A prefix word and the following VR word executed as one instruction with mask, zeroing, saturation,
  rounding or fourth operand. -/
  | prefixedInstruction (p : Prefix) (op : VROp) (f : VRFields)
  /-- ILLEGAL_INSTRUCTION (R43): Decoding a word or pair that is illegal raises trap 0x01 precisely with the encoding in sr_trapinfo. -/
  | illegalInstruction (info : Word)
  /-- IADD (R175): Per-sub-element integer add, wrapping or signed-saturating under SAT. -/
  | iadd (f : VRFields)
  /-- ISUB (R175): Per-sub-element integer subtract, wrapping or signed-saturating under SAT. -/
  | isub (f : VRFields)
  /-- IADDS (R177): Unsigned saturating add per sub-element. -/
  | iadds (f : VRFields)
  /-- ISUBS (R177): Unsigned saturating subtract per sub-element. -/
  | isubs (f : VRFields)
  /-- IMUL (R175): Low-half integer multiply per sub-element. -/
  | imul (f : VRFields)
  /-- IMULH (R175): Signed high-half integer multiply per sub-element. -/
  | imulh (f : VRFields)
  /-- UMULH (R175): Unsigned high-half integer multiply per sub-element. -/
  | umulh (f : VRFields)
  /-- IMAD (R176): Integer multiply-add into D or prefix C, clamped once under SAT. -/
  | imad (f : VRFields)
  /-- IMIN (R175): Signed minimum per sub-element. -/
  | imin (f : VRFields)
  /-- IMAX (R175): Signed maximum per sub-element. -/
  | imax (f : VRFields)
  /-- UMIN (R175): Unsigned minimum per sub-element. -/
  | umin (f : VRFields)
  /-- UMAX (R175): Unsigned maximum per sub-element. -/
  | umax (f : VRFields)
  /-- IABS (R175): Absolute value per sub-element. -/
  | iabs (f : VRFields)
  /-- SHL (R175): Shift left by B modulo width per sub-element. -/
  | shl (f : VRFields)
  /-- SHR (R175): Logical shift right per sub-element. -/
  | shr (f : VRFields)
  /-- SAR (R175): Arithmetic shift right per sub-element. -/
  | sar (f : VRFields)
  /-- AND (R175): Bitwise AND. -/
  | and (f : VRFields)
  /-- OR (R175): Bitwise OR. -/
  | or (f : VRFields)
  /-- XOR (R175): Bitwise XOR. -/
  | xor (f : VRFields)
  /-- ANDN (R175): Bitwise A AND NOT B. -/
  | andn (f : VRFields)
  /-- POPC (R175): Population count per sub-element. -/
  | popc (f : VRFields)
  /-- CLZ (R175): Count leading zeros per sub-element. -/
  | clz (f : VRFields)
  /-- BREV (R175): Bit reversal per sub-element. -/
  | brev (f : VRFields)
  /-- BFX (R178): Unsigned bitfield extract with position and length from B. -/
  | bfx (f : VRFields)
  /-- BFI (R178): Bitfield insert of A into D at the field B names. -/
  | bfi (f : VRFields)
  /-- LEA (R179): Per-lane 64-bit address A plus B scaled by element size. -/
  | lea (f : VRFields)
  /-- ICMPEQ (R175): Integer equality compare writing all ones or zero. -/
  | icmpeq (f : VRFields)
  /-- ICMPLT (R175): Signed less-than compare. -/
  | icmplt (f : VRFields)
  /-- ICMPLTU (R175): Unsigned less-than compare. -/
  | icmpltu (f : VRFields)
  /-- SEL (R180): Select A where D is nonzero, else B. -/
  | sel (f : VRFields)
  /-- MOV (R175): Vector register move. -/
  | mov (f : VRFields)
  /-- FADD (R186): Float add rounded once under the mode in force. -/
  | fadd (f : VRFields)
  /-- FSUB (R186): Float subtract rounded once. -/
  | fsub (f : VRFields)
  /-- FMUL (R186): Float multiply rounded once. -/
  | fmul (f : VRFields)
  /-- FFMA (R186): Fused multiply-add into D or prefix C, rounded once. -/
  | ffma (f : VRFields)
  /-- FMIN (R187): IEEE minimumNumber per sub-element. -/
  | fmin (f : VRFields)
  /-- FMAX (R187): IEEE maximumNumber per sub-element. -/
  | fmax (f : VRFields)
  /-- FABS (R187): Clear the sign bit of each sub-element. -/
  | fabs (f : VRFields)
  /-- FNEG (R187): Flip the sign bit of each sub-element. -/
  | fneg (f : VRFields)
  /-- FCMPEQ (R187): Float equality compare. -/
  | fcmpeq (f : VRFields)
  /-- FCMPLT (R187): Float less-than compare. -/
  | fcmplt (f : VRFields)
  /-- FCMPLE (R187): Float less-or-equal compare. -/
  | fcmple (f : VRFields)
  /-- FCMPUN (R187): Float unordered compare. -/
  | fcmpun (f : VRFields)
  /-- FRCP (R188): Correctly rounded reciprocal. -/
  | frcp (f : VRFields)
  /-- FRSQ (R188): Correctly rounded reciprocal square root. -/
  | frsq (f : VRFields)
  /-- FSQRT (R188): Correctly rounded square root. -/
  | fsqrt (f : VRFields)
  /-- FEXP2 (R188): Correctly rounded 2 to the power a. -/
  | fexp2 (f : VRFields)
  /-- FLOG2 (R188): Correctly rounded base-2 logarithm. -/
  | flog2 (f : VRFields)
  /-- FSIN (R188): Correctly rounded sinPi. -/
  | fsin (f : VRFields)
  /-- FCOS (R188): Correctly rounded cosPi. -/
  | fcos (f : VRFields)
  /-- FTANH (R188): Correctly rounded hyperbolic tangent. -/
  | ftanh (f : VRFields)
  /-- FROUND (R189): Convert each float sub-element to a same-width integer with saturation. -/
  | fround (f : VRFields)
  /-- FSCALE (R190): Multiply a by 2 to the truncated power b. -/
  | fscale (f : VRFields)
  /-- FCLASS (R191): Write the class number of each sub-element. -/
  | fclass (f : VRFields)
  /-- FDOT2 (R192): Two-element bf16/f16 dot product accumulated into f32 with one rounding. -/
  | fdot2 (f : VRFields)
  /-- CVT (R193): Convert sub-elements from the source format in B to type T. -/
  | cvt (f : VRFields)
  /-- CBLD (R195): Load codebook entries of the home gang's table from active lanes of A. -/
  | cbld (f : VRFields)
  /-- CBST (R195): Store the home gang's codebook entries into D. -/
  | cbst (f : VRFields)
  /-- SHFL (R202): Lane shuffle by index register, up, down or xor. -/
  | shfl (f : VRFields)
  /-- BCAST (R202): Broadcast one element to every element of active lanes. -/
  | bcast (f : VRFields)
  /-- PERM (R202): Per-element gather by indices in B. -/
  | perm (f : VRFields)
  /-- MRED (R205): Keyed reduction per group of equal keys, writing results and leader mask m15. -/
  | mred (f : VRFields)
  /-- SCAN (R68): Inclusive or exclusive running reduction over positions. -/
  | scan (f : VRFields)
  /-- RED (R205): Tree reduction of active positions to a vector or scalar destination. -/
  | red (f : VRFields)
  /-- BALLOT (R203): Set mask bits of active lanes where A is nonzero. -/
  | ballot (f : VRFields)
  /-- MSET (R203): Set mask bits of active lanes from a scalar register. -/
  | mset (f : VRFields)
  /-- MOVSV (R202): Broadcast a scalar into every sub-element of active lanes. -/
  | movsv (f : VRFields)
  /-- MOVVS (R202): Move one vector element, sign-extended, to a scalar register. -/
  | movvs (f : VRFields)
  /-- FIRST (R204): Write the lowest active position set in a mask, or 32. -/
  | first (f : VRFields)
  /-- IOTA (R202): Write base plus position into each sub-element. -/
  | iota (f : VRFields)
  /-- SADD (R165): Scalar add of width T, sign-extended. -/
  | sadd (f : VRFields)
  /-- SSUB (R165): Scalar subtract. -/
  | ssub (f : VRFields)
  /-- SMUL (R165): Scalar multiply, low bits. -/
  | smul (f : VRFields)
  /-- SAND (R165): Scalar AND. -/
  | sand (f : VRFields)
  /-- SOR (R165): Scalar OR. -/
  | sor (f : VRFields)
  /-- SXOR (R165): Scalar XOR. -/
  | sxor (f : VRFields)
  /-- SSHL (R165): Scalar shift left. -/
  | sshl (f : VRFields)
  /-- SSHR (R165): Scalar logical shift right. -/
  | sshr (f : VRFields)
  /-- SSAR (R165): Scalar arithmetic shift right. -/
  | ssar (f : VRFields)
  /-- SCMP (R166): Scalar compare writing an equal/less/greater bit set. -/
  | scmp (f : VRFields)
  /-- SMOV (R165): Scalar register move. -/
  | smov (f : VRFields)
  /-- SLEA (R167): Scalar element address sA plus scaled B. -/
  | slea (f : VRFields)
  /-- LI (R168): Load a sign-extended 16-bit immediate into sD. -/
  | li (f : SIFields)
  /-- LIH (R168): Shift sD left 16 and insert a 16-bit immediate. -/
  | lih (f : SIFields)
  /-- GETSR (R169): Read a special register into sD. -/
  | getsr (f : SRFields)
  /-- SETSR (R169): Write sD to a writable special register with its side effects. -/
  | setsr (f : SRFields)
  /-- LD (R124): Vector load from virtual memory per active lane. -/
  | ld (f : MFields)
  /-- ST (R125): Vector store to virtual memory, buffered until commit. -/
  | st (f : MFields)
  /-- LDS (R127): Vector load from the splice's scratchpad. -/
  | lds (f : MFields)
  /-- STS (R127): Vector store to the splice's scratchpad. -/
  | sts (f : MFields)
  /-- SLD (R124): Scalar load into sD. -/
  | sld (f : MFields)
  /-- SST (R125): Scalar store of sD. -/
  | sst (f : MFields)
  /-- ATOM (R129): 32-bit atomic per active lane, returning the old value. -/
  | atom (f : MFields)
  /-- ATOMX (R129): 64-bit atomic per active lane, returning the old value. -/
  | atomx (f : MFields)
  /-- SATOM (R129): Scalar 64-bit atomic returning the old value. -/
  | satom (f : MFields)
  /-- PREF (R131): Prefetch lines into L2 and L1; never traps. -/
  | pref (f : MFields)
  /-- ZERO (R130): Irrevocably write zeros over whole lines per active lane. -/
  | zero (f : MFields)
  /-- COMMIT (R132): Wait until older accesses are performed and the store buffer is empty, then commit. -/
  | commit (f : MFields)
  /-- BR (R251): Conditional PC-relative branch per slice, dividing, trapping or packing streams. -/
  | br (f : BRFields)
  /-- JMP (R260): PC-relative jump of the whole stream. -/
  | jmp (f : JFields)
  /-- JMP_REG (R260): Jump to the address in sA. -/
  | jmpReg (f : JFields)
  /-- CALL (R260): PC-relative call writing the return address to s63. -/
  | call (f : JFields)
  /-- CALL_REG (R260): Call to the address in sA writing s63. -/
  | callReg (f : JFields)
  /-- RET (R260): Jump to s63. -/
  | ret (f : JFields)
  /-- REGANG (R259): Wait until the gang's slices can combine into one stream. -/
  | regang (f : JFields)
  /-- YIELD (R261): Offer the gang's slot for one residency decision. -/
  | yield (f : JFields)
  /-- YIELD_CONTINUATION (R153): Test the armed condition and park until it holds, resuming at the continuation. -/
  | yieldContinuation (f : JFields)
  /-- EXIT (R262): Every slice of the stream leaves for good. -/
  | exit (f : JFields)
  /-- TRAP (R264): Raise cause 0x0F with a code in sr_trapinfo. -/
  | trap (f : JFields)
  /-- RTE (R321): Leave handler mode and resume at sr_trappc, releasing stopped streams. -/
  | rte (f : JFields)
  /-- BRK (R264): Raise breakpoint cause 0x10. -/
  | brk (f : JFields)
  /-- MMA (R217): Dense matrix multiply-accumulate of mapped operands into a tile. -/
  | mma (f : XFields)
  /-- MMAS (R217): 2:4-sparse matrix multiply-accumulate with position codes from an index register. -/
  | mmas (f : XFields)
  /-- MMAT (R217): Ternary by int8 matrix accumulate into an int32 tile. -/
  | mmat (f : XFields)
  /-- MFENCE (R221): Close the current matrix batch and return its number. -/
  | mfence (f : XFields)
  /-- MWAIT (R222): Stall until batches up to the named number have completed. -/
  | mwait (f : XFields)
  /-- ACCLD (R218): Load a tile from scratchpad through a map, converting. -/
  | accld (f : XFields)
  /-- ACCLD_ZERO (R218): Set a tile to zero of kind F. -/
  | accldZero (f : XFields)
  /-- ACCST (R219): Convert a tile and write it through a map into scratchpad. -/
  | accst (f : XFields)
  /-- OMSET (R220): Set an operand map from a scalar register pair. -/
  | omset (f : XFields)
  /-- CPY_COPY (R150): Submit a copy packet to the core queue or a memory queue. -/
  | cpyCopy (f : KFields)
  /-- CPY_QUANT (R150): Submit a copy-quantize packet. -/
  | cpyQuant (f : KFields)
  /-- CPY_DEC (R150): Submit a copy-decode packet. -/
  | cpyDec (f : KFields)
  /-- CPY_RED (R150): Submit a reduce-copy packet. -/
  | cpyRed (f : KFields)
  /-- CPY_FILL (R150): Submit a fill packet. -/
  | cpyFill (f : KFields)
  /-- PKT (R150): Submit a packet whose class comes from the image. -/
  | pkt (f : KFields)
  /-- QPUSH (R302): Insert a keyed record into a hardware queue. -/
  | qpush (f : KFields)
  /-- QPOP (R302): Remove the smallest-key record, waiting while empty. -/
  | qpop (f : KFields)
  /-- QTRY (R302): Pop if a record exists and report success. -/
  | qtry (f : KFields)
  /-- QLEN (R302): Return a hardware queue's record count. -/
  | qlen (f : KFields)
  /-- SPAWN (R298): Add gangs to the launch and return the first new index. -/
  | spawn (f : KFields)
  /-- XPUT (R233): Bulk remote put per lane, with a stamp last. -/
  | xput (f : KFields)
  /-- XGET (R233): Bulk remote get per lane, with a stamp last. -/
  | xget (f : KFields)
  /-- XATOM (R233): Remote 64-bit atomic per lane, optional old-value return, stamp last. -/
  | xatom (f : KFields)
  /-- HFIRE (R240): Fire a Halyard bucket trigger, trapping where the store form would be ignored. -/
  | hfire (f : KFields)
  /-- HSTAT (R240): Return the status of a Halyard plan. -/
  | hstat (f : KFields)
  /-- KNEW (R274): Create a valid knot record. -/
  | knew (f : KFields)
  /-- KJOIN (R274): Join a knot, raising EXP and entering the membership table. -/
  | kjoin (f : KFields)
  /-- KLEAVE (R274): Leave a knot, withdrawing a current arrival and possibly completing the phase. -/
  | kleave (f : KFields)
  /-- KARRIVE (R274): Arrive on a knot and return the generation read. -/
  | karrive (f : KFields)
  /-- KWAIT (R274): Wait while the knot's generation equals the given one. -/
  | kwait (f : KFields)
  /-- KARRW (R274): Arrive on a knot and wait for the phase to complete. -/
  | karrw (f : KFields)
  /-- KFREE (R274): Invalidate a knot record with no waiters. -/
  | kfree (f : KFields)
  /-- KQUERY (R274): Return a knot's generation and arrived count. -/
  | kquery (f : KFields)
  /-- WARM (R152): Arm a watched condition mem64 at sA not below sB. -/
  | warm (f : KFields)
  /-- WWAIT (R152): Wait until a watched word differs from sB. -/
  | wwait (f : KFields)
  /-- WSTAMP (R152): Wait until a watched word is at least sB. -/
  | wstamp (f : KFields)
  /-- RACQ (R160): Acquire an extended register block, waiting if none is free. -/
  | racq (f : KFields)
  /-- RREL (R160): Release the held extended register block. -/
  | rrel (f : KFields)
  /-- RESIZE (R156): Change the splice's scratchpad size and return the size in force. -/
  | resize (f : KFields)
  /-- CKMARK (R317): Mark or unmark a checkpoint region with its log. -/
  | ckmark (f : KFields)
  /-- CKTAKE (R317): Open a new logging epoch on a region. -/
  | cktake (f : KFields)
  /-- CKROLL (R317): Start restoring a region to its epoch start. -/
  | ckroll (f : KFields)
  /-- CKDROP (R317): Close a region's epoch and discard its log. -/
  | ckdrop (f : KFields)
  /-- INSTRUCTION_FETCH (R21): Fetch of a 64-byte code line into the instruction buffer, faulting on translation or permission. -/
  | instructionFetch (sid : Nat) (line : Nat)
  /-- INSTRUCTION_COMMIT (R305): An instruction commits in stream order once older work and its loads are done, releasing belay entries and
  stores. -/
  | instructionCommit (sid : Nat)
  /-- REGISTER_RESULT_RETURN (R161): A long-class result returns and is written or dropped on tag mismatch, unparking H. -/
  | registerResultReturn (launch gang n : Nat)
  /-- STORE_VISIBILITY (R87): A write reaches its visibility point, invalidating copies and testing read signatures. -/
  | storeVisibility (sid : Nat)
  /-- ROLLBACK (R307): A signature hit rolls a stream back to its belay point and reissues. -/
  | rollback (launch gang : Nat)
  /-- PAGE_WALK (R76): A walker completes a translation or posts a translation fault. -/
  | pageWalk (sid : Nat) (va : Word) (write : Bool)
  /-- ALIAS_READ_DECODE (R97): The home base die decodes a format-window alias line for a requesting L2. -/
  | aliasReadDecode (a : AliasAsk)
  /-- ALIAS_WRITE_BACK (R98): The base die merges alias store bytes, re-encodes the block and writes it. -/
  | aliasWriteBack (sid : Nat)
  /-- HOST_SNOOP (R93): A host CXL.cache snoop removes a host line and tests read signatures; the host then writes what the snoop says. -/
  | hostSnoop (a : Snoop)
  /-- HOST_MEM_ACCESS (R116): A host access to device memory is performed at the home; the host's other accesses are those of R340. -/
  | hostMemAccess (a : HostAccess)
  /-- IO_HOLE_ACCESS (R379): An I/O access to an unassigned address returns all ones or is ignored, and is counted. -/
  | ioHoleAccess (ag : IoAgent) (a : BusAccess)
  /-- REGISTER_WRITE (R379): A store to a register that has no row of its own, ignored and counted when not from firmware. -/
  | registerWrite (ag : IoAgent) (pa : Nat) (v : Word)
  /-- MEMCARVE_WRITE (R72): Firmware sets the pinned carve and lock. -/
  | memcarveWrite (ag : IoAgent) (v : Word)
  /-- L2MRG_WRITE (R91): Set a die's tile-read merge window. -/
  | l2mrgWrite (ag : IoAgent) (die : Nat) (v : Word)
  /-- FW_CTL_ENABLE (R96): Write of EN = 1 enables a format window or refuses it setting ERR. -/
  | fwCtlEnable (ag : IoAgent) (n : Nat) (v : Word)
  /-- FW_CTL_DISABLE (R96): Write of EN = 0 performs pending alias stores, invalidates alias lines and disables the window. -/
  | fwCtlDisable (ag : IoAgent) (n : Nat) (v : Word)
  /-- QPOOL_WRITE (R226): Set a core's queue-pool minimums and caps, ignored if limits break. -/
  | qpoolWrite (ag : IoAgent) (core : Nat) (v : Word)
  /-- HARB_WRITE (R246): Set a stack's Halyard/compute grant arbitration. -/
  | harbWrite (ag : IoAgent) (stack : Nat) (v : Word)
  /-- RUQ_WRITE (R286): Set a die's fairness quantum. -/
  | ruqWrite (ag : IoAgent) (die : Nat) (v : Word)
  /-- SCHCTL_WRITE (R295): Set a die's ageing limit and pre-emption delay. -/
  | schctlWrite (ag : IoAgent) (die : Nat) (v : Word)
  /-- HQCTL_WRITE (R301): Set a die's hardware-queue mapping mode and times. -/
  | hqctlWrite (ag : IoAgent) (die : Nat) (v : Word)
  /-- FQCTL_WRITE (R324): Set fault-queue enable, size and consumed head. -/
  | fqctlWrite (ag : IoAgent) (v : Word)
  /-- FRESUME_RETRY (R325): Resolve a class-1 fault record with retry, resuming its source. -/
  | fresumeRetry (ag : IoAgent) (v : Word)
  /-- FRESUME_FAIL (R325): Resolve a class-1 fault record with failure, trapping or rejecting its source. -/
  | fresumeFail (ag : IoAgent) (v : Word)
  /-- WDCTL_WRITE (R324): Set a die's watchdog limit. -/
  | wdctlWrite (ag : IoAgent) (die : Nat) (v : Word)
  /-- GSCTL_WRITE (R351): Enable or disable the guest, ignored while fenced. -/
  | gsctlWrite (ag : IoAgent) (v : Word)
  /-- COUNTER_VALUE_STORE (R364): Owner store sets COUNT and may clear OV; others are ignored and counted. -/
  | counterValueStore (ag : IoAgent) (pasid bank n : Nat) (v : Word)
  /-- SNAPCTL_ARM (R366): Arm the snapshot and select its trigger source. -/
  | snapctlArm (ag : IoAgent) (v : Word)
  /-- SNAPSHOT_TRIGGER (R366): A taken trigger latches every bank's counts into snapshot registers. -/
  | snapshotTrigger (src : Nat)
  /-- POWCTL_WRITE (R369): Set the module power limit and lowest clock. -/
  | powctlWrite (ag : IoAgent) (v : Word)
  /-- DOORBELL_STORE (R139): An 8-byte doorbell store raises db as a maximum or is ignored and counted. -/
  | doorbellStore (off : DoorbellOffset) (width : Nat) (pasid : Option Nat) (v : Word)
  /-- HALYARD_DOORBELL_STORE (R239): A trigger store fires a Halyard bucket or is ignored and counted. -/
  | halyardDoorbellStore (page off width pasid : Nat) (v : Word)
  /-- GUEST_REGISTER_ACCESS (R350): An I/O access to guest register space is carried to the guest, or returns all ones when fenced. -/
  | guestRegisterAccess (tag : Nat) (a : BusAccess)
  /-- REGISTER_MEMORY_QUEUE (R342): Mailbox command 0x01 registers a user-mode queue and binds its doorbell. -/
  | registerMemoryQueue (c : Mailbox)
  /-- DEREGISTER_MEMORY_QUEUE (R342): Mailbox command 0x02 unbinds a queue's doorbell and finishes begun packets. -/
  | deregisterMemoryQueue (c : Mailbox)
  /-- CLEAR_QUEUE_ERROR (R342): Mailbox command 0x03 clears ERR and moves IDX past the rejected slot. -/
  | clearQueueError (c : Mailbox)
  /-- TRANSLATION_INVALIDATION (R83): Mailbox command 0x04 drops translations everywhere and completes when no access uses them. -/
  | translationInvalidation (c : Mailbox)
  /-- HARDWARE_QUEUE_REGISTRATION (R300): Mailbox command 0x05 registers or removes a hardware work queue. -/
  | hardwareQueueRegistration (c : Mailbox)
  /-- CREATE_HALYARD_PLAN (R237): Mailbox command 0x06 creates a plan and returns its handle and doorbell page. -/
  | createHalyardPlan (c : Mailbox)
  /-- FREE_HALYARD_PLAN (R238): Mailbox command 0x07 frees a plan and quarantines its index. -/
  | freeHalyardPlan (c : Mailbox)
  /-- WRITE_BUFFER_TABLE_ENTRY (R236): Mailbox command 0x08 writes a Halyard buffer-table entry. -/
  | writeBufferTableEntry (c : Mailbox)
  /-- WRITE_FABRIC_IMPORT_ENTRY (R229): Mailbox command 0x09 writes a fabric import-table entry. -/
  | writeFabricImportEntry (c : Mailbox)
  /-- SET_FORMAT_WINDOW (R96): Mailbox command 0x0A sets a format window's registers. -/
  | setFormatWindow (c : Mailbox)
  /-- WRITE_PASID_CONTEXT (R329): Mailbox command 0x0B writes a PASID context entry. -/
  | writePasidContext (c : Mailbox)
  /-- STAGE_FIRMWARE_IMAGE (R346): Mailbox command 0x0C stages an image for the next reset. -/
  | stageFirmwareImage (c : Mailbox)
  /-- COMMIT_SECURITY_VERSION (R347): Mailbox command 0x0D raises the fuse counter within its limits. -/
  | commitSecurityVersion (c : Mailbox)
  /-- PREEMPT_GUEST (R357): Mailbox command 0x0E asks the guest to save its work for a PASID. -/
  | preemptGuest (c : Mailbox)
  /-- RELOAD_GUEST (R357): Mailbox command 0x0F makes the guest reload its state and resume. -/
  | reloadGuest (c : Mailbox)
  /-- COPY_GUEST_IDENTITY (R354): Mailbox command 0x10 writes the guest certificate chain, measurement and verdict to the host. -/
  | copyGuestIdentity (c : Mailbox)
  /-- RESOLVE_FAULT_RECORD (R361): Mailbox command 0x11 installs a leaf entry and resolves a class-1 record. -/
  | resolveFaultRecord (c : Mailbox)
  /-- WRITE_COUNTER_CONTROL (R362): Mailbox command 0x12 writes a counter control register. -/
  | writeCounterControl (c : Mailbox)
  /-- WRITE_PARTITION_CONFIG (R367): Mailbox command 0x13 writes a partition configuration. -/
  | writePartitionConfig (c : Mailbox)
  /-- MAILBOX_UNLISTED_OP (R342): A command record with an unlisted OP is refused with reason 16. -/
  | mailboxUnlistedOp (c : Mailbox)
  /-- QUEUE_SLOT_FETCH (R143): A queue engine reads the next slot once the doorbell covers it and its valid byte is set, and checks it. -/
  | queueSlotFetch (pasid hdr : Nat)
  /-- COPY_PACKET (R144): The engine performs a class 0x01 copy of rows. -/
  | copyPacket (e : EngineRef) (slot n : Nat)
  /-- COPY_QUANTIZE_PACKET (R145): The engine quantizes rows in blocks by the block-maximum rule. -/
  | copyQuantizePacket (e : EngineRef) (slot n : Nat)
  /-- COPY_DECODE_PACKET (R146): The engine decodes narrow or block-scaled rows to a wide format. -/
  | copyDecodePacket (e : EngineRef) (slot n : Nat)
  /-- REDUCE_COPY_PACKET (R147): The engine combines each source element into its destination exactly once. -/
  | reduceCopyPacket (e : EngineRef) (slot n : Nat)
  /-- FILL_PACKET (R148): The engine writes an 8-byte pattern over rows. -/
  | fillPacket (e : EngineRef) (slot n : Nat)
  /-- PACKET_COMPLETE (R143): Once payload and earlier stamps are visible the engine writes the stamp, interrupts, clears the slot and
  advances IDX. -/
  | packetComplete (e : EngineRef) (slot : Nat)
  /-- LAUNCH_PACKET (R290): The launch front end checks a class 0x10 packet and creates a launch. -/
  | launchPacket (pasid hdr slot : Nat)
  /-- QUEUE_POOL_GRANT (R227): A waiting matrix, copy or cross-lane queue request is granted a pool entry. -/
  | queuePoolGrant (core sid : Nat)
  /-- EXTENDED_BLOCK_GRANT (R158): A freed extended block is granted to a waiting RACQ stream. -/
  | extendedBlockGrant (core : Nat)
  /-- MATRIX_COMMAND_START (R224): A queued matrix command starts in the matrix unit. -/
  | matrixCommandStart (core seq : Nat)
  /-- MATRIX_COMMAND_COMPLETE (R224): A matrix command finishes, updating its tile or rows and releasing locks and its queue entry. -/
  | matrixCommandComplete (core seq : Nat)
  /-- WATCH_RELOAD (R152): A write to a watched line reloads the word and releases a satisfied waiter or spinner. -/
  | watchReload (sid : Nat)
  /-- WATCH_RECHECK_EXPIRY (R152): The 50 µs recheck reloads a watched word or releases a spinner. -/
  | watchRecheckExpiry (sid : Nat)
  /-- SPIN_RECOGNISED (R283): The sixteenth qualifying iteration makes the stream wait as a recognised spinner. -/
  | spinRecognised (sid : Nat)
  /-- ENGINE_KNOT_ARRIVAL (R271): An engine arrives on a knot after its payload, or is refused and counted. -/
  | engineKnotArrival (kind : EngineKind) (pasid : Nat) (va : Word)
  /-- RESIDENCY_DECISION (R279): A residency unit places an absent gang, swapping out a candidate if needed. -/
  | residencyDecision (core : Nat)
  /-- GANG_EVICTION (R333): A gang chosen for eviction is saved at its commit point and its resources freed. -/
  | gangEviction (launch gang : Nat)
  /-- FAIRNESS_ROTATION (R287): The quantum timer expires and the longest-resident gang is rotated out. -/
  | fairnessRotation (core launch : Nat)
  /-- GANG_FINISH (R263): A gang whose slices have all exited drains, frees resources and leaves its knots. -/
  | gangFinish (launch gang : Nat)
  /-- LAUNCH_COMPLETE (R291): When all gangs finished and stores are visible, the launch stamp is written. -/
  | launchComplete (launch : Nat)
  /-- PLACEMENT_DECISION (R293): The scheduler walks the waiting order and places or restores splices. -/
  | placementDecision
  /-- SPLICE_AGED (R294): A splice's wait reaches AGE and it reserves a core. -/
  | spliceAged (launch splice die : Nat)
  /-- SPLICE_PREEMPTION (R296): After PDELAY a waiting splice evicts lower-priority gangs from a core. -/
  | splicePreemption (launch : Nat) (a : PreemptingSplice)
  /-- PACK_WINDOW_CLOSE (R255): A P-branch window closes and repacks slices into new streams. -/
  | packWindowClose (launch splice : Nat) (addr : Word)
  /-- REGANG_COMBINE (R259): Once no slice of a gang runs, waiting slices combine into streams. -/
  | regangCombine (launch gang : Nat)
  /-- DEFERRED_TRAP (R133): A deferred remote-store or log-full report raises its trap at the next instruction boundary. -/
  | deferredTrap (sid : Nat)
  /-- WATCHDOG_EXPIRY (R328): A stream uncommitted for LIMIT ms is rolled back and raises 0x12. -/
  | watchdogExpiry (sid : Nat)
  /-- FAULT_RECORD_POST (R324): A fault record is written to the ring when it has room and is enabled. -/
  | faultRecordPost
  /-- HW_QUEUE_IDLE_UNMAP (R301): A hardware queue unused for IDLE µs is unmapped. -/
  | hwQueueIdleUnmap (pasid desc : Nat)
  /-- RUN_LIST_TURN (R301): At each quantum firmware remaps the current process's queues and swaps saved counters. -/
  | runListTurn (die : Nat)
  /-- FABRIC_REQUEST_ARRIVAL (R230): A request from another device is admitted by the import table and performed, or refused. -/
  | fabricRequestArrival (r : FabricRequest)
  /-- FABRIC_RESPONSE_ARRIVAL (R92): An answer or refusal to a remote access returns to the issuer. -/
  | fabricResponseArrival (tag : Nat) (r : FabricAnswer)
  /-- FABRIC_REQUEST_TIMEOUT (R228): A request unanswered for 1 ms counts as unanswered. -/
  | fabricRequestTimeout (tag : Nat)
  /-- XNET_COMPLETE (R233): When every lane is done the XNET stamp is written, or the error stamp. -/
  | xnetComplete (seq : Nat)
  /-- HALYARD_PACKET_ARRIVAL (R337): A Halyard packet is reduced, held for a later round or dropped as late. -/
  | halyardPacketArrival (p : HalyardPacket)
  /-- HALYARD_BUCKET_COMPLETE (R244): A bucket's result lines, record and knot arrival are written on a device. -/
  | halyardBucketComplete (handle bucket : Nat)
  /-- HALYARD_DEADLINE_EXPIRY (R245): A deadline timer forwards the partial with this device's contribution empty. -/
  | halyardDeadlineExpiry (handle : Nat) (a : DueBucket)
  /-- PLAN_FREE_DRAIN_EXPIRY (R238): 1 ms after freeing a plan its in-flight buckets end with error. -/
  | planFreeDrainExpiry (handle : Nat)
  /-- PLAN_INDEX_QUARANTINE_END (R238): After 2 ms a freed plan index becomes reusable with a new generation. -/
  | planIndexQuarantineEnd (index : Nat)
  /-- CKROLL_COMPLETE (R317): The rollback engine finishes restoring a region, opens the epoch and writes the stamp. -/
  | ckrollComplete (launch region : Nat)
  /-- MODULE_RESET (R346): The boot ROM self-tests, verifies the image and starts full or reduced service. -/
  | moduleReset (st : SelfTest)
  /-- FATAL_RESET (R345): A fatal reset loses modified host lines and logs them. -/
  | fatalReset (die : Nat)
  /-- HOST_LINE_FLUSH (R345): Before a die is reset, gated or saved, the proxy drains its host lines. -/
  | hostLineFlush (die : Nat)
  /-- DIE_POWER_GATE (R369): An idle compute die is power-gated. -/
  | diePowerGate (die : Nat)
  /-- DIE_WAKE (R369): A gated die wakes when work arrives for it. -/
  | dieWake (die : Nat)
  /-- POWER_WINDOW (R369): Each 1 ms average adjusts the arithmetic clock in 100 MHz steps. -/
  | powerWindow (watts : Nat)
  /-- GUEST_RESET (R354): After a guest reset its identity is checked before enabling. -/
  | guestReset (id : GuestIdentity)
  /-- GUEST_COHERENT_REQUEST (R353): A guest coherent-channel request is performed as an engine access. -/
  | guestCoherentRequest (r : GuestRequest)
  /-- GUEST_KNOT_ARRIVAL (R353): A guest knot-arrival message is performed under R271. -/
  | guestKnotArrival (pasid : Nat) (va : Word)
  /-- GUEST_TRANSLATION_REQUEST (R355): The device walks for a guest translation request and replies. -/
  | guestTranslationRequest (pasid : Nat) (va : Word) (write : Bool)
  /-- GUEST_FAULT_RECORD (R356): A guest fault record is posted with SKIND 6. -/
  | guestFaultRecord (r : FaultRecord)
  /-- GUEST_SAVE_ACK (R357): The guest's save acknowledgement completes command 0x0E. -/
  | guestSaveAck (data : List Byte)
  /-- GUEST_SNOOP_TIMEOUT (R358): A snoop or recall unanswered for 2 µs fences the guest. -/
  | guestSnoopTimeout (line : Nat)
  /-- GUEST_INVALIDATION_TIMEOUT (R358): An ATC invalidation unacknowledged for 10 µs fences the guest. -/
  | guestInvalidationTimeout
  /-- GUEST_SAVE_TIMEOUT (R358): No save acknowledgement within 60 µs fences the guest. -/
  | guestSaveTimeout
  /-- GUEST_LINK_DOWN (R358): The UCIe link leaving the active state fences the guest. -/
  | guestLinkDown
  /-- LAUNCH_KILL (R322): System software kills a launch, which aborts with forced evictions, a class-7 record and the error stamp. -/
  | launchKill (launch : Nat)
  /-- PARTITION_RESET (R162): A partition reset forcibly evicts the partition's gangs without waiting for outstanding results. -/
  | partitionReset (p : Nat)
  /-- GUEST_INVALIDATION_ACK (R355): The guest acknowledges an ATC invalidation, letting the translation-invalidation command complete. -/
  | guestInvalidationAck
  /-- GUEST_RECALL_ANSWER (R108): The guest answers a snoop or recall, and the access that waited on it proceeds. -/
  | guestRecallAnswer (line : Nat) (data : List Byte)
  /-- GUEST_REGISTER_ANSWER (R350): The guest answers an I/O access to guest register space, completing the waiting load or store. -/
  | guestRegisterAnswer (tag : Nat) (data : List Byte)
  deriving DecidableEq, Repr

end Sys2Proof
end

