-- ==== Sys2Proof/WellFormed.lean ====
section
/-! DEFINITION. Which instructions are legal words (spec/02_instruction_words.md R28 to R35, R39 to R43, with the tables of
R175, R185, R200, R201, R231, R302 and R315). Events are always well formed. -/

namespace Sys2Proof

/-- A T that names an integer type (R36). -/
def intT (t : BitVec 3) : Bool := t.toNat ≤ 4

/-- A T that names a float type (R37). -/
def floatT (t : BitVec 3) : Bool := t.toNat ≤ 6

/-- The B operand of an integer VR word (R28): X = 11 is reserved, and at .4 an immediate lies in -8 to 7. -/
def intB (f : VRFields) : Bool :=
  f.x != 3#2 && (!(f.x == 2#2 && f.t == 4#3) || (-8 ≤ f.b.toInt && f.b.toInt ≤ 7))

/-- The B operand of a float VR word (R28): no immediate at .e4m3, .e5m2 and .cb4. -/
def floatB (f : VRFields) : Bool := f.x != 3#2 && !(f.x == 2#2 && 4 ≤ f.t.toNat)

/-- A unary word: B and X are zero (R28). -/
def unaryB (f : VRFields) : Bool := f.x == 0#2 && f.b == 0#6

/-- CVT's source format codes (R193). -/
def cvtSource (b : BitVec 6) : Bool :=
  b.toNat ≤ 5 || (9 ≤ b.toNat && b.toNat ≤ 0x0E) || b.toNat == 0x10

/-- The operation selector of RED, SCAN and MRED with its T (R201). -/
def selectorOk (b : BitVec 6) (t : BitVec 3) : Bool :=
  b.toNat < 16 && (if b.getLsbD 3 then floatT t && b.toNat % 8 ≤ 2 else intT t && b.toNat % 8 ≤ 5)

/-- An m register field: bits 5:4 are zero (R200). -/
def mField (r : BitVec 6) : Bool := r.toNat < 16

/-- Whether the fields of a VR word are legal for its operation (R175, R178, R179, R185, R193, R195, R200, R201). -/
def VROp.wf (op : VROp) (f : VRFields) : Bool :=
  match op with
  | .iadd | .isub | .iadds | .isubs | .imul | .imulh | .umulh | .imad | .imin | .imax | .umin | .umax | .shl | .shr
  | .sar | .and | .or | .xor | .andn | .icmpeq | .icmplt | .icmpltu | .sel => intT f.t && intB f
  | .iabs | .popc | .clz | .brev | .mov => intT f.t && unaryB f
  | .bfx | .bfi | .lea => f.t.toNat ≤ 3 && intB f
  | .fadd | .fsub | .fmul | .ffma | .fmin | .fmax | .fcmpeq | .fcmplt | .fcmple | .fcmpun => floatT f.t && floatB f
  | .fabs | .fneg | .fround | .fclass => floatT f.t && unaryB f
  | .frcp | .fsqrt => f.t.toNat ≤ 3 && unaryB f
  | .frsq | .fexp2 | .flog2 | .fsin | .fcos | .ftanh => 1 ≤ f.t.toNat && f.t.toNat ≤ 3 && unaryB f
  | .fscale => f.t.toNat ≤ 3 && floatB f
  | .fdot2 => (f.t == 2#3 || f.t == 3#3) && floatB f
  | .cvt => floatT f.t && f.x == 0#2 && cvtSource f.b
  | .cbld => f.t == 2#3 && unaryB f && f.d == 0#6
  | .cbst => f.t == 2#3 && unaryB f && f.a == 0#6
  | .shfl => f.t == 0#3 && (f.x == 0#2 || f.b.toNat < 32)
  | .bcast => intT f.t && (f.x == 1#2 || f.x == 2#2)
  | .perm => f.t.toNat ≤ 3 && f.x == 0#2
  | .mred => f.x == 0#2 && selectorOk f.b f.t
  | .scan | .red => (f.x == 0#2 || f.x == 1#2) && selectorOk f.b f.t
  | .ballot | .mset => f.t == 0#3 && unaryB f && mField f.d && f.d != 0#6
  | .movsv => intT f.t && unaryB f
  | .movvs => intT f.t && (f.x == 1#2 || f.x == 2#2)
  | .first => f.t == 0#3 && unaryB f && mField f.a
  | .iota => f.a == 0#6 && intT f.t && intB f && (f.x != 0#2 || f.b == 0#6)

/-- SAT is accepted (R55, R175, R185, R201). -/
def VROp.acceptsSat (op : VROp) (f : VRFields) : Bool :=
  match op with
  | .iadd | .isub | .imul | .imad | .iabs | .shl => true
  | .fadd | .fsub | .fmul | .ffma | .frcp | .frsq | .fsqrt | .fexp2 | .flog2 | .fscale | .fdot2 | .cvt => true
  | .red | .scan | .mred => f.b.toNat == 0
  | _ => false

/-- RND is accepted (R185). -/
def VROp.acceptsRnd (op : VROp) : Bool :=
  match op with
  | .fadd | .fsub | .fmul | .ffma | .frcp | .frsq | .fsqrt | .fexp2 | .flog2 | .fsin | .fcos | .ftanh | .fround
  | .fscale | .fdot2 | .cvt => true
  | _ => false

/-- CV is accepted (R175, R185). -/
def VROp.acceptsCv (op : VROp) : Bool :=
  match op with
  | .imad | .ffma | .fdot2 => true
  | _ => false

/-- A prefix that its base word accepts (R40, R41). -/
def Prefix.fits (p : Prefix) (op : VROp) (f : VRFields) : Bool :=
  p.rnd != 7#3 && (p.cv || p.c == 0#6) && (!p.sat || op.acceptsSat f) && (!p.cv || op.acceptsCv)
    && (p.rnd == 0#3 || op.acceptsRnd)

/-- Bit 0 of an even register of a pair. -/
def evenReg (r : BitVec 6) : Bool := r.toNat % 2 == 0

/-- The fields of an S word (R29). -/
def sWf (f : VRFields) : Bool := (f.x == 0#2 || f.x == 2#2) && f.t.toNat ≤ 3

/-- Mode 11 takes no base register (R31). -/
def modeOk (f : MFields) : Bool := f.mode != 3#2 || f.a == 0#6

/-- A load: any width, an even D at .128 (R31, R32). -/
def loadWf (f : MFields) : Bool := modeOk f && (f.w != 4#3 || evenReg f.d)

/-- A store: widths 0 to 4 (R32). -/
def storeWf (f : MFields) : Bool := loadWf f && f.w.toNat ≤ 4

/-- An atomic: an even D for compare-and-swap (R32). -/
def atomWf (f : MFields) : Bool := modeOk f && (f.w != 7#3 || evenReg f.d)

/-- PREF and ZERO: D zero, extents 0 to 4 (R32). -/
def extentWf (f : MFields) : Bool := modeOk f && f.w.toNat ≤ 4 && f.d == 0#6

/-- No field of an X word beyond those named is used (R34). -/
def xZero (f : XFields) (sg clr aux bm am c : Bool) : Bool :=
  (sg || !f.sg) && (clr || !f.clr) && (aux || f.aux == 0#6) && (bm || f.bm == 0#3) && (am || f.am == 0#3)
    && (if c then f.c.toNat < 16 else f.c == 0#6)

/-- The instruction is a legal word or pair (R43); an event always is. -/
def Instr.wf (i : Instr) : Bool :=
  match i with
  | .prefixedInstruction p op f => op.wf f && p.fits op f
  | .iadd f => VROp.wf .iadd f
  | .isub f => VROp.wf .isub f
  | .iadds f => VROp.wf .iadds f
  | .isubs f => VROp.wf .isubs f
  | .imul f => VROp.wf .imul f
  | .imulh f => VROp.wf .imulh f
  | .umulh f => VROp.wf .umulh f
  | .imad f => VROp.wf .imad f
  | .imin f => VROp.wf .imin f
  | .imax f => VROp.wf .imax f
  | .umin f => VROp.wf .umin f
  | .umax f => VROp.wf .umax f
  | .iabs f => VROp.wf .iabs f
  | .shl f => VROp.wf .shl f
  | .shr f => VROp.wf .shr f
  | .sar f => VROp.wf .sar f
  | .and f => VROp.wf .and f
  | .or f => VROp.wf .or f
  | .xor f => VROp.wf .xor f
  | .andn f => VROp.wf .andn f
  | .popc f => VROp.wf .popc f
  | .clz f => VROp.wf .clz f
  | .brev f => VROp.wf .brev f
  | .bfx f => VROp.wf .bfx f
  | .bfi f => VROp.wf .bfi f
  | .lea f => VROp.wf .lea f
  | .icmpeq f => VROp.wf .icmpeq f
  | .icmplt f => VROp.wf .icmplt f
  | .icmpltu f => VROp.wf .icmpltu f
  | .sel f => VROp.wf .sel f
  | .mov f => VROp.wf .mov f
  | .fadd f => VROp.wf .fadd f
  | .fsub f => VROp.wf .fsub f
  | .fmul f => VROp.wf .fmul f
  | .ffma f => VROp.wf .ffma f
  | .fmin f => VROp.wf .fmin f
  | .fmax f => VROp.wf .fmax f
  | .fabs f => VROp.wf .fabs f
  | .fneg f => VROp.wf .fneg f
  | .fcmpeq f => VROp.wf .fcmpeq f
  | .fcmplt f => VROp.wf .fcmplt f
  | .fcmple f => VROp.wf .fcmple f
  | .fcmpun f => VROp.wf .fcmpun f
  | .frcp f => VROp.wf .frcp f
  | .frsq f => VROp.wf .frsq f
  | .fsqrt f => VROp.wf .fsqrt f
  | .fexp2 f => VROp.wf .fexp2 f
  | .flog2 f => VROp.wf .flog2 f
  | .fsin f => VROp.wf .fsin f
  | .fcos f => VROp.wf .fcos f
  | .ftanh f => VROp.wf .ftanh f
  | .fround f => VROp.wf .fround f
  | .fscale f => VROp.wf .fscale f
  | .fclass f => VROp.wf .fclass f
  | .fdot2 f => VROp.wf .fdot2 f
  | .cvt f => VROp.wf .cvt f
  | .cbld f => VROp.wf .cbld f
  | .cbst f => VROp.wf .cbst f
  | .shfl f => VROp.wf .shfl f
  | .bcast f => VROp.wf .bcast f
  | .perm f => VROp.wf .perm f
  | .mred f => VROp.wf .mred f
  | .scan f => VROp.wf .scan f
  | .red f => VROp.wf .red f
  | .ballot f => VROp.wf .ballot f
  | .mset f => VROp.wf .mset f
  | .movsv f => VROp.wf .movsv f
  | .movvs f => VROp.wf .movvs f
  | .first f => VROp.wf .first f
  | .iota f => VROp.wf .iota f
  | .sadd f => sWf f
  | .ssub f => sWf f
  | .smul f => sWf f
  | .sand f => sWf f
  | .sor f => sWf f
  | .sxor f => sWf f
  | .sshl f => sWf f
  | .sshr f => sWf f
  | .ssar f => sWf f
  | .scmp f => sWf f
  | .smov f => sWf f && unaryB f
  | .slea f => sWf f
  | .getsr f => f.n.toNat ≤ 20
  | .setsr f => f.n == 12#8 || f.n == 13#8
  | .ld f | .lds f | .sld f => loadWf f
  | .st f | .sts f | .sst f => storeWf f
  | .atom f | .atomx f | .satom f => atomWf f
  | .pref f | .zero f => extentWf f
  | .commit f => f.mode == 0#2 && f.b == 0#6 && f.a == 0#6 && f.d == 0#6 && f.w == 0#3
  | .jmp f | .call f | .yieldContinuation f | .trap f => f.a == 0#6
  | .jmpReg f | .callReg f => f.imm == 0#14
  | .ret f | .regang f | .yield f | .exit f | .rte f | .brk f => f.a == 0#6 && f.imm == 0#14
  | .mma f => f.sub == 0#3 && xZero f true true false true true true
  | .mmas f => f.sub.toNat ≤ 1 && xZero f true true true true true true
  | .mmat f => f.sub == 0#3 && xZero f false true false true true true
  | .mfence f | .mwait f => f.sub == 0#3 && xZero f false false true false false false
  | .accld f | .accst f => f.sub == 0#3 && xZero f false false false false true true
  | .accldZero f => f.sub == 1#3 && xZero f false false false false false true
  | .omset f => f.sub == 0#3 && evenReg f.aux && xZero f false false true false true false
  | .qpush f | .qpop f => f.b == 0#6 && f.d.toNat % 4 == 0
  | .qtry f => f.d.toNat % 4 == 0
  | .xput f | .xget f | .xatom f => evenReg f.d && evenReg f.a
  | .qlen f | .hstat f | .kjoin f | .karrive f | .karrw f | .kquery f | .resize f | .cktake f | .ckdrop f => f.b == 0#6
  | .hfire f | .kleave f | .kfree f => f.d == 0#6 && f.b == 0#6
  | .knew f | .kwait f | .warm f => f.d == 0#6
  | .racq f | .rrel f => f.d == 0#6 && f.a == 0#6 && f.b == 0#6
  | .ckmark f => evenReg f.a && evenReg f.b
  | .ckroll f => evenReg f.b
  | .illegalInstruction _ | .instructionFetch _ _ | .instructionCommit _ | .registerResultReturn _ _ _
  | .storeVisibility _ | .rollback _ _ | .pageWalk _ _ _ | .aliasReadDecode _
  | .aliasWriteBack _ | .hostSnoop _ | .hostMemAccess _ | .ioHoleAccess _ _
  | .registerWrite _ _ _ | .memcarveWrite _ _ | .l2mrgWrite _ _ _ | .fwCtlEnable _ _ _
  | .fwCtlDisable _ _ _ | .qpoolWrite _ _ _ | .harbWrite _ _ _ | .ruqWrite _ _ _
  | .schctlWrite _ _ _ | .hqctlWrite _ _ _ | .fqctlWrite _ _ | .fresumeRetry _ _
  | .fresumeFail _ _ | .wdctlWrite _ _ _ | .gsctlWrite _ _ | .counterValueStore _ _ _ _ _
  | .snapctlArm _ _ | .snapshotTrigger _ | .powctlWrite _ _ | .doorbellStore _ _ _ _
  | .halyardDoorbellStore _ _ _ _ _ | .guestRegisterAccess _ _ | .registerMemoryQueue _ | .deregisterMemoryQueue _
  | .clearQueueError _ | .translationInvalidation _ | .hardwareQueueRegistration _ | .createHalyardPlan _
  | .freeHalyardPlan _ | .writeBufferTableEntry _ | .writeFabricImportEntry _ | .setFormatWindow _
  | .writePasidContext _ | .stageFirmwareImage _ | .commitSecurityVersion _ | .preemptGuest _
  | .reloadGuest _ | .copyGuestIdentity _ | .resolveFaultRecord _ | .writeCounterControl _
  | .writePartitionConfig _ | .mailboxUnlistedOp _ | .queueSlotFetch _ _ | .copyPacket _ _ _
  | .copyQuantizePacket _ _ _ | .copyDecodePacket _ _ _ | .reduceCopyPacket _ _ _ | .fillPacket _ _ _
  | .packetComplete _ _ | .launchPacket _ _ _ | .queuePoolGrant _ _ | .extendedBlockGrant _
  | .matrixCommandStart _ _ | .matrixCommandComplete _ _ | .watchReload _ | .watchRecheckExpiry _
  | .spinRecognised _ | .engineKnotArrival _ _ _ | .residencyDecision _ | .gangEviction _ _
  | .fairnessRotation _ _ | .gangFinish _ _ | .launchComplete _ | .placementDecision
  | .spliceAged _ _ _ | .splicePreemption _ _ | .packWindowClose _ _ _ | .regangCombine _ _
  | .deferredTrap _ | .watchdogExpiry _ | .faultRecordPost | .hwQueueIdleUnmap _ _
  | .runListTurn _ | .fabricRequestArrival _ | .fabricResponseArrival _ _ | .fabricRequestTimeout _
  | .xnetComplete _ | .halyardPacketArrival _ | .halyardBucketComplete _ _ | .halyardDeadlineExpiry _ _
  | .planFreeDrainExpiry _ | .planIndexQuarantineEnd _ | .ckrollComplete _ _ | .moduleReset _
  | .fatalReset _ | .hostLineFlush _ | .diePowerGate _ | .dieWake _
  | .powerWindow _ | .guestReset _ | .guestCoherentRequest _ | .guestKnotArrival _ _
  | .guestTranslationRequest _ _ _ | .guestFaultRecord _ | .guestSaveAck _ | .guestSnoopTimeout _
  | .guestInvalidationTimeout | .guestSaveTimeout | .guestLinkDown | .launchKill _
  | .partitionReset _ | .guestInvalidationAck | .guestRecallAnswer _ _ | .guestRegisterAnswer _ _
  | .nop | .li _ | .lih _ | .br _
  | .iadd16 _ | .isub16 _ | .and16 _ | .or16 _
  | .xor16 _ | .shl16 _ | .mov16 _ | .fadd16 _
  | .fsub16 _ | .fmul16 _ | .fmax16 _ | .imin16 _
  | .imax16 _ | .sadd16 _ | .smov16 _ | .cpyCopy _
  | .cpyQuant _ | .cpyDec _ | .cpyRed _ | .cpyFill _
  | .pkt _ | .spawn _ | .wwait _ | .wstamp _ => true

end Sys2Proof
end

