-- ==== Sys2Proof/Decode.lean ====
section
/-! DEFINITION. Decoding (spec/02_instruction_words.md R20 to R44), total on any bytes, and the encoder written from the
same field maps. -/

namespace Sys2Proof

/-- What the bytes at the PC decode to: an instruction and its length, an illegal word or pair with the encoding that
R44 puts into sr_trapinfo and the word's length, or too few bytes (the number needed). -/
inductive Decoded where
  | instr (i : Instr) (len : Nat)
  | illegal (info : Word) (len : Nat)
  | more (need : Nat)
  deriving DecidableEq, Repr

/-- The bit of a one-bit field. -/
def bit1 (w : BitVec n) (i : Nat) : Bool := w.getLsbD i

/-- OP of a VR operation (R42). -/
def VROp.code : VROp → BitVec 7
  | .iadd => 0x00#7
  | .isub => 0x01#7
  | .iadds => 0x02#7
  | .isubs => 0x03#7
  | .imul => 0x04#7
  | .imulh => 0x05#7
  | .umulh => 0x06#7
  | .imad => 0x07#7
  | .imin => 0x08#7
  | .imax => 0x09#7
  | .umin => 0x0A#7
  | .umax => 0x0B#7
  | .iabs => 0x0C#7
  | .shl => 0x0D#7
  | .shr => 0x0E#7
  | .sar => 0x0F#7
  | .and => 0x10#7
  | .or => 0x11#7
  | .xor => 0x12#7
  | .andn => 0x13#7
  | .popc => 0x14#7
  | .clz => 0x15#7
  | .brev => 0x16#7
  | .bfx => 0x17#7
  | .bfi => 0x18#7
  | .lea => 0x19#7
  | .icmpeq => 0x1A#7
  | .icmplt => 0x1B#7
  | .icmpltu => 0x1C#7
  | .sel => 0x1D#7
  | .mov => 0x1E#7
  | .fadd => 0x20#7
  | .fsub => 0x21#7
  | .fmul => 0x22#7
  | .ffma => 0x23#7
  | .fmin => 0x24#7
  | .fmax => 0x25#7
  | .fabs => 0x26#7
  | .fneg => 0x27#7
  | .fcmpeq => 0x28#7
  | .fcmplt => 0x29#7
  | .fcmple => 0x2A#7
  | .fcmpun => 0x2B#7
  | .frcp => 0x2C#7
  | .frsq => 0x2D#7
  | .fsqrt => 0x2E#7
  | .fexp2 => 0x2F#7
  | .flog2 => 0x30#7
  | .fsin => 0x31#7
  | .fcos => 0x32#7
  | .ftanh => 0x33#7
  | .fround => 0x34#7
  | .fscale => 0x35#7
  | .fclass => 0x36#7
  | .fdot2 => 0x37#7
  | .cvt => 0x38#7
  | .cbld => 0x39#7
  | .cbst => 0x3A#7
  | .shfl => 0x40#7
  | .bcast => 0x41#7
  | .perm => 0x42#7
  | .mred => 0x43#7
  | .scan => 0x44#7
  | .red => 0x45#7
  | .ballot => 0x46#7
  | .mset => 0x47#7
  | .movsv => 0x48#7
  | .movvs => 0x49#7
  | .first => 0x4A#7
  | .iota => 0x4B#7

/-- The VR operation of an OP (R42). -/
def VROp.ofCode (c : BitVec 7) : Option VROp :=
  match c.toNat with
  | 0x00 => some .iadd
  | 0x01 => some .isub
  | 0x02 => some .iadds
  | 0x03 => some .isubs
  | 0x04 => some .imul
  | 0x05 => some .imulh
  | 0x06 => some .umulh
  | 0x07 => some .imad
  | 0x08 => some .imin
  | 0x09 => some .imax
  | 0x0A => some .umin
  | 0x0B => some .umax
  | 0x0C => some .iabs
  | 0x0D => some .shl
  | 0x0E => some .shr
  | 0x0F => some .sar
  | 0x10 => some .and
  | 0x11 => some .or
  | 0x12 => some .xor
  | 0x13 => some .andn
  | 0x14 => some .popc
  | 0x15 => some .clz
  | 0x16 => some .brev
  | 0x17 => some .bfx
  | 0x18 => some .bfi
  | 0x19 => some .lea
  | 0x1A => some .icmpeq
  | 0x1B => some .icmplt
  | 0x1C => some .icmpltu
  | 0x1D => some .sel
  | 0x1E => some .mov
  | 0x20 => some .fadd
  | 0x21 => some .fsub
  | 0x22 => some .fmul
  | 0x23 => some .ffma
  | 0x24 => some .fmin
  | 0x25 => some .fmax
  | 0x26 => some .fabs
  | 0x27 => some .fneg
  | 0x28 => some .fcmpeq
  | 0x29 => some .fcmplt
  | 0x2A => some .fcmple
  | 0x2B => some .fcmpun
  | 0x2C => some .frcp
  | 0x2D => some .frsq
  | 0x2E => some .fsqrt
  | 0x2F => some .fexp2
  | 0x30 => some .flog2
  | 0x31 => some .fsin
  | 0x32 => some .fcos
  | 0x33 => some .ftanh
  | 0x34 => some .fround
  | 0x35 => some .fscale
  | 0x36 => some .fclass
  | 0x37 => some .fdot2
  | 0x38 => some .cvt
  | 0x39 => some .cbld
  | 0x3A => some .cbst
  | 0x40 => some .shfl
  | 0x41 => some .bcast
  | 0x42 => some .perm
  | 0x43 => some .mred
  | 0x44 => some .scan
  | 0x45 => some .red
  | 0x46 => some .ballot
  | 0x47 => some .mset
  | 0x48 => some .movsv
  | 0x49 => some .movvs
  | 0x4A => some .first
  | 0x4B => some .iota
  | _ => none

/-- The unprefixed instruction of a VR operation. -/
def VROp.toInstr (op : VROp) (f : VRFields) : Instr :=
  match op with
  | .iadd => .iadd f
  | .isub => .isub f
  | .iadds => .iadds f
  | .isubs => .isubs f
  | .imul => .imul f
  | .imulh => .imulh f
  | .umulh => .umulh f
  | .imad => .imad f
  | .imin => .imin f
  | .imax => .imax f
  | .umin => .umin f
  | .umax => .umax f
  | .iabs => .iabs f
  | .shl => .shl f
  | .shr => .shr f
  | .sar => .sar f
  | .and => .and f
  | .or => .or f
  | .xor => .xor f
  | .andn => .andn f
  | .popc => .popc f
  | .clz => .clz f
  | .brev => .brev f
  | .bfx => .bfx f
  | .bfi => .bfi f
  | .lea => .lea f
  | .icmpeq => .icmpeq f
  | .icmplt => .icmplt f
  | .icmpltu => .icmpltu f
  | .sel => .sel f
  | .mov => .mov f
  | .fadd => .fadd f
  | .fsub => .fsub f
  | .fmul => .fmul f
  | .ffma => .ffma f
  | .fmin => .fmin f
  | .fmax => .fmax f
  | .fabs => .fabs f
  | .fneg => .fneg f
  | .fcmpeq => .fcmpeq f
  | .fcmplt => .fcmplt f
  | .fcmple => .fcmple f
  | .fcmpun => .fcmpun f
  | .frcp => .frcp f
  | .frsq => .frsq f
  | .fsqrt => .fsqrt f
  | .fexp2 => .fexp2 f
  | .flog2 => .flog2 f
  | .fsin => .fsin f
  | .fcos => .fcos f
  | .ftanh => .ftanh f
  | .fround => .fround f
  | .fscale => .fscale f
  | .fclass => .fclass f
  | .fdot2 => .fdot2 f
  | .cvt => .cvt f
  | .cbld => .cbld f
  | .cbst => .cbst f
  | .shfl => .shfl f
  | .bcast => .bcast f
  | .perm => .perm f
  | .mred => .mred f
  | .scan => .scan f
  | .red => .red f
  | .ballot => .ballot f
  | .mset => .mset f
  | .movsv => .movsv f
  | .movvs => .movvs f
  | .first => .first f
  | .iota => .iota f

/-- The fields of a VR or S word (R27, R29). -/
def vrFields (w : BitVec 32) : VRFields :=
  { x := w.extractLsb' 30 2, b := w.extractLsb' 24 6, a := w.extractLsb' 18 6, d := w.extractLsb' 12 6
    t := w.extractLsb' 9 3, h := bit1 w 1 }

/-- The fields of LI and LIH (R30); `none` where bit 9 is set. -/
def siFields (w : BitVec 32) : Option SIFields :=
  if bit1 w 9 then none else some { imm := w.extractLsb' 16 16, d := w.extractLsb' 10 6, h := bit1 w 1 }

/-- The fields of GETSR and SETSR (R30); `none` where a reserved bit is set. -/
def srFields (w : BitVec 32) : Option SRFields :=
  if bit1 w 9 || w.extractLsb' 16 8 != 0#8 then none
  else some { n := w.extractLsb' 24 8, d := w.extractLsb' 10 6, h := bit1 w 1 }

/-- The fields of an M word (R31). -/
def mFields (w : BitVec 32) : MFields :=
  { mode := w.extractLsb' 30 2, b := w.extractLsb' 24 6, a := w.extractLsb' 18 6, d := w.extractLsb' 12 6
    w := w.extractLsb' 9 3, h := bit1 w 1 }

/-- The fields of a BR word (R33). -/
def brFields (w : BitVec 32) : BRFields :=
  { off := w.extractLsb' 18 14, c := w.extractLsb' 13 5, n := bit1 w 12, w := bit1 w 11, p := bit1 w 10
    u := bit1 w 9, h := bit1 w 1 }

/-- The fields of a J word (R33). -/
def jFields (w : BitVec 32) : JFields :=
  { imm := w.extractLsb' 18 14, a := w.extractLsb' 12 6, h := bit1 w 1 }

/-- The fields of an X word (R34). -/
def xFields (w : BitVec 32) : XFields :=
  { sg := bit1 w 31, clr := bit1 w 30, aux := w.extractLsb' 24 6, bm := w.extractLsb' 21 3, am := w.extractLsb' 18 3
    c := w.extractLsb' 12 6, sub := w.extractLsb' 9 3, h := bit1 w 1 }

/-- The fields of a K word (R35); `none` where bits 31:30 are not zero. -/
def kFields (w : BitVec 32) : Option KFields :=
  if w.extractLsb' 30 2 != 0#2 then none
  else some { b := w.extractLsb' 24 6, a := w.extractLsb' 18 6, d := w.extractLsb' 12 6, h := bit1 w 1 }

/-- The S instruction of an OP (R42). -/
def decodeS (op : Nat) (f : VRFields) : Option Instr :=
  match op with
  | 0x4C => some (.sadd f)
  | 0x4D => some (.ssub f)
  | 0x4E => some (.smul f)
  | 0x4F => some (.sand f)
  | 0x50 => some (.sor f)
  | 0x51 => some (.sxor f)
  | 0x52 => some (.sshl f)
  | 0x53 => some (.sshr f)
  | 0x54 => some (.ssar f)
  | 0x55 => some (.scmp f)
  | 0x56 => some (.smov f)
  | 0x57 => some (.slea f)
  | _ => none

/-- The M instruction of an OP (R42). -/
def decodeM (op : Nat) (f : MFields) : Option Instr :=
  match op with
  | 0x5C => some (.ld f)
  | 0x5D => some (.st f)
  | 0x5E => some (.lds f)
  | 0x5F => some (.sts f)
  | 0x60 => some (.sld f)
  | 0x61 => some (.sst f)
  | 0x62 => some (.atom f)
  | 0x63 => some (.atomx f)
  | 0x64 => some (.satom f)
  | 0x65 => some (.pref f)
  | 0x66 => some (.zero f)
  | 0x67 => some (.commit f)
  | _ => none

/-- The J instruction of an OP and SUB (R33). -/
def decodeJ (op sub : Nat) (f : JFields) : Option Instr :=
  match op, sub with
  | 0x69, 0 => some (.jmp f)
  | 0x69, 1 => some (.jmpReg f)
  | 0x6A, 0 => some (.call f)
  | 0x6A, 1 => some (.callReg f)
  | 0x6B, 0 => some (.ret f)
  | 0x6C, 0 => some (.regang f)
  | 0x6D, 0 => some (.yield f)
  | 0x6D, 1 => some (.yieldContinuation f)
  | 0x6E, 0 => some (.exit f)
  | 0x6F, 0 => some (.trap f)
  | 0x6F, 1 => some (.rte f)
  | 0x6F, 2 => some (.brk f)
  | _, _ => none

/-- The X instruction of an OP and SUB (R34). MMAS takes SUB 0 and 1 as its half selector. -/
def decodeX (op : Nat) (f : XFields) : Option Instr :=
  match op, f.sub.toNat with
  | 0x70, 0 => some (.mma f)
  | 0x71, 0 => some (.mmas f)
  | 0x71, 1 => some (.mmas f)
  | 0x72, 0 => some (.mmat f)
  | 0x73, 0 => some (.mfence f)
  | 0x74, 0 => some (.mwait f)
  | 0x75, 0 => some (.accld f)
  | 0x75, 1 => some (.accldZero f)
  | 0x76, 0 => some (.accst f)
  | 0x77, 0 => some (.omset f)
  | _, _ => none

/-- The K instruction of an OP and SUB (R42). -/
def decodeK (op sub : Nat) (f : KFields) : Option Instr :=
  match op, sub with
  | 0x78, 0 => some (.cpyCopy f)
  | 0x78, 1 => some (.cpyQuant f)
  | 0x78, 2 => some (.cpyDec f)
  | 0x78, 3 => some (.cpyRed f)
  | 0x78, 4 => some (.cpyFill f)
  | 0x78, 5 => some (.pkt f)
  | 0x79, 0 => some (.qpush f)
  | 0x79, 1 => some (.qpop f)
  | 0x79, 2 => some (.qtry f)
  | 0x79, 3 => some (.qlen f)
  | 0x79, 4 => some (.spawn f)
  | 0x7A, 0 => some (.xput f)
  | 0x7A, 1 => some (.xget f)
  | 0x7A, 2 => some (.xatom f)
  | 0x7B, 0 => some (.hfire f)
  | 0x7B, 1 => some (.hstat f)
  | 0x7C, 0 => some (.knew f)
  | 0x7C, 1 => some (.kjoin f)
  | 0x7C, 2 => some (.kleave f)
  | 0x7C, 3 => some (.karrive f)
  | 0x7C, 4 => some (.kwait f)
  | 0x7C, 5 => some (.karrw f)
  | 0x7C, 6 => some (.kfree f)
  | 0x7C, 7 => some (.kquery f)
  | 0x7D, 0 => some (.warm f)
  | 0x7D, 1 => some (.wwait f)
  | 0x7D, 2 => some (.wstamp f)
  | 0x7E, 0 => some (.racq f)
  | 0x7E, 1 => some (.rrel f)
  | 0x7E, 2 => some (.resize f)
  | 0x7E, 3 => some (.ckmark f)
  | 0x7E, 4 => some (.cktake f)
  | 0x7E, 5 => some (.ckroll f)
  | 0x7E, 6 => some (.ckdrop f)
  | _, _ => none

/-- A 32-bit word other than a prefix, by the format its OP selects (R26), before the legality checks. -/
def decodeFormat (w : BitVec 32) : Option Instr :=
  let op := (w.extractLsb' 2 7).toNat
  if op < 0x4C then (VROp.ofCode (w.extractLsb' 2 7)).map (·.toInstr (vrFields w))
  else if op < 0x58 then decodeS op (vrFields w)
  else if op = 0x58 then (siFields w).map .li
  else if op = 0x59 then (siFields w).map .lih
  else if op = 0x5A then (srFields w).map .getsr
  else if op = 0x5B then (srFields w).map .setsr
  else if op < 0x68 then decodeM op (mFields w)
  else if op = 0x68 then some (.br (brFields w))
  else if op < 0x70 then decodeJ op (w.extractLsb' 9 3).toNat (jFields w)
  else if op < 0x78 then decodeX op (xFields w)
  else if op < 0x7F then (kFields w).bind (decodeK op (w.extractLsb' 9 3).toNat)
  else none

/-- A 32-bit word other than a prefix: the instruction it is, `none` where R43 makes it illegal. -/
def decode32 (w : BitVec 32) : Option Instr :=
  (decodeFormat w).filter Instr.wf

/-- A 16-bit word (R23 to R25). -/
def decode16 (w : BitVec 16) : Option Instr :=
  let f : HalfFields := { a := w.extractLsb' 11 5, d := w.extractLsb' 6 5, h := bit1 w 1 }
  match (w.extractLsb' 2 4).toNat with
  | 0 => if w = 0#16 then some .nop else none
  | 1 => some (.iadd16 f)
  | 2 => some (.isub16 f)
  | 3 => some (.and16 f)
  | 4 => some (.or16 f)
  | 5 => some (.xor16 f)
  | 6 => some (.shl16 f)
  | 7 => some (.mov16 f)
  | 8 => some (.fadd16 f)
  | 9 => some (.fsub16 f)
  | 10 => some (.fmul16 f)
  | 11 => some (.fmax16 f)
  | 12 => some (.imin16 f)
  | 13 => some (.imax16 f)
  | 14 => some (.sadd16 f)
  | 15 => some (.smov16 f)
  | _ => none

/-- The fields of a prefix word (R40); `none` where a reserved bit or H is set. -/
def decodePrefix (w : BitVec 32) : Option Prefix :=
  if w.extractLsb' 25 7 != 0#7 || bit1 w 1 then none
  else some { sat := bit1 w 24, z := bit1 w 23, cv := bit1 w 22, c := w.extractLsb' 16 6, mask := w.extractLsb' 12 4
              rnd := w.extractLsb' 9 3 }

/-- A prefix word and the 32-bit word after it (R41). -/
def decodePair (p w : BitVec 32) : Option Instr :=
  match decodePrefix p, VROp.ofCode (w.extractLsb' 2 7) with
  | some pf, some op =>
    let i := Instr.prefixedInstruction pf op (vrFields w)
    if i.wf then some i else none
  | _, _ => none

/-- The little-endian value of bytes (R3). -/
def leNat : List Byte → Nat
  | [] => 0
  | b :: bs => b.toNat + 256 * leNat bs

/-- The n little-endian bytes of a value (R3). -/
def leBytes : Nat → Nat → List Byte
  | 0, _ => []
  | n + 1, v => BitVec.ofNat 8 v :: leBytes n (v / 256)

/-- Decode the bytes at the PC (R20, R41, R44). -/
def decode (bs : List Byte) : Decoded :=
  match bs with
  | b0 :: b1 :: rest =>
    if b0.getLsbD 0 then
      match rest with
      | b2 :: b3 :: rest =>
        let w := BitVec.ofNat 32 (leNat [b0, b1, b2, b3])
        if w.extractLsb' 2 7 = 0x7F#7 then
          match rest with
          | b4 :: b5 :: rest =>
            if b4.getLsbD 0 then
              match rest with
              | b6 :: b7 :: _ =>
                let v := BitVec.ofNat 32 (leNat [b4, b5, b6, b7])
                match decodePair w v with
                | some i => .instr i 8
                | none => .illegal (BitVec.ofNat 64 (w.toNat + v.toNat * 2 ^ 32)) 8
              | _ => .more 8
            else .illegal (BitVec.ofNat 64 (w.toNat + leNat [b4, b5] * 2 ^ 32)) 6
          | _ => .more 6
        else
          match decode32 w with
          | some i => .instr i 4
          | none => .illegal (BitVec.ofNat 64 w.toNat) 4
      | _ => .more 4
    else
      let w := BitVec.ofNat 16 (leNat [b0, b1])
      match decode16 w with
      | some i => .instr i 2
      | none => .illegal (BitVec.ofNat 64 w.toNat) 2
  | _ => .more 2

/-- The instruction the decoder reads from an instruction whose bits, numbered as spec/opcode_table.json numbers them,
are `w`; the bits above `nbits` are zero. -/
def decodeTableWord (nbits w : Nat) : Option Instr :=
  match decode (leBytes (nbits / 8) w ++ leBytes (8 - nbits / 8) 0) with
  | .instr i _ => some i
  | _ => none

/-! The encoder. -/

/-- A VR or S word (R27). -/
def encVR (op : BitVec 7) (f : VRFields) : BitVec 32 :=
  f.x ++ f.b ++ f.a ++ f.d ++ f.t ++ op ++ BitVec.ofBool f.h ++ 1#1

/-- An LI or LIH word (R30). -/
def encSI (op : BitVec 7) (f : SIFields) : BitVec 32 :=
  f.imm ++ f.d ++ 0#1 ++ op ++ BitVec.ofBool f.h ++ 1#1

/-- A GETSR or SETSR word (R30). -/
def encSR (op : BitVec 7) (f : SRFields) : BitVec 32 :=
  f.n ++ 0#8 ++ f.d ++ 0#1 ++ op ++ BitVec.ofBool f.h ++ 1#1

/-- An M word (R31). -/
def encM (op : BitVec 7) (f : MFields) : BitVec 32 :=
  f.mode ++ f.b ++ f.a ++ f.d ++ f.w ++ op ++ BitVec.ofBool f.h ++ 1#1

/-- A BR word (R33). -/
def encBR (f : BRFields) : BitVec 32 :=
  f.off ++ f.c ++ BitVec.ofBool f.n ++ BitVec.ofBool f.w ++ BitVec.ofBool f.p ++ BitVec.ofBool f.u ++ 0x68#7
    ++ BitVec.ofBool f.h ++ 1#1

/-- A J word (R33). -/
def encJ (op : BitVec 7) (sub : BitVec 3) (f : JFields) : BitVec 32 :=
  f.imm ++ f.a ++ sub ++ op ++ BitVec.ofBool f.h ++ 1#1

/-- An X word (R34). -/
def encX (op : BitVec 7) (sub : BitVec 3) (f : XFields) : BitVec 32 :=
  BitVec.ofBool f.sg ++ BitVec.ofBool f.clr ++ f.aux ++ f.bm ++ f.am ++ f.c ++ sub ++ op ++ BitVec.ofBool f.h ++ 1#1

/-- A K word (R35). -/
def encK (op : BitVec 7) (sub : BitVec 3) (f : KFields) : BitVec 32 :=
  0#2 ++ f.b ++ f.a ++ f.d ++ sub ++ op ++ BitVec.ofBool f.h ++ 1#1

/-- A 16-bit word (R23). -/
def encHalf (opc : BitVec 4) (f : HalfFields) : BitVec 16 :=
  f.a ++ f.d ++ opc ++ BitVec.ofBool f.h ++ 0#1

/-- A prefix word (R40). -/
def encPrefix (p : Prefix) : BitVec 32 :=
  0#7 ++ BitVec.ofBool p.sat ++ BitVec.ofBool p.z ++ BitVec.ofBool p.cv ++ p.c ++ p.mask ++ p.rnd ++ 0x7F#7 ++ 0#1 ++ 1#1

/-- The bytes of a 16-bit word. -/
def bytes16 (w : BitVec 16) : List Byte := leBytes 2 w.toNat

/-- The bytes of a 32-bit word. -/
def bytes32 (w : BitVec 32) : List Byte := leBytes 4 w.toNat

/-- The bytes of an instruction's words; an event has none. -/
def encode (i : Instr) : List Byte :=
  match i with
  | .nop => bytes16 0#16
  | .iadd16 f => bytes16 (encHalf 1#4 f)
  | .isub16 f => bytes16 (encHalf 2#4 f)
  | .and16 f => bytes16 (encHalf 3#4 f)
  | .or16 f => bytes16 (encHalf 4#4 f)
  | .xor16 f => bytes16 (encHalf 5#4 f)
  | .shl16 f => bytes16 (encHalf 6#4 f)
  | .mov16 f => bytes16 (encHalf 7#4 f)
  | .fadd16 f => bytes16 (encHalf 8#4 f)
  | .fsub16 f => bytes16 (encHalf 9#4 f)
  | .fmul16 f => bytes16 (encHalf 10#4 f)
  | .fmax16 f => bytes16 (encHalf 11#4 f)
  | .imin16 f => bytes16 (encHalf 12#4 f)
  | .imax16 f => bytes16 (encHalf 13#4 f)
  | .sadd16 f => bytes16 (encHalf 14#4 f)
  | .smov16 f => bytes16 (encHalf 15#4 f)
  | .prefixedInstruction p op f => bytes32 (encPrefix p) ++ bytes32 (encVR op.code f)
  | .iadd f => bytes32 (encVR 0x00#7 f)
  | .isub f => bytes32 (encVR 0x01#7 f)
  | .iadds f => bytes32 (encVR 0x02#7 f)
  | .isubs f => bytes32 (encVR 0x03#7 f)
  | .imul f => bytes32 (encVR 0x04#7 f)
  | .imulh f => bytes32 (encVR 0x05#7 f)
  | .umulh f => bytes32 (encVR 0x06#7 f)
  | .imad f => bytes32 (encVR 0x07#7 f)
  | .imin f => bytes32 (encVR 0x08#7 f)
  | .imax f => bytes32 (encVR 0x09#7 f)
  | .umin f => bytes32 (encVR 0x0A#7 f)
  | .umax f => bytes32 (encVR 0x0B#7 f)
  | .iabs f => bytes32 (encVR 0x0C#7 f)
  | .shl f => bytes32 (encVR 0x0D#7 f)
  | .shr f => bytes32 (encVR 0x0E#7 f)
  | .sar f => bytes32 (encVR 0x0F#7 f)
  | .and f => bytes32 (encVR 0x10#7 f)
  | .or f => bytes32 (encVR 0x11#7 f)
  | .xor f => bytes32 (encVR 0x12#7 f)
  | .andn f => bytes32 (encVR 0x13#7 f)
  | .popc f => bytes32 (encVR 0x14#7 f)
  | .clz f => bytes32 (encVR 0x15#7 f)
  | .brev f => bytes32 (encVR 0x16#7 f)
  | .bfx f => bytes32 (encVR 0x17#7 f)
  | .bfi f => bytes32 (encVR 0x18#7 f)
  | .lea f => bytes32 (encVR 0x19#7 f)
  | .icmpeq f => bytes32 (encVR 0x1A#7 f)
  | .icmplt f => bytes32 (encVR 0x1B#7 f)
  | .icmpltu f => bytes32 (encVR 0x1C#7 f)
  | .sel f => bytes32 (encVR 0x1D#7 f)
  | .mov f => bytes32 (encVR 0x1E#7 f)
  | .fadd f => bytes32 (encVR 0x20#7 f)
  | .fsub f => bytes32 (encVR 0x21#7 f)
  | .fmul f => bytes32 (encVR 0x22#7 f)
  | .ffma f => bytes32 (encVR 0x23#7 f)
  | .fmin f => bytes32 (encVR 0x24#7 f)
  | .fmax f => bytes32 (encVR 0x25#7 f)
  | .fabs f => bytes32 (encVR 0x26#7 f)
  | .fneg f => bytes32 (encVR 0x27#7 f)
  | .fcmpeq f => bytes32 (encVR 0x28#7 f)
  | .fcmplt f => bytes32 (encVR 0x29#7 f)
  | .fcmple f => bytes32 (encVR 0x2A#7 f)
  | .fcmpun f => bytes32 (encVR 0x2B#7 f)
  | .frcp f => bytes32 (encVR 0x2C#7 f)
  | .frsq f => bytes32 (encVR 0x2D#7 f)
  | .fsqrt f => bytes32 (encVR 0x2E#7 f)
  | .fexp2 f => bytes32 (encVR 0x2F#7 f)
  | .flog2 f => bytes32 (encVR 0x30#7 f)
  | .fsin f => bytes32 (encVR 0x31#7 f)
  | .fcos f => bytes32 (encVR 0x32#7 f)
  | .ftanh f => bytes32 (encVR 0x33#7 f)
  | .fround f => bytes32 (encVR 0x34#7 f)
  | .fscale f => bytes32 (encVR 0x35#7 f)
  | .fclass f => bytes32 (encVR 0x36#7 f)
  | .fdot2 f => bytes32 (encVR 0x37#7 f)
  | .cvt f => bytes32 (encVR 0x38#7 f)
  | .cbld f => bytes32 (encVR 0x39#7 f)
  | .cbst f => bytes32 (encVR 0x3A#7 f)
  | .shfl f => bytes32 (encVR 0x40#7 f)
  | .bcast f => bytes32 (encVR 0x41#7 f)
  | .perm f => bytes32 (encVR 0x42#7 f)
  | .mred f => bytes32 (encVR 0x43#7 f)
  | .scan f => bytes32 (encVR 0x44#7 f)
  | .red f => bytes32 (encVR 0x45#7 f)
  | .ballot f => bytes32 (encVR 0x46#7 f)
  | .mset f => bytes32 (encVR 0x47#7 f)
  | .movsv f => bytes32 (encVR 0x48#7 f)
  | .movvs f => bytes32 (encVR 0x49#7 f)
  | .first f => bytes32 (encVR 0x4A#7 f)
  | .iota f => bytes32 (encVR 0x4B#7 f)
  | .sadd f => bytes32 (encVR 0x4C#7 f)
  | .ssub f => bytes32 (encVR 0x4D#7 f)
  | .smul f => bytes32 (encVR 0x4E#7 f)
  | .sand f => bytes32 (encVR 0x4F#7 f)
  | .sor f => bytes32 (encVR 0x50#7 f)
  | .sxor f => bytes32 (encVR 0x51#7 f)
  | .sshl f => bytes32 (encVR 0x52#7 f)
  | .sshr f => bytes32 (encVR 0x53#7 f)
  | .ssar f => bytes32 (encVR 0x54#7 f)
  | .scmp f => bytes32 (encVR 0x55#7 f)
  | .smov f => bytes32 (encVR 0x56#7 f)
  | .slea f => bytes32 (encVR 0x57#7 f)
  | .li f => bytes32 (encSI 0x58#7 f)
  | .lih f => bytes32 (encSI 0x59#7 f)
  | .getsr f => bytes32 (encSR 0x5A#7 f)
  | .setsr f => bytes32 (encSR 0x5B#7 f)
  | .ld f => bytes32 (encM 0x5C#7 f)
  | .st f => bytes32 (encM 0x5D#7 f)
  | .lds f => bytes32 (encM 0x5E#7 f)
  | .sts f => bytes32 (encM 0x5F#7 f)
  | .sld f => bytes32 (encM 0x60#7 f)
  | .sst f => bytes32 (encM 0x61#7 f)
  | .atom f => bytes32 (encM 0x62#7 f)
  | .atomx f => bytes32 (encM 0x63#7 f)
  | .satom f => bytes32 (encM 0x64#7 f)
  | .pref f => bytes32 (encM 0x65#7 f)
  | .zero f => bytes32 (encM 0x66#7 f)
  | .commit f => bytes32 (encM 0x67#7 f)
  | .br f => bytes32 (encBR f)
  | .jmp f => bytes32 (encJ 0x69#7 0#3 f)
  | .jmpReg f => bytes32 (encJ 0x69#7 1#3 f)
  | .call f => bytes32 (encJ 0x6A#7 0#3 f)
  | .callReg f => bytes32 (encJ 0x6A#7 1#3 f)
  | .ret f => bytes32 (encJ 0x6B#7 0#3 f)
  | .regang f => bytes32 (encJ 0x6C#7 0#3 f)
  | .yield f => bytes32 (encJ 0x6D#7 0#3 f)
  | .yieldContinuation f => bytes32 (encJ 0x6D#7 1#3 f)
  | .exit f => bytes32 (encJ 0x6E#7 0#3 f)
  | .trap f => bytes32 (encJ 0x6F#7 0#3 f)
  | .rte f => bytes32 (encJ 0x6F#7 1#3 f)
  | .brk f => bytes32 (encJ 0x6F#7 2#3 f)
  | .mma f => bytes32 (encX 0x70#7 0#3 f)
  | .mmas f => bytes32 (encX 0x71#7 f.sub f)
  | .mmat f => bytes32 (encX 0x72#7 0#3 f)
  | .mfence f => bytes32 (encX 0x73#7 0#3 f)
  | .mwait f => bytes32 (encX 0x74#7 0#3 f)
  | .accld f => bytes32 (encX 0x75#7 0#3 f)
  | .accldZero f => bytes32 (encX 0x75#7 1#3 f)
  | .accst f => bytes32 (encX 0x76#7 0#3 f)
  | .omset f => bytes32 (encX 0x77#7 0#3 f)
  | .cpyCopy f => bytes32 (encK 0x78#7 0#3 f)
  | .cpyQuant f => bytes32 (encK 0x78#7 1#3 f)
  | .cpyDec f => bytes32 (encK 0x78#7 2#3 f)
  | .cpyRed f => bytes32 (encK 0x78#7 3#3 f)
  | .cpyFill f => bytes32 (encK 0x78#7 4#3 f)
  | .pkt f => bytes32 (encK 0x78#7 5#3 f)
  | .qpush f => bytes32 (encK 0x79#7 0#3 f)
  | .qpop f => bytes32 (encK 0x79#7 1#3 f)
  | .qtry f => bytes32 (encK 0x79#7 2#3 f)
  | .qlen f => bytes32 (encK 0x79#7 3#3 f)
  | .spawn f => bytes32 (encK 0x79#7 4#3 f)
  | .xput f => bytes32 (encK 0x7A#7 0#3 f)
  | .xget f => bytes32 (encK 0x7A#7 1#3 f)
  | .xatom f => bytes32 (encK 0x7A#7 2#3 f)
  | .hfire f => bytes32 (encK 0x7B#7 0#3 f)
  | .hstat f => bytes32 (encK 0x7B#7 1#3 f)
  | .knew f => bytes32 (encK 0x7C#7 0#3 f)
  | .kjoin f => bytes32 (encK 0x7C#7 1#3 f)
  | .kleave f => bytes32 (encK 0x7C#7 2#3 f)
  | .karrive f => bytes32 (encK 0x7C#7 3#3 f)
  | .kwait f => bytes32 (encK 0x7C#7 4#3 f)
  | .karrw f => bytes32 (encK 0x7C#7 5#3 f)
  | .kfree f => bytes32 (encK 0x7C#7 6#3 f)
  | .kquery f => bytes32 (encK 0x7C#7 7#3 f)
  | .warm f => bytes32 (encK 0x7D#7 0#3 f)
  | .wwait f => bytes32 (encK 0x7D#7 1#3 f)
  | .wstamp f => bytes32 (encK 0x7D#7 2#3 f)
  | .racq f => bytes32 (encK 0x7E#7 0#3 f)
  | .rrel f => bytes32 (encK 0x7E#7 1#3 f)
  | .resize f => bytes32 (encK 0x7E#7 2#3 f)
  | .ckmark f => bytes32 (encK 0x7E#7 3#3 f)
  | .cktake f => bytes32 (encK 0x7E#7 4#3 f)
  | .ckroll f => bytes32 (encK 0x7E#7 5#3 f)
  | .ckdrop f => bytes32 (encK 0x7E#7 6#3 f)
  | .illegalInstruction _ | .instructionFetch _ _ | .instructionCommit _ | .registerResultReturn _ _ _
  | .storeVisibility _ | .rollback _ _ | .pageWalk _ _ _ | .aliasReadDecode _
  | .aliasWriteBack _ | .hostSnoop _ | .hostMemAccess _ | .ioHoleAccess _ _
  | .registerWrite _ _ _ | .memcarveWrite _ _ | .l2mrgWrite _ _ _ | .fwCtlEnable _ _ _
  | .fwCtlDisable _ _ _ | .qpoolWrite _ _ _ | .harbWrite _ _ _ | .ruqWrite _ _ _
  | .schctlWrite _ _ _ | .hqctlWrite _ _ _ | .fqctlWrite _ _ | .fresumeRetry _ _
  | .fresumeFail _ _ | .wdctlWrite _ _ _ | .gsctlWrite _ _ | .counterValueStore _ _ _ _ _
  | .snapctlArm _ _ | .snapshotTrigger _ | .powctlWrite _ _ | .doorbellStore _ _ _ _
  | .halyardDoorbellStore _ _ _ _ _ | .guestRegisterAccess _ _ | .registerMemoryQueue _ | .deregisterMemoryQueue _
  | .clearQueueError _ | .translationInvalidation _ | .hardwareQueueRegistration _ | .createHalyardPlan _
  | .freeHalyardPlan _ | .writeBufferTableEntry _ | .writeFabricImportEntry _ | .setFormatWindow _
  | .writePasidContext _ | .stageFirmwareImage _ | .commitSecurityVersion _ | .preemptGuest _
  | .reloadGuest _ | .copyGuestIdentity _ | .resolveFaultRecord _ | .writeCounterControl _
  | .writePartitionConfig _ | .mailboxUnlistedOp _ | .queueSlotFetch _ _ | .copyPacket _ _ _
  | .copyQuantizePacket _ _ _ | .copyDecodePacket _ _ _ | .reduceCopyPacket _ _ _ | .fillPacket _ _ _
  | .packetComplete _ _ | .launchPacket _ _ _ | .queuePoolGrant _ _ | .extendedBlockGrant _
  | .matrixCommandStart _ _ | .matrixCommandComplete _ _ | .watchReload _ | .watchRecheckExpiry _
  | .spinRecognised _ | .engineKnotArrival _ _ _ | .residencyDecision _ | .gangEviction _ _
  | .fairnessRotation _ _ | .gangFinish _ _ | .launchComplete _ | .placementDecision
  | .spliceAged _ _ _ | .splicePreemption _ _ | .packWindowClose _ _ _ | .regangCombine _ _
  | .deferredTrap _ | .watchdogExpiry _ | .faultRecordPost | .hwQueueIdleUnmap _ _
  | .runListTurn _ | .fabricRequestArrival _ | .fabricResponseArrival _ _ | .fabricRequestTimeout _
  | .xnetComplete _ | .halyardPacketArrival _ | .halyardBucketComplete _ _ | .halyardDeadlineExpiry _ _
  | .planFreeDrainExpiry _ | .planIndexQuarantineEnd _ | .ckrollComplete _ _ | .moduleReset _
  | .fatalReset _ | .hostLineFlush _ | .diePowerGate _ | .dieWake _
  | .powerWindow _ | .guestReset _ | .guestCoherentRequest _ | .guestKnotArrival _ _
  | .guestTranslationRequest _ _ _ | .guestFaultRecord _ | .guestSaveAck _ | .guestSnoopTimeout _
  | .guestInvalidationTimeout | .guestSaveTimeout | .guestLinkDown | .launchKill _
  | .partitionReset _ | .guestInvalidationAck | .guestRecallAnswer _ _ | .guestRegisterAnswer _ _ => []

end Sys2Proof
end

