-- ==== Sys2Proof/Config.lean ====
section
/-! DEFINITION. What an implementation fixes and the values the spec leaves open. Nothing here that is opaque has a
body: no proof can see its value. notes/assumptions/3.md lists them. -/

namespace Sys2Proof.Config

/-- FREE VALUE (log 3). Which of two competing values an element takes (R144, R163, R171, R195, R199). The key is the step's
tick, a number naming the place where the choice arises, and the element. -/
opaque freeBit : Nat → Nat → Nat → Bool

/-- FREE VALUE (log 4). How many clocks beyond one a step takes: sr_clock (R170) counts core clocks, and no clock
count is modelled. -/
opaque freeClocks : Nat → Nat

/-- IMPLEMENTATION CONSTANT (log 3). The WAITK code of each wait in a saved control block (R331:
"the codes are implementation-defined"). -/
opaque waitCode : Nat → Byte

/-- The device's 14-bit identifier (R12, R170), assigned outside the module. FREE VALUE (log 3). -/
opaque deviceId : BitVec 14

/-- The PASID that a host function's doorbell stores carry without a PASID prefix (R340). FREE VALUE (log 3). -/
opaque defaultPasid : Nat → Nat

/-- The SHA-384 hash of the firmware key held in fuses (R346). FREE VALUE (log 3). -/
opaque fuseKeyHash : BitVec 384

/-- FREE VALUE (log 3). Whether the image of a security version holds a hash in its guest trust list (R354). -/
opaque guestTrusts : Nat → BitVec 384 → Bool

/-- Whether the interconnect can reserve switch-plane bandwidth for a plan (R237). FREE VALUE (log 3), by plan
count. -/
opaque switchPlaneFree : Nat → Bool

/-- FREE VALUE (log 3). SRC of a fault record for a source that R323 gives no layout, by the record's serial and the lane
or address that the record is about. -/
opaque recordSrc : Nat → Nat → BitVec 64

/-- The L2 slice that holds a line, and its set in the slice: "a fixed hash of its PA, which is not visible to programs" (R85).
FREE VALUES (log 3). -/
opaque l2Slice : Nat → BitVec 6

/-- See `l2Slice`. -/
opaque l2Set : Nat → BitVec 11

/-- FREE VALUE (log 71). What a byte of BAR0 reads as where R340 maps nothing, or nothing that can be read, by the step's tick and the
offset. -/
opaque barByte : Nat → Nat → BitVec 8

/-- FREE VALUE (log 57). ACC in sr_trapinfo when a BR's target is not canonical: R383 names none. By the step's tick. -/
opaque branchAcc : Nat → BitVec 2

/-- FREE VALUE (log 68). The records, key and payload, of a hardware queue whose records the spec calls undefined (R300, R318), by the
step's tick and the queue's descriptor. -/
opaque lostRecords : Nat → Nat → List (BitVec 64 × BitVec 64 × BitVec 64 × BitVec 64)

/-- FREE VALUE (log 42). What a knot's EXP (0) or ARR (1) of 0 becomes when a KLEAVE lowers it. -/
opaque belowZero : Nat → BitVec 32

end Sys2Proof.Config
end

