-- ==== Sys2Proof/Machine/State.lean ====
section
/-! DEFINITION. The state of the module: everything the spec gives the machine, as plain data, and the state right after
module reset. INVENTORY.md lists each field with its rule and its reset value. -/

namespace Sys2Proof.Machine

/-- Memory: (address, byte) pairs, addresses strictly rising, none listed that equals what an unlisted address reads. -/
abbrev Memory := List Host.Cell

/-- A vector register: 32 lanes of 64-bit slots (R157). -/
abbrev VReg := Vector Word 32

/-- A vector register that reads as zero. -/
def zeroV : VReg := Vector.replicate 32 0#64

/-- The registers whose old value the belay buffer, its shadow copies or a pending result holds (R306, R163). -/
inductive RegRef where
  | v (r : Nat)
  | s (r : Nat)
  | m (r : Nat)
  | codebook
  | fflags
  | seed
  deriving DecidableEq, Repr

/-- The value of a register; `seed` is sr_seed with the generator states. Two more stand in the belay buffer alone: `flags`,
sr_fflags before a change, with what was ORed in, or written where `set` says so; `draws`, the generator states before draws. -/
inductive RegVal where
  | v (x : VReg)
  | s (x : Word)
  | m (x : Mask)
  | codebook (x : Vector (BitVec 16) 16)
  | seed (x : Word) (st : Vector (BitVec 32) 32)
  | flags (before : Word) (set : Bool) (x : Word)
  | draws (st : Vector (BitVec 32) 32)
  deriving DecidableEq, Repr

/-- An operand map (R207, R209): its two words as OMSET wrote them, and its cursor. -/
structure OMap where
  isSet : Bool
  low : Word
  high : Word
  cursor : BitVec 32
  deriving DecidableEq, Repr

/-- The kind of a tile (R211): F for f32, I for int32. -/
inductive TileKind where
  | f
  | i
  deriving DecidableEq, Repr

/-- An accumulator tile: 32 × 32 elements of 32 bits, element (i, j) at 32i + j (R211, R330). -/
structure Tile where
  kind : TileKind
  words : Vector (BitVec 32) 1024
  deriving DecidableEq, Repr

/-- An entry of the membership table with its arrival mark (R270); handle 0 is an empty entry (R330). -/
structure Member where
  handle : Word
  av : Bool
  agen : BitVec 32
  deriving DecidableEq, Repr

/-- A 64-byte line of memory, by PA and by the VA it was reached through, or a 64-byte block of the gang's scratchpad
(R89, R126). -/
inductive LinePlace where
  | mem (pa va : Nat)
  | scratch (block : Nat)
  deriving DecidableEq, Repr

/-- A long-class result that has not returned (R163): the register holds the new value, `old` the value it replaces in the
lanes `rows` that it writes, and `val` the value it writes; `width` is the width of its elements in bits, `sids` are the streams whose
instruction it is, number `seq`, `tag` the generation of the destination at its issue (R161), and `net` says that it holds an entry of
the core's cross-lane queue (R226). -/
structure Pending where
  sids : List Nat
  seq : Nat
  reg : RegRef
  old : RegVal
  val : RegVal
  rows : Mask
  width : Nat
  tag : BitVec 8
  net : Bool
  deriving DecidableEq, Repr

/-- A write of a register by instruction `seq` of a stream of a parted gang since its streams last joined, with the value before it and
the value written: a stream that is not among `sids`, the writer and those that continue it, reads either (R171, R195, R199). -/
structure Race where
  sids : List Nat
  seq : Nat
  reg : RegRef
  old : RegVal
  val : RegVal
  rows : Mask
  deriving DecidableEq, Repr

/-- A belay entry (R306): the old value of a register overwritten under speculation by instruction `seq`, with what results in flight,
by the number of their instruction, would have left in place of it. Entries of sr_fflags and of the generators stand for the shadow
copies and take none of the eight places. -/
structure BelayEntry where
  sid : Nat
  seq : Nat
  reg : RegRef
  old : RegVal
  flight : List (Nat × RegVal)
  deriving DecidableEq, Repr

/-- A store-buffer entry (R126): the bytes one instruction wrote to one line or block, as (offset, byte). `lane` is the
lowest lane that wrote it. -/
structure StoreEntry where
  sid : Nat
  seq : Nat
  committed : Bool
  lane : Nat
  place : LinePlace
  bytes : List (Nat × Byte)
  waiting : Bool
  deriving DecidableEq, Repr

/-- A deferred report (R133, R314), raised at the stream's next instruction boundary. -/
structure Deferred where
  sid : Nat
  cause : Nat
  info : Word
  deriving DecidableEq, Repr

/-- A gang placed at least once and not finished: the registers of R157 and the saved state of R330 and R331. `since` is the
tick of its last placement or save; `evict` says that it is chosen for eviction at its next commit point, `evictFor` for
which gang of which launch (R280, R287, R296), `blockCore` the core that granted an absent gang its extended block (R276), `awake`
that a stream of an absent gang did not wait at its save (R277), and `bad` that its registers, tiles or maps hold an uncorrectable
error (R327). -/
structure Gang where
  launch : Nat
  idx : Nat
  place : Option (Nat × Nat)
  since : Nat
  evict : Bool
  evictFor : Option (Nat × Nat)
  record : Nat
  xb : Bool
  blockCore : Option Nat
  awake : Bool
  bad : Bool
  v : Vector VReg 64
  s : Vector Word 64
  m : Vector Mask 16
  om : Vector OMap 8
  tiles : Vector Tile 16
  codebook : Vector (BitVec 16) 16
  st : Vector (BitVec 32) 32
  fflags : Word
  seed : Word
  trapCause : Word
  trapInfo : Word
  trapPc : Word
  hm : Bool
  hmSlices : BitVec 8
  armed : Option (Word × Word)
  batch : Word
  members : Vector Member 16
  exited : BitVec 8
  tagBase : BitVec 8
  tagExt : BitVec 8
  tagScalar : BitVec 8
  pending : List Pending
  races : List Race
  belay : List BelayEntry
  sig : List LinePlace
  sb : List StoreEntry
  deferred : List Deferred
  deriving DecidableEq, Repr

/-- What an access does, for permissions and kinds (R76, R80). -/
inductive Access where
  | load | store | atomic | zero | fetch
  deriving DecidableEq, Repr

/-- Why an access has no translation (R76, R77, R378). -/
inductive XFail where
  /-- the PASID's context entry is not valid -/
  | context
  /-- a translation fault with its reason -/
  | fault (reason : Nat)
  /-- the permission bits or the memory kind forbid the access -/
  | denied
  /-- not yet: a TLB miss is outstanding (R82), or the guest holds a line of the tables (R76) -/
  | wait
  deriving DecidableEq, Repr

/-- The queues of a core that draw on its pool of entries (R226). -/
inductive PoolQueue where
  | matrix | copy | cross
  deriving DecidableEq, Repr

/-- What a stream waits for (R276 and the stalls of R126, R215, R222). The waits named `again` in their docstring leave
the PC at the instruction, which executes again once the wait is over; the others have finished their instruction. -/
inductive Wait where
  /-- the stream is ready -/
  | none
  /-- KWAIT, KARRW: released by the knot's phase (R277); the PC is past the instruction once every part of the stream has executed it -/
  | knot (handle : Word) (gen : BitVec 32)
  /-- WWAIT (`ge` false) and WSTAMP (`ge` true); again -/
  | watch (ge : Bool) (pa : Nat) (val : Word)
  /-- YIELD with continuation (R153): the PC is at the continuation; `yield` is the address of the YIELD -/
  | yieldWatch (pa : Nat) (addr val yield : Word)
  /-- a recognised or declared spinner (R283, R284) -/
  | spin (lines : List LinePlace)
  /-- plain YIELD, and an unarmed YIELD with continuation: the residency unit's decision (R261) -/
  | yielded
  /-- RACQ (R160); again -/
  | racq
  /-- QPOP on an empty queue (R302): granted in the order of `order`; again -/
  | qpop (desc : Nat) (order : Nat)
  /-- a queue instruction on an unmapped queue (R301); again -/
  | hwqMap (desc : Nat)
  /-- a row lock (R109); again -/
  | rowLock
  /-- a pool entry of a queue, asked for at a tick (R227): of the copy queue a candidate (R150), of the others not (R215); again -/
  | pool (q : PoolQueue) (order : Nat)
  /-- a memory-queue slot of the header at a PA (R150), the claim kept in the stream; again -/
  | memSlot (hdrPa : Nat)
  /-- REGANG at an address, with its H bit (R22, R259) -/
  | regang (addr : Word) (hold : Bool)
  /-- a translation fault with its record's serial (R326); again -/
  | fault (serial : Nat)
  /-- MWAIT (R222); again -/
  | mwait
  /-- a remote access or an access to guest register space is outstanding (R92, R350); again -/
  | answer
  /-- a P-branch window (R255) -/
  | pack (addr : Word)
  /-- a TLB miss is outstanding (R82); again -/
  | walk
  /-- a line of a rolling region (R317), a guest-owned line (R108); again -/
  | line
  /-- RESIZE waits for earlier accesses and core-queue commands to an offset and beyond (R156); again -/
  | resize (off : Nat)
  deriving DecidableEq, Repr

/-- An uncommitted instruction (R305); `load` says that it has read memory or scratchpad (R90). -/
structure Unc where
  seq : Nat
  pc : Word
  load : Bool
  deriving DecidableEq, Repr

/-- The spin detector of a stream (R282): the closing branch and its target, the count, and for the current and the
previous iteration the instructions run, whether it still qualifies, the lines touched and the values loaded. -/
structure Spin where
  branch : Option Word
  target : Word
  count : Nat
  instrs : Nat
  ok : Bool
  lines : List LinePlace
  runLines : List LinePlace
  loads : List (Word × List Nat)
  prev : List (Word × List Nat)
  deriving DecidableEq, Repr

/-- A hardware queue's record: 64-bit key and 24-byte payload; `order` is the place of its push (R300, R302). -/
structure HwRecord where
  key : Word
  pay : Word × Word × Word
  order : Nat
  deriving DecidableEq, Repr

/-- A stream (R247): slot k holds the slice of the home gang named there, or nothing. `saved` is the PC that a save wrote, of an absent
gang; `answers` holds, by access of the instruction under way, what has been performed or answered (none: refused), and `walkFails` the
walks that failed for it, by page (R77, R82), `partsDone` the home gangs whose part of it is done and `doneLen` its length (R249), `claim`
the queue slot it has claimed, `grant` the pool entry it has been granted, `operands` what a submission read at issue (R150), and `popped`
the record that a waiting QPOP was given (R302), `loading` says that the instruction has read memory or scratchpad (R90); `watchDie` is the
die whose watch table holds the stream's watched lines (R285), and `due` says that one of them has been written or dropped since (R152,
R283). -/
structure Stream where
  sid : Nat
  launch : Nat
  splice : Nat
  slots : Vector (Option Nat) 8
  pc : Word
  wait : Wait
  unc : List Unc
  rbCount : Nat
  rbPc : Word
  careful : Nat
  spin : Spin
  stopped : Bool
  claim : Option Nat
  grant : Option PoolQueue
  operands : List Word
  popped : Option HwRecord
  loading : Bool
  saved : Option Word
  answers : List (Nat × Option (List Byte))
  walkFails : List (Nat × Access × XFail)
  partsDone : List Nat
  doneLen : Nat
  watchDie : Option Nat
  due : Bool
  deriving DecidableEq, Repr

/-- A P-branch window (R255): its address, its branch, the clock of its opening and the streams that have arrived. -/
structure PackWindow where
  addr : Word
  branch : BRFields
  opened : Word
  sids : List Nat
  deriving DecidableEq, Repr

/-- A splice that has been placed (R291, R155). -/
structure Splice where
  launch : Nat
  idx : Nat
  size : Nat
  scratch : Memory
  badBlocks : List Nat
  core : Option Nat
  record : Option Nat
  windows : List PackWindow
  deriving DecidableEq, Repr

/-- The marks of a waiting splice: the dies it is aged for, the core it reserves (R294), the core it is to take by pre-emption (R296),
and that it waits for a free record (R332). -/
structure WaitMark where
  launch : Nat
  splice : Nat
  aged : BitVec 2
  reserve : Option Nat
  preempt : Option Nat
  short : Bool
  deriving DecidableEq, Repr

/-- The states of a region (R311). -/
inductive RegionState where
  | unmarked | marked | armed | full | rolling
  deriving DecidableEq, Repr

/-- A region-table entry (R311, R312, R317): the range and the log by VA, the translations it holds as (VA page, PA
page), whether an invalidation covered them, the lines logged in the epoch, and of a rolling region the stamp, whether its
lines are restored and whether its stamp's fault is unresolved. -/
structure Region where
  state : RegionState
  base : Nat
  len : Nat
  log : Nat
  logLen : Nat
  cap : Nat
  epoch : Nat
  count : Nat
  pages : List (Nat × Nat)
  stale : Bool
  logged : List Nat
  stampVa : Word
  stampVal : Word
  restored : Bool
  parked : Bool
  deriving DecidableEq, Repr

/-- An unmarked region. -/
def Region.unmarked : Region :=
  { state := .unmarked, base := 0, len := 0, log := 0, logLen := 0, cap := 0, epoch := 0, count := 0, pages := []
    stale := false, logged := [], stampVa := 0, stampVal := 0, restored := false, parked := false }

/-- Gangs that one SPAWN created: the first, how many, their s0, and the tick (R298). -/
structure SpawnBatch where
  first : Nat
  count : Nat
  s0 : Word
  tick : Nat
  deriving DecidableEq, Repr

/-- An accepted launch (R289 to R291). -/
structure Launch where
  id : Nat
  pasid : Nat
  queue : Nat
  slot : Nat
  epc : Word
  hpc : Word
  args : Word
  scr : Nat
  rlim : Nat
  prio : Nat
  tiles : Nat
  xreg : Bool
  spl : Nat
  gangs : Nat
  since : Nat
  nextSplice : Nat
  finished : Nat
  spawns : List SpawnBatch
  regions : Vector Region 16
  aborting : Bool
  ended : Bool
  deriving DecidableEq, Repr

/-- A packet under work (R143, R149): its slot (for a core command its sequence number), its 64 bytes as eight words, how far the payload
has been made (destination bytes, or elements of a quantizing copy), the source lines `staged`, by address, that it still reads from
(R108), the destination bytes `out` made and not yet written, the source bytes `before` as they were before the packet overwrote them
(R144), and whether the payload is complete, the stamp written or lost, the packet parked on a fault or rejected. -/
structure PacketWork where
  slot : Nat
  words : Vector Word 8
  progress : Nat
  staged : List (Nat × List Byte)
  out : List Host.Cell
  before : List Host.Cell
  done : Bool
  stamped : Bool
  lost : Bool
  parked : Bool
  rejected : Option Nat
  deriving DecidableEq, Repr

/-- The engine a memory queue is registered with (R135, R289, R352). -/
inductive QueueEngine where
  | bulk (die n : Nat)
  | guest
  | launch
  deriving DecidableEq, Repr

/-- A registered memory queue (R136 to R143). `next` is the next slot to fetch, `idx` the next slot to retire, `badSlot` the slot at which
it is in error, and `errDue` says that ERR is still to be stored in its header. -/
structure MemQueue where
  pasid : Nat
  hdr : Nat
  hdrPa : Nat
  engine : QueueEngine
  log : Nat
  cmask : Nat
  dboff : Nat
  db : Word
  bound : Bool
  next : Nat
  idx : Nat
  err : Bool
  errDue : Bool
  badSlot : Option Nat
  begun : List PacketWork
  deriving DecidableEq, Repr

/-- A command of a core's copy queue (R135); `asked` says that its read has come to the L2's merge table (R91). -/
structure CoreCmd where
  seq : Nat
  asked : Bool
  core : Nat
  launch : Nat
  gang : Nat
  splice : Nat
  pasid : Nat
  work : PacketWork
  deriving DecidableEq, Repr

/-- An operand map as a matrix command captured it at issue (R220, R223). -/
structure Operand where
  low : Word
  high : Word
  cursor : Nat
  deriving DecidableEq, Repr

/-- A matrix command (R215 to R221). MMAS carries its index registers' lanes. -/
inductive MatOp where
  | mma (c : Nat) (clr sg : Bool) (a b : Operand)
  | mmas (c : Nat) (clr sg hi : Bool) (a b : Operand) (codes codes2 : VReg)
  | mmat (c : Nat) (clr : Bool) (a b : Operand)
  | accld (c : Nat) (a : Operand)
  | accldZero (c : Nat)
  | accst (c : Nat) (a : Operand)
  | omset
  | mfence
  deriving DecidableEq, Repr

/-- A command in a core's matrix queue (R215); `batch` is the batch it belongs to, or closes. -/
structure MatCmd where
  seq : Nat
  core : Nat
  launch : Nat
  gang : Nat
  splice : Nat
  batch : Nat
  op : MatOp
  started : Bool
  deriving DecidableEq, Repr

/-- A locked scratchpad row (R109): `excl` locks it against every access, else against stores; `seq` is the command. -/
structure RowLock where
  launch : Nat
  splice : Nat
  row : Nat
  excl : Bool
  seq : Nat
  deriving DecidableEq, Repr

/-- How far a lane of an XNET command has come (R233); `got`: bytes that have come and are not yet written, of an XPUT from its source, to go
to `taddr`, else from the target, to go to `laddr`. -/
inductive XPhase where
  | ready
  | sent (tag : Nat)
  | got (data : List Byte)
  | finished
  deriving DecidableEq, Repr

/-- A lane of an XNET command (R232, R233). -/
structure XLane where
  lane : Nat
  peer : Nat
  len : Nat
  laddr : Word
  taddr : Word
  db : Bool
  ret : Bool
  opa : Nat
  phase : XPhase
  parked : Bool
  deriving DecidableEq, Repr

/-- An XNET command in progress (R233): op 0 XPUT, 1 XGET, 2 XATOM. Stream `sid` issued it, and `sids` continue that one (R102, R235). -/
structure XCmd where
  seq : Nat
  sid : Nat
  sids : List Nat
  launch : Nat
  gang : Nat
  pasid : Nat
  op : Nat
  lanes : List XLane
  sa : Word
  sv : Word
  err : Bool
  parked : Bool
  deriving DecidableEq, Repr

/-- Who waits for the answer to a request sent over the fabric, or to guest register space: a lane of an instruction, by the access's key
and VA; a buffered store; lanes of an XNET command, with the VA that each names in the request; a bus
master; and nobody any more, the result of a gang that was on the core coming late (R161, R162). -/
inductive ReqSource where
  | lane (sid lane : Nat) (va : Word)
  | store (launch gang sid seq : Nat) (info : Word)
  | xnet (seq : Nat) (lanes : List (Nat × Word))
  | bus (tag : Nat)
  | late (core : Option Nat)
  deriving DecidableEq, Repr

/-- A request sent and not answered (R228, R350). -/
structure OutRequest where
  tag : Nat
  peer : Nat
  pasid : Nat
  type : FabricType
  addr : Nat
  op : FabricOp
  src : ReqSource
  guest : Bool
  deriving DecidableEq, Repr

/-- A fabric import entry (R229). -/
structure ImportEntry where
  n : Nat
  dev : Nat
  spasid : Nat
  tpasid : Nat
  type : FabricType
  perm : BitVec 4
  base : Nat
  limit : Nat
  deriving DecidableEq, Repr

/-- A Halyard buffer-table entry (R236). -/
structure HalyardBuffer where
  pasid : Nat
  n : Nat
  fmt : Nat
  len : Nat
  slices : List Nat
  deriving DecidableEq, Repr

/-- One contribution to a round: rank, slice, elements (none: EMPTY) (R242, R245). -/
structure Contribution where
  rank : Nat
  slice : Nat
  elems : Option (List Nat)
  deriving DecidableEq, Repr

/-- A bucket of a plan on this device (R239 to R245, R337, R338): `own` says that the round has had its trigger, `owed` how many triggers
are owed to rounds that a deadline began, `expired` the slices whose base die went on without this device's contribution, `written` the
result lines written, by VA, `recorded` that the completion record is, and `lateDue` by how much the LATE of the record in memory is still
to be raised. -/
structure Bucket where
  n : Nat
  fires : Nat
  inFlight : Bool
  order : Nat
  intr : Bool
  own : Bool
  owed : Nat
  contribs : List Contribution
  held : List HalyardPacket
  late : Nat
  reason : Nat
  parked : Bool
  expired : List Nat
  written : List Nat
  recorded : Bool
  lateDue : Nat
  deriving DecidableEq, Repr

/-- A Halyard plan (R237, R238). `gen` and `index` make its handle. -/
structure Plan where
  gen : Nat
  index : Nat
  pasid : Nat
  coll : Nat
  alg : Nat
  opr : Nat
  root : Nat
  deadline : Nat
  knot : Word
  recVa : Word
  maskVa : Word
  ranks : List Nat
  bufs : List Nat
  reserve : Nat
  err : Bool
  freed : Bool
  done : Nat
  buckets : List Bucket
  deriving DecidableEq, Repr

/-- A registered hardware queue (R300, R301). -/
structure HwQueue where
  pasid : Nat
  desc : Nat
  descPa : Nat
  home : Nat
  logcap : Nat
  spill : Nat
  records : List HwRecord
  mapped : Bool
  lastUse : Nat
  deriving DecidableEq, Repr

/-- What a class-1 fault record parks, and what its resolution resumes (R325). -/
inductive FaultTarget where
  | stream (sid : Nat) (info : Word)
  | coreCmd (seq : Nat)
  | queue (pasid hdr slot : Nat)
  | xnet (seq lane : Nat)
  | bucket (handle bucket : Nat)
  | rollback (launch region : Nat)
  | arrival (kind : EngineKind) (pasid : Nat) (va : Word)
  | guest
  | nothing
  deriving DecidableEq, Repr

/-- A fault record not yet posted (R324). `serial` names it before it has a SEQ. -/
structure WaitingRecord where
  serial : Nat
  record : FaultRecord
  target : FaultTarget
  deriving DecidableEq, Repr

/-- A class-1 record that is posted and unresolved (R325). -/
structure OpenFault where
  seq : BitVec 32
  serial : Nat
  record : FaultRecord
  target : FaultTarget
  deriving DecidableEq, Repr

/-- A vector of the module's interrupts: firmware's, or that of a partition (R339). -/
inductive IrqVector where
  | firmware
  | part (n : Nat)
  deriving DecidableEq, Repr

/-- What an interrupt is raised for. -/
inductive IrqCause where
  | packet (pasid hdr slot : Nat)
  | reject (pasid : Nat)
  | launchAbort (launch : Nat)
  | bucketDone (handle bucket : Nat)
  | fence
  | faultRecord
  | overflow (bank n : Nat)
  | stampLost (pasid : Nat)
  deriving DecidableEq, Repr

/-- What the module signals to the host: an interrupt of a vector, a CXL report (R339), or the retirement of a page of memory
(R327). -/
inductive Signal where
  | irq (v : IrqVector) (cause : IrqCause)
  | cxlError
  | pageRetired (page : Nat)
  deriving DecidableEq, Repr

/-- A counter (R362): its control, value and snapshot registers and its save area. -/
structure Counter where
  bank : Nat
  n : Nat
  control : Word
  value : Word
  snap : Word
  saveVa : Word
  deriving DecidableEq, Repr

/-- A translation held by the L1 TLB of a core, or by the TLB of the cluster named in `core` (R81): pages of 64 KiB from `vpage`
on. -/
structure TlbEntry where
  core : Nat
  pasid : Nat
  vpage : Nat
  pages : Nat
  pa : Nat
  w : Bool
  x : Bool
  kind : Nat
  dirty : Bool
  deriving DecidableEq, Repr

/-- A table entry held by a die's walk cache (R81): of level 1 by VA bits 54:42, of level 2 by VA bits 54:29. -/
structure WalkEntry where
  die : Nat
  level : Nat
  pasid : Nat
  index : Nat
  entry : Word
  deriving DecidableEq, Repr

/-- An outstanding TLB miss of a die, by PASID and 64 KiB page, with the streams that wait for it and their accesses (R82). -/
structure TlbMiss where
  die : Nat
  pasid : Nat
  page : Nat
  waiters : List (Nat × Access)
  deriving DecidableEq, Repr

/-- The states of a line in a die's L2 but I (R84). -/
inductive L2State where
  | m | e | s
  deriving DecidableEq, Repr

/-- A line that a die's L2 holds, in one of the 16 ways of its set (R84, R85). -/
structure L2Line where
  die : Nat
  pa : Nat
  state : L2State
  way : Nat
  deriving DecidableEq, Repr

/-- A line that a core's L1 holds, and in which of the SRAM array's ways (R84, R154). -/
structure L1Line where
  core : Nat
  pa : Nat
  way : Nat
  deriving DecidableEq, Repr

/-- A copy engine's read of a set of lines that a die's L2 keeps in its merge table (R91): from which core it came, its lines, the
clock of its arrival, and for how many clocks it is kept. -/
structure TileRead where
  die : Nat
  core : Nat
  lines : List Nat
  clock : Word
  window : Nat
  deriving DecidableEq, Repr

/-- A line that a cache has dropped and whose read signatures are still to be tested (R89): of one core's L1, or of a die's L2. -/
structure Dropped where
  die : Nat
  core : Option Nat
  place : LinePlace
  deriving DecidableEq, Repr

/-- A line of a core's instruction buffer (R21), fetched for a launch. -/
structure FetchedLine where
  core : Nat
  launch : Nat
  va : Nat
  bytes : List Byte
  deriving DecidableEq, Repr

/-- A host line that a die holds modified (R345), with the bytes the host last received. -/
structure HostLine where
  pa : Nat
  die : Nat
  old : List Byte
  deriving DecidableEq, Repr

/-- The registers of a format window (R95). -/
structure FormatWindow where
  enc : Word
  scale : Word
  aliasBase : Word
  ctl : Word
  deriving DecidableEq, Repr

/-- The I/O registers that firmware writes, each under its own name; `fwOff` lists the windows whose EN a write has cleared and whose
pending alias stores are not yet performed (R96). -/
structure IoRegs where
  memcarve : Word
  l2mrg : Vector (BitVec 8) 2
  fw : Vector FormatWindow 16
  fwOff : List Nat
  qpool : List (Nat × Word)
  harb : Vector (BitVec 16) 8
  ruq : Vector (BitVec 17) 2
  schctl : Vector Word 2
  hqctl : Vector Word 2
  fqbase : Word
  fqctl : Word
  fqtail : BitVec 32
  fresume : Word
  ctxbase : Word
  wdctl : Vector (BitVec 20) 2
  gsEn : Bool
  gsFenced : Bool
  gsCause : BitVec 6
  gpas : Vector Word 64
  snapArm : Bool
  snapSrc : BitVec 2
  partcfg : Vector Word 16
  powctl : Word
  deriving DecidableEq, Repr

/-- A translation that the guest holds in its cache (R355). -/
structure GuestXlat where
  pasid : Nat
  page : Nat
  pfn : Nat
  w : Bool
  deriving DecidableEq, Repr

/-- The device's reply to a translation request (R355): PFN, W and KIND, a fault with its reason, or a protection failure. -/
inductive GuestReply where
  | granted (pfn : Nat) (w : Bool) (kind : Nat)
  | fault (reason : Nat)
  | denied
  deriving DecidableEq, Repr

/-- A message that the hub sends to the guest (R355 to R357): a resolved fault's SEQ, a range to invalidate, a PASID whose work
is to be saved or reloaded, a write that was refused. -/
inductive GuestMessage where
  | resume (seq : BitVec 32)
  | failed (seq : BitVec 32)
  | invalidate (pasid base len : Nat)
  | save (pasid area bytes : Nat)
  | reload (pasid area bytes : Nat)
  | refused (va : Word)
  | doorbell (off : Nat) (v : Word)
  deriving DecidableEq, Repr

/-- The guest as the device sees it (R349 to R359): the lines it owns and those it shares, its translation cache, the replies and read data
sent to it, the invalidation it has not acknowledged, its pending save (PASID, area, bytes), the PASIDs pre-empted, the guest lost-line
log, what it presented at its reset, whether it was accepted, and the messages sent to it. -/
structure Guest where
  owned : List Nat
  shared : List Nat
  atc : List GuestXlat
  replies : List (Nat × Nat × GuestReply)
  reads : List (Nat × List Byte)
  invalidation : Option (Nat × Nat × Nat)
  save : Option (Nat × Nat × Nat)
  paused : List Nat
  lost : List Word
  chain : List Byte
  identityOk : Bool
  messages : List GuestMessage
  deriving DecidableEq, Repr

/-- The firmware complex and boot ROM as the host sees them (R341, R346 to R348): the command in progress and those that wait,
the service, its die and the lower stack of its pair, MBSTAT's count, SELFTEST, the running image's security version, the fuse
counter, the staged image, the copies of fault records (R361), and each die's run list (R301). -/
structure Firmware where
  current : Option Mailbox
  waiting : List Mailbox
  reduced : Bool
  serving : Bool
  serviceDie : Nat
  servicePair : Nat
  completed : BitVec 32
  dieOk : BitVec 2
  stackOk : BitVec 8
  guestSite : Bool
  svn : Nat
  fuse : Nat
  staged : Option (List Byte)
  faultCopies : List (Nat × List Byte)
  runLists : Vector (List Nat) 2
  deriving DecidableEq, Repr

/-- The state of the module. The model's own fields (log 1): `agenda`, the events that are to happen next; `cur`, the stream that
issues; `last` and `turn`, whose turn it is; `ticks`, the steps taken; `seq`, `nextSid` and `nextLaunch`, the numbers given out. -/
structure State where
  agenda : List Instr
  cur : Option Nat
  last : Nat
  turn : Bool
  ticks : Nat
  clock : Word
  seq : Nat
  nextSid : Nat
  nextLaunch : Nat
  mem : Memory
  badLines : List Nat
  retired : List Nat
  tlb : List TlbEntry
  ctlb : List TlbEntry
  walkCache : List WalkEntry
  misses : List TlbMiss
  l1 : List L1Line
  l2 : List L2Line
  hostCopies : List Nat
  tileReads : List TileRead
  dropped : List Dropped
  ibuf : List FetchedLine
  aliasLines : List (Nat × List Byte)
  hostLines : List HostLine
  lostLog : List Word
  launches : List Launch
  gangs : List Gang
  streams : List Stream
  splices : List Splice
  marks : List WaitMark
  queues : List MemQueue
  coreCmds : List CoreCmd
  matCmds : List MatCmd
  matTurn : List (Nat × Nat)
  locks : List RowLock
  xcmds : List XCmd
  out : List OutRequest
  imports : List ImportEntry
  buffers : List HalyardBuffer
  plans : List Plan
  halyardOut : List (Nat × HalyardPacket)
  quarantine : List (Nat × Nat)
  pages : List (Nat × Nat)
  planCount : Nat
  hwqs : List HwQueue
  waitingRecords : List WaitingRecord
  openFaults : List OpenFault
  nextFaultSeq : BitVec 32
  io : IoRegs
  counters : List Counter
  arithMHz : Nat
  gated : BitVec 2
  fw : Firmware
  guest : Guest
  signals : List Signal
  hostReads : List (Nat × List Byte)
  sentAnswers : List (Nat × Nat × FabricAnswer)
  heldRequests : List FabricRequest
  savedCounters : List (Nat × Nat × Nat × Word)
  deriving DecidableEq, Repr

/-- Why the machine stops with a fault. -/
inductive Fault where
  /-- Raised by exec when an instruction word is asked for and no stream is issuing. The spec has no such event: step
  never asks. Safe: nothing is claimed of such a state. -/
  | noIssuingStream
  deriving DecidableEq, Repr

/-- Why the machine refuses an instruction. -/
inductive Refusal where
  /-- Raised by a dispatch arm that has no meaning yet. Safe. -/
  | notModelled (mnemonic : String)
  deriving DecidableEq, Repr

/-- A format window after reset (log 5). -/
def FormatWindow.zero : FormatWindow := { enc := 0, scale := 0, aliasBase := 0, ctl := 0 }

/-- The I/O registers after reset: the values of their rules; zero where the spec gives none (log 5). QPOOL lists only
cores whose register differs from its reset value. -/
def IoRegs.reset : IoRegs :=
  { memcarve := 0, l2mrg := Vector.replicate 2 64, fw := Vector.replicate 16 FormatWindow.zero, fwOff := [], qpool := []
    harb := Vector.replicate 8 0x8213#16, ruq := Vector.replicate 2 1000
    schctl := Vector.replicate 2 0x0000_00C8_0014_0000#64
    hqctl := Vector.replicate 2 (0x8000_0000_0000_0000#64 + BitVec.ofNat 64 (1000 * 2 ^ 20 + 2000))
    fqbase := 0, fqctl := 0, fqtail := 0, fresume := 0, ctxbase := 0, wdctl := Vector.replicate 2 100, gsEn := false, gsFenced := false
    gsCause := 0, gpas := Vector.replicate 64 0, snapArm := false, snapSrc := 0, partcfg := Vector.replicate 16 0
    powctl := BitVec.ofNat 64 (500 * 2 ^ 32 + 3200) }

/-- The guest after reset: not enabled, holding nothing. -/
def Guest.reset : Guest :=
  { owned := [], shared := [], atc := [], replies := [], reads := [], invalidation := none, save := none, paused := [], lost := [], chain := []
    identityOk := false, messages := [] }

/-- Firmware after a reset in which every part passed its self-test and the full service runs (log 6). -/
def Firmware.reset : Firmware :=
  { current := none, waiting := [], reduced := false, serving := true, serviceDie := 0, servicePair := 0, completed := 0, dieOk := 3
    stackOk := 0xFF, guestSite := true, svn := 0, fuse := 0, staged := none, faultCopies := [], runLists := Vector.replicate 2 [] }

/-- The module right after reset: no launch, no queue, nothing in memory, the registers at their reset values. -/
def State.reset : State :=
  { agenda := [], cur := none, last := 0, turn := true, ticks := 0, clock := 0, seq := 0, nextSid := 0, nextLaunch := 1, mem := []
    badLines := [], retired := [], tlb := [], ctlb := [], walkCache := [], misses := [], l1 := [], l2 := []
    hostCopies := [], tileReads := [], dropped := [], ibuf := [], aliasLines := [], hostLines := [], lostLog := [], launches := []
    gangs := [], streams := [], splices := [], marks := [], queues := [], coreCmds := [], matCmds := [], matTurn := [], locks := [], xcmds := []
    out := [], imports := [], buffers := [], plans := [], halyardOut := [], quarantine := [], pages := [], planCount := 0, hwqs := []
    waitingRecords := [], openFaults := [], nextFaultSeq := 0, io := IoRegs.reset, counters := []
    arithMHz := 1900, gated := 0, fw := Firmware.reset, guest := Guest.reset, signals := [], hostReads := [], sentAnswers := [], heldRequests := [], savedCounters := [] }

end Sys2Proof.Machine
end

