-- ==== Sys2Proof/Machine/Mem.lean ====
section
/-! DEFINITION. Sparse memory in its one canonical form, fixed-length register files, and the lookups and updates of the
lists that State holds. -/

namespace Sys2Proof.Machine

/-- What a byte that nothing has written reads as (log 2). -/
def blankByte : Byte := 0#8

/-- The canonical form: addresses from `lo` on, strictly rising, no blank byte. -/
def Memory.wfFrom : Nat → Memory → Bool
  | _, [] => true
  | lo, (a, b) :: rest => decide (lo ≤ a) && decide (b ≠ blankByte) && Memory.wfFrom (a + 1) rest

/-- The canonical form of a memory. -/
def Memory.wf (m : Memory) : Bool := Memory.wfFrom 0 m

/-- The byte at an address. -/
def Memory.get : Memory → Nat → Byte
  | [], _ => blankByte
  | (k, b) :: rest, a => if k = a then b else if a < k then blankByte else Memory.get rest a

/-- Memory with one byte written; a blank byte is unlisted. -/
def Memory.set : Memory → Nat → Byte → Memory
  | [], a, b => if b = blankByte then [] else [(a, b)]
  | (k, c) :: rest, a, b =>
    if a < k then (if b = blankByte then (k, c) :: rest else (a, b) :: (k, c) :: rest)
    else if k = a then (if b = blankByte then rest else (a, b) :: rest)
    else (k, c) :: Memory.set rest a b

/-- n bytes from an address up. -/
def Memory.read (m : Memory) : Nat → Nat → List Byte
  | _, 0 => []
  | a, n + 1 => m.get a :: Memory.read m (a + 1) n

/-- Bytes written from an address up. -/
def Memory.write : Memory → Nat → List Byte → Memory
  | m, _, [] => m
  | m, a, b :: bs => Memory.write (m.set a b) (a + 1) bs

/-- The little-endian value of n bytes (R3). -/
def Memory.nat (m : Memory) (a n : Nat) : Nat := leNat (m.read a n)

/-- The little-endian 64-bit word at an address. -/
def Memory.word (m : Memory) (a : Nat) : Word := BitVec.ofNat 64 (m.nat a 8)

/-- The 8 bytes of a word. -/
def wordBytes (w : Word) : List Byte := leBytes 8 w.toNat

/-- Bits hi down to lo of a number. -/
def field (v hi lo : Nat) : Nat := v / 2 ^ lo % 2 ^ (hi + 1 - lo)

/-- Bits hi down to lo of a word as a number. -/
def bits (w : Word) (hi lo : Nat) : Nat := field w.toNat hi lo

/-- A word from a number. -/
def toWord (n : Nat) : Word := BitVec.ofNat 64 n

/-- The signed value of the low w bits. -/
def sextN (n w : Nat) : Int := if n % 2 ^ w < 2 ^ (w - 1) then (n % 2 ^ w : Nat) else (n % 2 ^ w : Nat) - 2 ^ w

/-- The low w bits of an integer. -/
def truncZ (i : Int) (w : Nat) : Nat := (i % 2 ^ w).toNat

/-! Register files. -/

/-- Element i of a register file. -/
def vget (v : Vector α n) (i : Nat) (d : α) : α := v.toArray.getD i d

/-- A register file with element i replaced. -/
def vset (v : Vector α n) (i : Nat) (x : α) : Vector α n := v.setIfInBounds i x

/-- A register file by its elements. -/
def vtab (n : Nat) (f : Nat → α) : Vector α n := ⟨((List.range n).map f).toArray, by simp⟩

/-- Lane l of a vector register. -/
def lane (v : VReg) (l : Nat) : Word := vget v l 0#64

/-- A vector register by its lanes. -/
def byLane (f : Nat → Word) : VReg := vtab 32 f

/-! Sorting. -/

/-- An element put before the first that it does not follow. -/
def insertBy (le : α → α → Bool) (a : α) : List α → List α
  | [] => [a]
  | b :: l => if le a b then a :: b :: l else b :: insertBy le a l

/-- A list in an order, equal elements keeping theirs. -/
def sortBy (le : α → α → Bool) (l : List α) : List α := l.foldr (insertBy le) []

/-- Numbers in ascending order. -/
def sortNat (l : List Nat) : List Nat := sortBy (fun a b => decide (a ≤ b)) l

/-! Lookups and updates. -/

/-- The first element found, replaced by f of it. -/
def updFirst (p : α → Bool) (f : α → α) : List α → List α
  | [] => []
  | x :: xs => if p x then f x :: xs else x :: updFirst p f xs

/-- Gang k of launch l. -/
def State.gang? (s : State) (l k : Nat) : Option Gang := s.gangs.find? fun g => g.launch == l && g.idx == k

/-- Update gang k of launch l. -/
def State.updGang (s : State) (l k : Nat) (f : Gang → Gang) : State :=
  { s with gangs := updFirst (fun g => g.launch == l && g.idx == k) f s.gangs }

/-- A stream by its number. -/
def State.stream? (s : State) (sid : Nat) : Option Stream := s.streams.find? fun t => t.sid == sid

/-- Update a stream. -/
def State.updStream (s : State) (sid : Nat) (f : Stream → Stream) : State :=
  { s with streams := updFirst (fun t => t.sid == sid) f s.streams }

/-- An accepted launch. -/
def State.launch? (s : State) (l : Nat) : Option Launch := s.launches.find? fun x => x.id == l

/-- Update a launch. -/
def State.updLaunch (s : State) (l : Nat) (f : Launch → Launch) : State :=
  { s with launches := updFirst (fun x => x.id == l) f s.launches }

/-- Splice i of launch l. -/
def State.splice? (s : State) (l i : Nat) : Option Splice := s.splices.find? fun x => x.launch == l && x.idx == i

/-- Update a splice. -/
def State.updSplice (s : State) (l i : Nat) (f : Splice → Splice) : State :=
  { s with splices := updFirst (fun x => x.launch == l && x.idx == i) f s.splices }

/-- A registered memory queue by PASID and header VA. -/
def State.queue? (s : State) (pasid hdr : Nat) : Option MemQueue :=
  s.queues.find? fun q => q.pasid == pasid && q.hdr == hdr

/-- Update a registered memory queue. -/
def State.updQueue (s : State) (pasid hdr : Nat) (f : MemQueue → MemQueue) : State :=
  { s with queues := updFirst (fun q => q.pasid == pasid && q.hdr == hdr) f s.queues }

/-- A registered hardware queue by PASID and descriptor VA. -/
def State.hwq? (s : State) (pasid desc : Nat) : Option HwQueue :=
  s.hwqs.find? fun q => q.pasid == pasid && q.desc == desc

/-- Update a hardware queue. -/
def State.updHwq (s : State) (pasid desc : Nat) (f : HwQueue → HwQueue) : State :=
  { s with hwqs := updFirst (fun q => q.pasid == pasid && q.desc == desc) f s.hwqs }

/-- The handle of a plan (R236): generation in bits 31:16, index in bits 15:0. -/
def Plan.handle (p : Plan) : Nat := p.gen * 2 ^ 16 + p.index

/-- A plan by its handle. -/
def State.plan? (s : State) (h : Nat) : Option Plan := s.plans.find? fun p => p.handle == h

/-- Update a plan. -/
def State.updPlan (s : State) (h : Nat) (f : Plan → Plan) : State :=
  { s with plans := updFirst (fun p => p.handle == h) f s.plans }

/-- Update bucket n of a plan. -/
def State.updBucket (s : State) (h n : Nat) (f : Bucket → Bucket) : State :=
  s.updPlan h fun p => { p with buckets := updFirst (fun b => b.n == n) f p.buckets }

/-- The slots of a stream whose slice belongs to gang k. -/
def Stream.slotsOf (t : Stream) (k : Nat) : List Nat := (List.range 8).filter fun i => vget t.slots i none == some k

/-- The home gangs of a stream, ascending (R249). -/
def Stream.homes (t : Stream) : List Nat :=
  sortNat (((List.range 8).filterMap fun i => vget t.slots i none).foldr (fun k acc => k :: acc.filter (· != k)) [])

/-- The stream holds slices of gang k. -/
def Stream.has (t : Stream) (k : Nat) : Bool := !(t.slotsOf k).isEmpty

/-- The streams that hold slices of gang k of launch l. -/
def State.streamsOf (s : State) (l k : Nat) : List Stream := s.streams.filter fun t => t.launch == l && t.has k

/-- The core a resident gang's slot belongs to. -/
def Gang.core (g : Gang) : Option Nat := g.place.map (·.1)

/-- The die of a core (R170). -/
def dieOf (core : Nat) : Nat := core / 128

/-- The PASID of a launch. -/
def State.pasidOf (s : State) (l : Nat) : Nat := ((s.launch? l).map (·.pasid)).getD 0

/-- A word with only some of its bits. -/
def keep (v : Word) (l : List (Nat × Nat)) : Word := toWord ((l.map fun r => bits v r.1 r.2 * 2 ^ r.2).sum)

end Sys2Proof.Machine
end

