-- ==== Sys2Proof/Machine/Cache.lean ====
section
/-! DEFINITION. Counters (R362 to R366); the caches and directories (R84 to R87, R154) and the watch table (R285): which core's L1 and
which die's L2 holds which line, what a line's entry or departure does, and which streams watch it. -/

namespace Sys2Proof.Machine

/-! Contexts and partitions. -/

/-- A PASID context entry (R329). -/
structure Context where
  valid : Bool
  root : Nat
  part : Nat
  gcnt : Nat
  scnt : Nat
  gpool : Word
  spool : Word
  deriving DecidableEq, Repr

/-- The PA of a PASID's context entry (R324, R329). -/
def State.contextPa (s : State) (pasid : Nat) : Nat := bits s.io.ctxbase 55 12 * 4096 + 64 * pasid

/-- The context entry of a PASID, read from the table at CTXBASE (R329). -/
def State.context (s : State) (pasid : Nat) : Context :=
  let a := s.contextPa pasid
  { valid := (s.mem.get a).getLsbD 0, root := s.mem.nat (a + 8) 8, part := (s.mem.get (a + 16)).toNat % 16
    gcnt := s.mem.nat (a + 24) 4, scnt := s.mem.nat (a + 28) 4, gpool := s.mem.word (a + 32), spool := s.mem.word (a + 40) }

/-- PARTCFG of a partition (R367). -/
def State.partcfg (s : State) (p : Nat) : Word := vget s.io.partcfg p 0

/-- The partition is strict (R367). -/
def State.isStrict (s : State) (p : Nat) : Bool := (s.partcfg p).getLsbD 63

/-- The ways of an L2 slice that lines of a PASID may fill: its strict partition's, or those that no strict partition holds (R368). -/
def State.waysOf (s : State) (pasid : Nat) : List Nat :=
  let held := fun p => bits (s.partcfg p) 47 32
  let strict := (List.range 16).filter s.isStrict
  let p := (s.context pasid).part
  if strict.contains p then (List.range 16).filter fun w => (held p).testBit w
  else (List.range 16).filter fun w => !strict.any fun q => (held q).testBit w

/-! Interrupts (R339, R368). -/

/-- The interrupt vector of a PASID: its partition's (R339, R368). -/
def State.vectorOf (s : State) (pasid : Nat) : IrqVector := .part (s.context pasid).part

/-- The host is interrupted. -/
def State.interrupt (s : State) (v : IrqVector) (cause : IrqCause) : State := { s with signals := s.signals ++ [.irq v cause] }

/-! Counters. -/

/-- Add n to the counters of a bank that count event `ev` for work of a PASID; one that overflows raises the vector of its owner's
partition, or firmware's, if OVI is set (R363, R364). -/
def State.count (s : State) (bank ev pasid n : Nat) : State :=
  let hit := fun c : Counter =>
    c.bank == bank && c.control.getLsbD 63 && bits c.control 15 0 == ev &&
      (bits c.control 51 32 == 0 || bits c.control 51 32 == pasid)
  let past := fun c : Counter => hit c && decide (2 ^ 48 ≤ bits c.value 47 0 + n)
  { s with
    counters := s.counters.map fun c =>
      if hit c then
        { c with
          value := toWord ((bits c.value 47 0 + n) % 2 ^ 48)
          control := if past c then c.control ||| 0x2000_0000_0000_0000#64 else c.control }
      else c
    signals := s.signals ++ ((s.counters.filter fun c => past c && c.control.getLsbD 62).map fun c =>
      .irq (if bits c.control 51 32 = 0 then .firmware else s.vectorOf (bits c.control 51 32)) (.overflow c.bank c.n)) }

/-- Count an event of a core's bank. -/
def State.countCore (s : State) (core : Option Nat) (ev pasid n : Nat) : State :=
  match core with
  | some c => s.count c ev pasid n
  | none => s

/-- An event of the hub that a rule calls counted (R363, R379). -/
def State.countHub (s : State) (pasid : Nat := 0) : State := s.count 392 0x30 pasid 1

/-- A snapshot trigger of a source (R366): taken when it is armed and selected. -/
def State.snapTrigger (s : State) (src : Nat) : State :=
  if s.io.snapArm && s.io.snapSrc.toNat == src then
    { s with
      io := { s.io with snapArm := false }
      counters := s.counters.map fun c => { c with snap := toWord (bits c.value 47 0) } }
  else s

/-- The first address of a line. -/
def lineOf (a : Nat) : Nat := a / 64 * 64

/-- The address lies in host memory (R70). -/
def isHostPa (pa : Nat) : Bool := pa / 2 ^ 44 == 1

/-- The address lies in the format-window aliases (R70). -/
def isAliasPa (pa : Nat) : Bool := pa / 2 ^ 44 == 2

/-- The line of a PA. -/
def LinePlace.isLine (line : Nat) : LinePlace → Bool
  | .mem pa _ => pa == line
  | .scratch _ => false

/-! The watch table (R285). -/

/-- The lines and blocks that a wait watches (R152, R153, R283). -/
def Wait.places : Wait → List LinePlace
  | .watch _ pa _ | .yieldWatch pa _ _ _ => [.mem (lineOf pa) 0]
  | .spin lines => lines
  | _ => []

/-- Line entries in use in a die's watch table. -/
def State.watchUsed (s : State) (die : Nat) : Nat :=
  ((s.streams.filter fun t => t.watchDie == some die).map fun t =>
    (t.wait.places.filter fun p => match p with | .mem _ _ => true | .scratch _ => false).length).sum

/-- A watched line or block is written, or the L2 of a die drops it: its watchers look again (R152, R283, R285). A stream that may
become a spinner on it takes note (R283). -/
def State.touchWatch (s : State) (die : Option Nat) (hit : Stream → LinePlace → Bool) : State :=
  { s with
    streams := s.streams.map fun t =>
      if (t.wait.places.any fun p => hit t p && match p with
            | .mem _ _ => t.watchDie.isSome && (die.isNone || die == t.watchDie)
            | .scratch _ => true) ||
          (die.isNone && (t.spin.lines ++ if t.spin.count < 16 then [] else t.spin.runLines).any (hit t)) then { t with due := true }
      else t }

/-! Caches. -/

/-- A compute die is awake: work has arrived for it (R369). -/
def State.wakeDie (s : State) (die : Nat) : State := { s with gated := s.gated &&& ~~~(1#2 <<< die) }

/-- Whose L2 a line goes into: a die, for work of a PASID. -/
structure Filler where
  die : Nat
  pasid : Nat
  deriving DecidableEq, Repr

/-- Bytes of scratchpad that the splices resident on a core hold, partly evicted ones counted (R154). -/
def State.scratchUse (s : State) (core : Nat) : Nat := ((s.splices.filter fun x => x.core == some core).map (·.size)).sum

/-- The ways of a core's SRAM array that serve as scratchpad: the smallest k that holds the resident splices (R154). -/
def State.scratchWays (s : State) (core : Nat) : Nat := (s.scratchUse core + 49151) / 49152

/-- A die's L2 holds a line. -/
def State.inL2 (s : State) (die pa : Nat) : Bool := s.l2.any fun x => x.die == die && x.pa == pa

/-- L1 copies of a line dropped, in the cores chosen. -/
def State.dropL1 (s : State) (cores : Nat → Bool) (pa : Nat) : State := { s with l1 := s.l1.filter fun x => !(x.pa == pa && cores x.core) }

/-- A die's L2 drops a line: first its L1 copies go, a modified host line is written back, and the line's watchers look again (R85,
R285). -/
def State.dropL2 (s : State) (die pa : Nat) : State :=
  let s := s.dropL1 (fun c => dieOf c == die) pa
  let s :=
    { s with
      l2 := s.l2.filter fun x => !(x.die == die && x.pa == pa)
      hostLines := s.hostLines.filter fun x => !(x.die == die && x.pa == pa)
      aliasLines := s.aliasLines.filter fun x => x.1 != pa || s.l2.any fun y => y.pa == pa && y.die != die }
  s.touchWatch (some die) fun _ p => p.isLine pa

/-- A line evicted from a die's L2 for want of a way: its signatures are still to be tested (R85, R89). -/
def State.evictL2 (s : State) (die pa : Nat) : State :=
  let s := s.dropL2 die pa
  { s with dropped := s.dropped ++ [{ die := die, core := none, place := .mem pa 0 }] }

/-- The lines of a die's L2 in the set of a line: 64 slices of 2,048 sets (R85). -/
def State.setOf (s : State) (die pa : Nat) : List L2Line :=
  s.l2.filter fun x => x.die == die && Config.l2Slice x.pa == Config.l2Slice pa && Config.l2Set x.pa == Config.l2Set pa

/-- A line put into a way. -/
def State.putWay (s : State) (die pa way : Nat) (st : L2State) : State :=
  { s with l2 := { die := die, pa := pa, state := st, way := way } :: s.l2 }

/-- A line that a die's L2 takes, in a way that its work may fill (R85, R368): the lowest free one, else that of the oldest line there,
which is evicted (log 41). Work that no way serves leaves the line uncached. -/
def State.fillWay (s : State) (u : Filler) (pa : Nat) (st : L2State) : State :=
  let ways := s.waysOf u.pasid
  let set := s.setOf u.die pa
  let free := ways.find? fun w => !set.any (·.way == w)
  if (s.l2.filter (·.die == u.die)).length < ways.length then s.putWay u.die pa (free.getD 0) st
  else match free, (set.filter fun x => ways.contains x.way).getLast? with
    | some w, _ => s.putWay u.die pa w st
    | none, some x => (s.evictL2 u.die x.pa).putWay u.die pa x.way st
    | none, none => s

/-- A line held by a die's L2 in a state. -/
def State.putL2 (s : State) (u : Filler) (pa : Nat) (st : L2State) : State :=
  if s.inL2 u.die pa then
    { s with l2 := s.l2.map fun x => if x.die == u.die && x.pa == pa then { x with state := st } else x }
  else s.fillWay u pa st

/-- A miss of a line in a die's L2, counted by its slice (R363). -/
def State.missL2 (s : State) (u : Filler) (pa : Nat) : State :=
  if s.inL2 u.die pa then s else s.count (256 + 64 * u.die + (Config.l2Slice pa).toNat) 0x10 u.pasid 1

/-- A line read by another die, the guest or the host: the copies that dies hold are shared from then on, a modified host line written back
(R84, R345). -/
def State.shareOut (s : State) (pa : Nat) : State :=
  { s with
    l2 := s.l2.map fun (x : L2Line) => if x.pa == pa then { x with state := .s } else x
    hostLines := s.hostLines.filter (·.pa != pa) }

/-- Another agent than a die has a copy of the line (R84). -/
def State.outsideCopy (s : State) (pa : Nat) : Bool := s.hostCopies.contains pa || s.guest.shared.contains pa

/-- A line read into a die's L2 (R84, R85, R97): a miss is counted, a modified copy of the other die is written back and shared; a line
that nobody else holds comes in state E. -/
def State.readL2 (s : State) (die pasid pa : Nat) : State :=
  if s.inL2 die pa then s
  else
    let s := s.missL2 ⟨die, pasid⟩ pa
    let shared := s.l2.any fun x => x.pa == pa
    let s := if shared then s.shareOut pa else s
    s.putL2 ⟨die, pasid⟩ pa (if shared || isAliasPa pa || s.outsideCopy pa then .s else .e)

/-- A core copy engine's read of a set of lines arrives at its die's L2 (R91). An identical read of another core that arrived at most W
clocks before takes it in: the merge is counted (R363). Else the merge table keeps the read, for the W clocks of L2MRG now. -/
def State.tileRead (s : State) (core pasid : Nat) (lines : List Nat) : State :=
  let die := dieOf core
  let w := (vget s.io.l2mrg die 0).toNat
  let live := s.tileReads.filter fun x => x.die != die || decide ((s.clock - x.clock).toNat ≤ x.window)
  if w = 0 || lines.isEmpty then s
  else if live.any fun x => x.die == die && x.lines == lines && x.core != core then
    { s with tileReads := live }.count (256 + 64 * die + (Config.l2Slice (lines.headD 0)).toNat) 0x11 pasid 1
  else { s with tileReads := { die := die, core := core, lines := lines, clock := s.clock, window := w } :: live }

/-- A line dropped from a core's L1 for want of room, or with its way: its signatures are still to be tested (R89, R154). -/
def State.evictL1 (s : State) (core pa : Nat) : State :=
  let s := s.dropL1 (· == core) pa
  { s with dropped := s.dropped ++ [{ die := dieOf core, core := some core, place := .mem pa 0 }] }

/-- A line read into a core's L1, through its die's L2, which includes it (R85, R86). A way holds 768 lines; a line goes to the lowest
L1 way with room, else the oldest line goes (log 41). -/
def State.readL1 (s : State) (core pasid pa : Nat) : State :=
  let s := s.readL2 (dieOf core) pasid pa
  if s.l1.any fun x => x.core == core && x.pa == pa then s
  else
    let mine := s.l1.filter (·.core == core)
    let k := s.scratchWays core
    match ((List.range 16).filter fun w => decide (k ≤ w)).find? fun w => decide ((mine.filter (·.way == w)).length < 768) with
    | some w => { s with l1 := { core := core, pa := pa, way := w } :: s.l1 }
    | none => match mine.getLast? with
      | some x =>
        let s := s.evictL1 core x.pa
        { s with l1 := { core := core, pa := pa, way := x.way } :: s.l1 }
      | none => s

/-- A stream starts a wait that watches: its lines enter the watch table of its core's die and are kept in that die's L2. With the table
full the wait has the recheck alone, and the event is counted (R285). -/
def State.enterWatch (s : State) (core : Option Nat) (pasid sid : Nat) (w : Wait) : State :=
  match core with
  | none => s.updStream sid fun t => { t with wait := w, watchDie := none, due := false }
  | some c =>
    let die := dieOf c
    let lines := w.places.filterMap fun p => match p with | .mem pa _ => some pa | .scratch _ => none
    if s.watchUsed die + lines.length ≤ 8192 then
      (lines.foldl (fun s pa => s.readL2 die pasid pa) s).updStream sid fun t => { t with wait := w, watchDie := some die, due := false }
    else
      (s.count c 0x30 pasid 1).updStream sid fun t => { t with wait := w, watchDie := none, due := false }

/-- Ways that have become scratchpad lose their L1 lines (R154). -/
def State.trimL1 (s : State) (core : Nat) : State :=
  (s.l1.filter fun x => x.core == core && decide (x.way < s.scratchWays core)).foldl (fun s x => s.evictL1 core x.pa) s

/-- A write takes a line (R86, R87): every copy but the writer's goes, the guest's, and the host's by back-invalidation (R84), and the
writer's die holds it modified; of a host line the bytes that the host last received are kept (R345). A write by no die leaves no copy, and
a host line with the host. -/
def State.ownLine (s : State) (by' : Option Filler) (core : Option Nat) (pa : Nat) : State :=
  let s :=
    { s with
      hostCopies := s.hostCopies.filter (· != pa), guest := { s.guest with shared := s.guest.shared.filter (· != pa) } }
  let s := s.dropL1 (fun c => by'.isNone || some c != core) pa
  match by' with
  | none => { s with l2 := s.l2.filter (·.pa != pa), hostLines := s.hostLines.filter (·.pa != pa) }
  | some u =>
    let s := s.missL2 u pa
    let s := { s with l2 := s.l2.filter fun x => !(x.pa == pa && x.die != u.die) }
    let s :=
      if isHostPa pa then
        { s with
          hostLines := match s.hostLines.find? (·.pa == pa) with
            | some x => { x with die := u.die } :: s.hostLines.filter (·.pa != pa)
            | none => { pa := pa, die := u.die, old := s.mem.read pa 64 } :: s.hostLines }
      else s
    s.putL2 u pa .m

/-- Every cached copy of the lines chosen is dropped. -/
def State.invalidateLines (s : State) (hit : Nat → Bool) : State :=
  { s with l1 := s.l1.filter (fun x => !hit x.pa), l2 := s.l2.filter (fun x => !hit x.pa) }

/-! The directories (R84), as the lines held give them. -/

/-- The core vector of a cluster directory. -/
def State.clusterVector (s : State) (cluster pa : Nat) : BitVec 8 :=
  (List.range 8).foldl (fun v i => if s.l1.any fun x => x.core == 8 * cluster + i && x.pa == pa then v ||| (1#8 <<< i) else v) 0

/-- The cluster vector of a die directory. -/
def State.dieVector (s : State) (die pa : Nat) : BitVec 16 :=
  (List.range 16).foldl (fun v i => if s.clusterVector (16 * die + i) pa ≠ 0 then v ||| (1#16 <<< i) else v) 0

/-- An entry of the package directory: no copy, sharers among CD0, CD1, the guest and the host, or one owner. -/
inductive PackageEntry where
  | invalid
  | shared (sharers : BitVec 4)
  | owned (owner : Nat)
  deriving DecidableEq, Repr

/-- The package directory's entry of a line: 0 CD0, 1 CD1, 2 the guest, 3 the host. -/
def State.packageEntry (s : State) (pa : Nat) : PackageEntry :=
  if s.guest.owned.contains pa then .owned 2
  else match s.l2.find? fun x => x.pa == pa && x.state != .s with
    | some x => .owned x.die
    | none =>
      let v := (if s.inL2 0 pa then 1#4 else 0) ||| (if s.inL2 1 pa then 2#4 else 0) |||
        (if s.guest.shared.contains pa then 4#4 else 0) ||| (if s.hostCopies.contains pa then 8#4 else 0)
      if v = 0 then .invalid else .shared v

end Sys2Proof.Machine
end

