-- ==== Sys2Proof/Machine/Flags.lean ====
section
/-! DEFINITION. The exception flags of sr_fflags (spec/03_number_formats.md R56) as the floating-point operations raise
them. -/

namespace Sys2Proof.Machine

/-- The five flags of R56: bit 4 NX, 3 UF, 2 OF, 1 DZ, 0 NV. -/
abbrev Flags := BitVec 5

/-- No flag. -/
def Flags.clear : Flags := 0#5

/-- Invalid. -/
def Flags.nv : Flags := 1#5

/-- Division by zero. -/
def Flags.dz : Flags := 2#5

/-- Overflow. -/
def Flags.of : Flags := 4#5

/-- Underflow. -/
def Flags.uf : Flags := 8#5

/-- Inexact. -/
def Flags.nx : Flags := 16#5

/-- A flag raised on a condition. -/
def Flags.when (c : Bool) (f : Flags) : Flags := if c then f else 0#5

/-- The sticky register after an instruction raised `f` (R56). -/
def stickyFlags (old : Word) (f : Flags) : Word := old ||| f.setWidth 64

/-- What SETSR keeps of a value written to sr_fflags (R56, R170). -/
def keptFlags (v : Word) : Word := v &&& 0x1F#64

end Sys2Proof.Machine
end

