-- ==== Sys2Proof/Machine/Numeric.lean ====
section
/-! DEFINITION. Number formats, rounding, block scaling, the codebook and the order of sums
(spec/03_number_formats.md R45 to R69). Every value is an exact dyadic number; a rounding happens only where a rule names
one. -/

namespace Sys2Proof.Machine

/-- The codes of R39. A block-scaled format names its element format. -/
inductive Fmt where
  | f64 | f32 | bf16 | f16 | e4m3 | e5m2 | e3m2 | e2m3 | e2m1
  | i64 | i32 | i16 | i8 | u8 | i4 | tern | cb4
  | bsE4m3 | bsE5m2 | bsE3m2 | bsE2m3 | bsE2m1 | bsI8 | bsI4
  deriving DecidableEq, Repr

/-- The format of a code; `none` for the reserved codes 0x18 to 0x1F (R39). -/
def Fmt.ofCode (c : Nat) : Option Fmt :=
  match c with
  | 0x00 => some .f64 | 0x01 => some .f32 | 0x02 => some .bf16 | 0x03 => some .f16 | 0x04 => some .e4m3
  | 0x05 => some .e5m2 | 0x06 => some .e3m2 | 0x07 => some .e2m3 | 0x08 => some .e2m1 | 0x09 => some .i64
  | 0x0A => some .i32 | 0x0B => some .i16 | 0x0C => some .i8 | 0x0D => some .u8 | 0x0E => some .i4 | 0x0F => some .tern
  | 0x10 => some .cb4 | 0x11 => some .bsE4m3 | 0x12 => some .bsE5m2 | 0x13 => some .bsE3m2 | 0x14 => some .bsE2m3
  | 0x15 => some .bsE2m1 | 0x16 => some .bsI8 | 0x17 => some .bsI4
  | _ => none

/-- The element format of a block-scaled format (R60), and the format itself otherwise. -/
def Fmt.elem : Fmt → Fmt
  | .bsE4m3 => .e4m3 | .bsE5m2 => .e5m2 | .bsE3m2 => .e3m2 | .bsE2m3 => .e2m3 | .bsE2m1 => .e2m1 | .bsI8 => .i8
  | .bsI4 => .i4 | f => f

/-- The format is block-scaled (R60). -/
def Fmt.scaled (f : Fmt) : Bool := f.elem != f

/-- Element width in bits (R45, R49, R51). -/
def Fmt.width (f : Fmt) : Nat :=
  match f.elem with
  | .f64 | .i64 => 64
  | .f32 | .i32 => 32
  | .bf16 | .f16 | .i16 => 16
  | .e4m3 | .e5m2 | .i8 | .u8 => 8
  | .e3m2 | .e2m3 => 6
  | .e2m1 | .i4 | .cb4 => 4
  | _ => 2

/-- How the all-ones exponent is used (R46). -/
inductive TopExponent where
  | ieee | e4m3 | normal
  deriving DecidableEq, Repr

/-- A floating-point layout (R45). -/
structure FloatFmt where
  eb : Nat
  fb : Nat
  bias : Nat
  top : TopExponent
  deriving DecidableEq, Repr

/-- f64 (R45). -/
def ffF64 : FloatFmt := ⟨11, 52, 1023, .ieee⟩
/-- f32 (R45). -/
def ffF32 : FloatFmt := ⟨8, 23, 127, .ieee⟩
/-- bf16 (R45). -/
def ffBf16 : FloatFmt := ⟨8, 7, 127, .ieee⟩
/-- f16 (R45). -/
def ffF16 : FloatFmt := ⟨5, 10, 15, .ieee⟩
/-- e4m3 (R45). -/
def ffE4m3 : FloatFmt := ⟨4, 3, 7, .e4m3⟩
/-- e5m2 (R45). -/
def ffE5m2 : FloatFmt := ⟨5, 2, 15, .ieee⟩
/-- e3m2 (R45). -/
def ffE3m2 : FloatFmt := ⟨3, 2, 3, .normal⟩
/-- e2m3 (R45). -/
def ffE2m3 : FloatFmt := ⟨2, 3, 1, .normal⟩
/-- e2m1 (R45). -/
def ffE2m1 : FloatFmt := ⟨2, 1, 1, .normal⟩

/-- The layout of a float format; `none` for the others. -/
def Fmt.float (f : Fmt) : Option FloatFmt :=
  match f with
  | .f64 => some ffF64 | .f32 => some ffF32 | .bf16 => some ffBf16 | .f16 => some ffF16 | .e4m3 => some ffE4m3
  | .e5m2 => some ffE5m2 | .e3m2 => some ffE3m2 | .e2m3 => some ffE2m3 | .e2m1 => some ffE2m1
  | _ => none

/-- The range of an integer format (R49). -/
def Fmt.intRange (f : Fmt) : Option (Int × Int) :=
  match f with
  | .i64 => some (-2 ^ 63, 2 ^ 63 - 1) | .i32 => some (-2 ^ 31, 2 ^ 31 - 1) | .i16 => some (-32768, 32767)
  | .i8 => some (-128, 127) | .u8 => some (0, 255) | .i4 => some (-8, 7)
  | _ => none

/-- A value: NaN (quiet or signalling), infinity, or (-1)^neg × mag × 2^exp, a signed zero when mag = 0. -/
inductive FVal where
  | nan (signalling : Bool)
  | inf (neg : Bool)
  | fin (neg : Bool) (mag : Nat) (exp : Int)
  deriving DecidableEq, Repr

/-- 2^k for an integer k not below zero, 1 otherwise. -/
def pow2 (k : Int) : Nat := 2 ^ k.toNat

/-- The value of an encoding (R46). -/
def FloatFmt.decode (ff : FloatFmt) (bits : Nat) : FVal :=
  let neg := bits / 2 ^ (ff.eb + ff.fb) % 2 == 1
  let e := bits / 2 ^ ff.fb % 2 ^ ff.eb
  let f := bits % 2 ^ ff.fb
  let normal := FVal.fin neg (2 ^ ff.fb + f) ((e : Int) - ff.bias - ff.fb)
  if e = 0 then .fin neg f (1 - (ff.bias : Int) - ff.fb)
  else if e = 2 ^ ff.eb - 1 then
    match ff.top with
    | .ieee => if f = 0 then .inf neg else .nan (f / 2 ^ (ff.fb - 1) % 2 == 0)
    | .e4m3 => if f = 7 then .nan false else normal
    | .normal => normal
  else normal

/-- The sign bit in place. -/
def FloatFmt.signBit (ff : FloatFmt) (neg : Bool) : Nat := if neg then 2 ^ (ff.eb + ff.fb) else 0

/-- The canonical NaN (R47); +0 in a format without NaN (R53 step 5). -/
def FloatFmt.nanBits (ff : FloatFmt) : Nat :=
  match ff.top with
  | .ieee => (2 ^ ff.eb - 1) * 2 ^ ff.fb + 2 ^ (ff.fb - 1)
  | .e4m3 => 0x7F
  | .normal => 0

/-- The encoding of the largest finite magnitude (R45). -/
def FloatFmt.maxBits (ff : FloatFmt) : Nat :=
  match ff.top with
  | .ieee => (2 ^ ff.eb - 1) * 2 ^ ff.fb - 1
  | .e4m3 => 0x7E
  | .normal => 2 ^ (ff.eb + ff.fb) - 1

/-- The encoding of +∞ in a format that has it. -/
def FloatFmt.infBits (ff : FloatFmt) : Nat := (2 ^ ff.eb - 1) * 2 ^ ff.fb

/-- A rounding mode (R52); stochastic rounding carries its draw (R59). -/
inductive RMode where
  | rne | rtz | rup | rdn | rna
  | stoch (draw : Nat)
  deriving DecidableEq, Repr

/-- Whether a magnitude n + r / 2^sh, 0 ≤ r < 2^sh, of the given sign goes to n + 1 (R52, R59). -/
def RMode.up (m : RMode) (neg : Bool) (n r sh : Nat) : Bool :=
  if r = 0 then false
  else
    match m with
    | .rne => r > 2 ^ (sh - 1) || (r == 2 ^ (sh - 1) && n % 2 == 1)
    | .rtz => false
    | .rup => !neg
    | .rdn => neg
    | .rna => r ≥ 2 ^ (sh - 1)
    | .stoch draw => if neg then !(draw < (2 ^ sh - r) * 2 ^ 32 / 2 ^ sh) else draw < r * 2 ^ 32 / 2 ^ sh

/-- mag × 2^exp rounded to a multiple of 2^q: the multiple, and whether it is exact. -/
def roundAt (m : RMode) (neg : Bool) (mag : Nat) (exp q : Int) : Nat × Bool :=
  if q ≤ exp then (mag * pow2 (exp - q), true)
  else
    let sh := (q - exp).toNat
    let n := mag / 2 ^ sh
    let r := mag % 2 ^ sh
    (if m.up neg n r sh then n + 1 else n, r == 0)

/-- round_mode(x, fmt) of R53 for a finite x, with the flags of R56. -/
def FloatFmt.round (ff : FloatFmt) (m : RMode) (neg : Bool) (mag : Nat) (exp : Int) : Nat × Flags :=
  if mag = 0 then (ff.signBit neg, 0)
  else
    let fl := (Nat.log2 mag : Int) + exp
    let emin : Int := 1 - ff.bias
    let q := max (fl - ff.fb) (emin - ff.fb)
    let (n, exact) := roundAt m neg mag exp q
    let bits := (q + ff.fb + ff.bias - 1).toNat * 2 ^ ff.fb + n
    if bits > ff.maxBits then
      let toInf := match m with
        | .rtz => false
        | .rup => !neg
        | .rdn => neg
        | _ => true
      (ff.signBit neg + (if ff.top == .ieee && toInf then ff.infBits else ff.maxBits), Flags.of ||| Flags.nx)
    else
      let tiny :=
        if fl < emin then
          let q' := fl - ff.fb
          let n' := (roundAt m neg mag exp q').1
          decide ((n' * pow2 (q' - (fl - ff.fb)) : Nat) < pow2 (emin - (fl - ff.fb)))
        else false
      (ff.signBit neg + bits, Flags.when (!exact) Flags.nx ||| Flags.when (tiny && !exact) Flags.uf)

/-- The conversion of any value to a float format (R53). A signalling NaN raises NV (R56). -/
def FloatFmt.encode (ff : FloatFmt) (m : RMode) (x : FVal) : Nat × Flags :=
  match x with
  | .nan sig => (ff.nanBits, Flags.when (sig || ff.top == .normal) Flags.nv)
  | .inf neg =>
    match ff.top with
    | .ieee => (ff.signBit neg + ff.infBits, 0)
    | .e4m3 => (ff.nanBits, Flags.nv)
    | .normal => (ff.signBit neg + ff.maxBits, Flags.of)
  | .fin neg mag exp => ff.round m neg mag exp

/-- A conversion with the flags given saturated, or encoded a NaN, which is counted where no flag is raised (R57): an overflow to infinity
is neither. -/
def FloatFmt.counted (ff : FloatFmt) (x : FVal) (f : Flags) : Bool :=
  (match x with | .nan _ => true | _ => false) || (ff.top != .ieee && f &&& (Flags.of ||| Flags.nv) != 0)

/-- SAT on a float result (R55): an infinity becomes the largest finite value of its sign. -/
def FloatFmt.saturate (ff : FloatFmt) (bits : Nat) : Nat :=
  match ff.decode bits with
  | .inf neg => ff.signBit neg + ff.maxBits
  | _ => bits

/-- The conversion of a value to an integer in [lo, hi] (R54). -/
def toIntFlags (m : RMode) (lo hi : Int) (x : FVal) : Int × Flags :=
  match x with
  | .nan _ => (0, Flags.nv)
  | .inf neg => (if neg then lo else hi, Flags.nv)
  | .fin neg mag exp =>
    let (n, exact) := roundAt m neg mag exp 0
    let v : Int := if neg then -(n : Int) else n
    if v < lo then (lo, Flags.nv) else if v > hi then (hi, Flags.nv) else (v, Flags.when (!exact) Flags.nx)

/-- An integer as a value. -/
def FVal.ofInt (i : Int) : FVal := .fin (i < 0) i.natAbs 0

/-- The signed mantissa of a finite value at exponent e, not above its own. -/
def FVal.scaledTo (neg : Bool) (mag : Nat) (exp e : Int) : Int :=
  let v : Int := mag * pow2 (exp - e)
  if neg then -v else v

/-- An exact signed number m × 2^e; a zero takes the sign given. -/
def FVal.ofScaled (m e : Int) (zeroNeg : Bool) : FVal := .fin (if m = 0 then zeroNeg else m < 0) m.natAbs e

/-- The exact sum of two values (R186): `rdn` says whether an exact zero of opposite signs is -0. -/
def FVal.add (rdn : Bool) (x y : FVal) : FVal × Flags :=
  let sig := match x, y with
    | .nan true, _ => true
    | _, .nan true => true
    | _, _ => false
  match x, y with
  | .nan _, _ => (.nan false, Flags.when sig Flags.nv)
  | _, .nan _ => (.nan false, Flags.when sig Flags.nv)
  | .inf a, .inf b => if a == b then (.inf a, 0) else (.nan false, Flags.nv)
  | .inf a, _ => (.inf a, 0)
  | _, .inf b => (.inf b, 0)
  | .fin n1 m1 e1, .fin n2 m2 e2 =>
    let e := min e1 e2
    let s := FVal.scaledTo n1 m1 e1 e + FVal.scaledTo n2 m2 e2 e
    (.ofScaled s e (if m1 = 0 && m2 = 0 && n1 == n2 then n1 else rdn), 0)

/-- The value with its sign changed. -/
def FVal.neg : FVal → FVal
  | .nan s => .nan s
  | .inf n => .inf (!n)
  | .fin n m e => .fin (!n) m e

/-- The value without its sign. -/
def FVal.abs : FVal → FVal
  | .nan s => .nan s
  | .inf _ => .inf false
  | .fin _ m e => .fin false m e

/-- The value is NaN. -/
def FVal.isNan : FVal → Bool
  | .nan _ => true
  | _ => false

/-- The value is a signalling NaN. -/
def FVal.isSig : FVal → Bool
  | .nan true => true
  | _ => false

/-- The value is zero. -/
def FVal.isZero : FVal → Bool
  | .fin _ 0 _ => true
  | _ => false

/-- The exact product of two values (R186). -/
def FVal.mul (x y : FVal) : FVal × Flags :=
  match x, y with
  | .nan s, y => (.nan false, Flags.when (s || y.isSig) Flags.nv)
  | _, .nan s => (.nan false, Flags.when s Flags.nv)
  | .inf a, .inf b => (.inf (a != b), 0)
  | .inf a, .fin b m _ => if m = 0 then (.nan false, Flags.nv) else (.inf (a != b), 0)
  | .fin b m _, .inf a => if m = 0 then (.nan false, Flags.nv) else (.inf (a != b), 0)
  | .fin a m1 e1, .fin b m2 e2 => (.fin (a != b) (m1 * m2) (e1 + e2), 0)

/-- a × b + c, exact (R186). Zero times infinity raises NV even with a quiet NaN c. -/
def FVal.fma (rdn : Bool) (a b c : FVal) : FVal × Flags :=
  let (p, f) := a.mul b
  let (r, g) := FVal.add rdn p c
  (r, f ||| g)

/-- x < y for values that are not NaN; zeros of both signs are equal. -/
def FVal.lt (x y : FVal) : Bool :=
  match x, y with
  | .nan _, _ => false
  | _, .nan _ => false
  | .inf a, .inf b => a && !b
  | .inf a, _ => a
  | _, .inf b => !b
  | .fin n1 m1 e1, .fin n2 m2 e2 =>
    let e := min e1 e2
    decide (FVal.scaledTo n1 m1 e1 e < FVal.scaledTo n2 m2 e2 e)

/-- x = y as numbers; a NaN equals nothing. -/
def FVal.eqv (x y : FVal) : Bool := !x.isNan && !y.isNan && !x.lt y && !y.lt x

/-- The sign of a value. -/
def FVal.isNeg : FVal → Bool
  | .nan _ => false
  | .inf n => n
  | .fin n _ _ => n

/-- minimumNumber or maximumNumber of IEEE 754-2019 (R187): -0 is below +0, a NaN yields the other operand. -/
def FVal.minMax (isMax : Bool) (x y : FVal) : FVal × Flags :=
  let nv := Flags.when (x.isSig || y.isSig) Flags.nv
  if x.isNan && y.isNan then (.nan false, nv)
  else if x.isNan then (y, nv)
  else if y.isNan then (x, nv)
  else
    let less := x.lt y || (x.isZero && y.isZero && x.isNeg && !y.isNeg)
    (if less != isMax then x else y, nv)

/-- The exact value x × 2^k. -/
def FVal.scale (x : FVal) (k : Int) : FVal :=
  match x with
  | .fin n m e => .fin n m (e + k)
  | v => v

/-- The value as round_rne in a working format, and its flags. -/
def FloatFmt.rne (ff : FloatFmt) (x : FVal) : FVal × Flags :=
  let (b, f) := ff.encode .rne x
  (ff.decode b, f)

/-! Integer square root and the sticky representatives of quotients and roots. -/

/-- The largest s with s² ≤ n, by bits from bit k down. -/
def isqrtFrom : Nat → Nat → Nat → Nat
  | 0, _, s => s
  | k + 1, n, s => isqrtFrom k n (if (s + 2 ^ k) * (s + 2 ^ k) ≤ n then s + 2 ^ k else s)

/-- The integer square root. -/
def isqrt (n : Nat) : Nat := isqrtFrom (Nat.log2 n / 2 + 1) n 0

/-- A number that rounds as any number strictly between q and q + 1 does, or as q itself where exact, in units of
2^-1 of q's unit. -/
def sticky (q : Nat) (exact : Bool) : Nat := if exact then 2 * q else 2 * q + 1

/-- 1 / (mag × 2^exp) to 160 bits and a sticky bit. -/
def recip (mag : Nat) (exp : Int) : Nat × Int :=
  let k := Nat.log2 mag + 160
  (sticky (2 ^ k / mag) (2 ^ k % mag == 0), -(k : Int) - 1 - exp)

/-- √(mag × 2^exp) to at least 160 bits and a sticky bit. -/
def root (mag : Nat) (exp : Int) : Nat × Int :=
  let (mag, exp) := if exp % 2 = 0 then (mag, exp) else (2 * mag, exp - 1)
  let n := mag * 2 ^ 320
  let s := isqrt n
  (sticky s (s * s == n), exp / 2 - 160 - 1)

/-- 1 / √(mag × 2^exp) to at least 160 bits and a sticky bit. -/
def recipRoot (mag : Nat) (exp : Int) : Nat × Int :=
  let (mag, exp) := if exp % 2 = 0 then (mag, exp) else (2 * mag, exp - 1)
  let k := Nat.log2 mag + 200
  let s := isqrt (2 ^ (2 * k) / mag)
  (sticky s (s * s * mag == 2 ^ (2 * k)), -(exp / 2) - (k : Int) - 1)

/-! The elementary functions, by fixed-point series at 2^-fxP. The results are within 2^-600 of the exact value, far
nearer than any rounding boundary of a legal type (log 7). -/

/-- Fractional bits of the fixed-point numbers. -/
def fxP : Nat := 704

/-- The product of two fixed-point numbers. -/
def fxMul (a b : Int) : Int := a * b / (2 ^ fxP : Nat)

/-- Σ x^(k0 + ik) terms of a power series: term, power and index step given by `next`, summed `n` times. -/
def fxSeries (next : Int → Nat → Int) : Nat → Nat → Int → Int → Int
  | 0, _, _, acc => acc
  | n + 1, k, t, acc => fxSeries next n (k + 1) (next t k) (acc + t)

/-- atanh-like or atan series Σ (±1)^k z^(2k+1) / (2k+1). -/
def fxAtanSeries (alternate : Bool) (z2 : Int) : Nat → Nat → Int → Int → Int
  | 0, _, _, acc => acc
  | n + 1, k, p, acc =>
    let t := p / ((2 * k + 1 : Nat) : Int)
    fxAtanSeries alternate z2 n (k + 1) (fxMul p z2) (if alternate && k % 2 == 1 then acc - t else acc + t)

/-- ln m for m in [1, 2] as fixed point. -/
def fxLn (m : Int) : Int :=
  let one : Int := (2 ^ fxP : Nat)
  let z := (m - one) * one / (m + one)
  2 * fxAtanSeries false (fxMul z z) 230 0 z 0

/-- ln 2. -/
def fxLn2 : Int := fxLn (2 ^ (fxP + 1) : Nat)

/-- atan(1/n). -/
def fxAtanInv (n : Nat) : Int :=
  let z : Int := (2 ^ fxP : Nat) / (n : Int)
  fxAtanSeries true (fxMul z z) 160 0 z 0

/-- π = 16 atan(1/5) - 4 atan(1/239). -/
def fxPi : Int := 16 * fxAtanInv 5 - 4 * fxAtanInv 239

/-- Square a fixed-point number n times. -/
def fxSquares : Nat → Int → Int
  | 0, x => x
  | n + 1, x => fxSquares n (fxMul x x)

/-- e^y for y in [0, 1). -/
def fxExp (y : Int) : Int :=
  let r := y / (2 ^ 16 : Nat)
  fxSquares 16 (fxSeries (fun t k => fxMul t r / ((k + 1 : Nat) : Int)) 50 0 (2 ^ fxP : Nat) 0)

/-- sin(π t) for t in [0, 1/2]. -/
def fxSinPi (t : Int) : Int :=
  let x := fxMul fxPi t
  let x2 := fxMul x x
  fxSeries (fun u k => -(fxMul u x2) / (((2 * k + 2) * (2 * k + 3) : Nat) : Int)) 90 0 x 0

/-- A magnitude m × 2^e as fixed point (exact for e ≥ -fxP). -/
def fxOf (m : Nat) (e : Int) : Int :=
  if 0 ≤ e + fxP then (m * pow2 (e + fxP) : Nat) else (m / pow2 (-(e + fxP)) : Nat)

/-- 2^a for a finite a (R188): exact at integers; an argument beyond ±20,000 gives a value that rounds alike. -/
def exp2Val (neg : Bool) (mag : Nat) (exp : Int) : FVal :=
  let big := (Nat.log2 mag : Int) + exp > 14
  if mag = 0 then .fin false 1 0
  else if big then .fin false 3 (if neg then -20000 else 20000)
  else
    let a : Int := if neg then -(fxOf mag exp) else fxOf mag exp
    let k := a / (2 ^ fxP : Nat)
    let f := a % (2 ^ fxP : Nat)
    if f = 0 then .fin false 1 k else .fin false (fxExp (fxMul f fxLn2)).toNat (k - fxP)

/-- log2 a for a finite a > 0 (R188): exact at powers of two. -/
def log2Val (mag : Nat) (exp : Int) : FVal :=
  let l := Nat.log2 mag
  let k : Int := l + exp
  if mag = 2 ^ l then .ofInt k
  else
    let m := fxOf mag (-(l : Int))
    let v := k * (2 ^ fxP : Nat) + fxLn m * (2 ^ fxP : Nat) / fxLn2
    .ofScaled v (-(fxP : Int)) false

/-- sin(π t), t = n / 2^k in [0, 1/2], exact at 0 and 1/2. -/
def sinPiVal (neg : Bool) (t : Int) : FVal :=
  if t = 0 then .fin neg 0 0
  else if 2 * t = (2 ^ fxP : Nat) then .fin neg 1 0
  else .fin neg (fxSinPi t).toNat (-(fxP : Int))

/-- |a| mod 2 as fixed point. -/
def mod2 (mag : Nat) (exp : Int) : Int :=
  if exp ≥ 1 then 0 else fxOf mag exp % (2 ^ (fxP + 1) : Nat)

/-- sinPi (R188): an integer argument gives a zero of the argument's sign. -/
def sinVal (neg : Bool) (mag : Nat) (exp : Int) : FVal :=
  let one : Int := (2 ^ fxP : Nat)
  let t := mod2 mag exp
  let (flip, t) := if t ≥ one then (true, t - one) else (false, t)
  if t = 0 then .fin neg 0 0 else sinPiVal (neg != flip) (if 2 * t > one then one - t else t)

/-- cosPi (R188): n + 0.5 gives +0. -/
def cosVal (mag : Nat) (exp : Int) : FVal :=
  let one : Int := (2 ^ fxP : Nat)
  let t := mod2 mag exp
  let t := if t > one then 2 * one - t else t
  let (flip, t) := if 2 * t > one then (true, one - t) else (false, t)
  if 2 * t = one then .fin false 0 0 else sinPiVal flip (one / 2 - t)

/-- tanh a for a finite a (R188); beyond ±64 a value that rounds alike. -/
def tanhVal (neg : Bool) (mag : Nat) (exp : Int) : FVal :=
  let one : Int := (2 ^ fxP : Nat)
  if mag = 0 then .fin neg 0 0
  else if (Nat.log2 mag : Int) + exp ≥ 6 then .fin neg (2 ^ 128 - 1) (-128)
  else
    let y := 2 * fxOf mag exp
    let k := y / fxLn2
    let e := fxExp (y - k * fxLn2) * (2 ^ k.toNat : Nat)
    .fin neg ((e - one) * one / (e + one)).toNat (-(fxP : Int))

/-! Stochastic draws (R58). -/

/-- The state after a draw and the value drawn (R58). -/
def drawFrom (st : BitVec 32) : BitVec 32 × Nat :=
  let z := (st ^^^ (st >>> 16)) * 0x7FEB352D#32
  let z := (z ^^^ (z >>> 15)) * 0x846CA68B#32
  let z := z ^^^ (z >>> 16)
  (st + 0x9E3779B9#32, z.toNat)

/-- seed_gen: the state of lane l for a seed (R58). -/
def seedLane (v : Word) (l : Nat) : BitVec 32 :=
  BitVec.ofNat 32 ((v.setWidth 32).toNat + l * 2 ^ 27) ^^^ (v >>> 32).setWidth 32

/-! Block scaling (R60 to R62). -/

/-- Emax of an element format (R45, R49). -/
def Fmt.emax (f : Fmt) : Int :=
  match f.elem with
  | .f64 => 1023 | .f32 | .bf16 => 127 | .f16 => 15 | .e4m3 => 8 | .e5m2 => 15 | .e3m2 => 4 | .e2m3 => 2 | .e2m1 => 2
  | .i8 => 6 | .i4 => 2
  | _ => 0

/-- An integer encoding of w bits as a signed number. -/
def sextNat (bits w : Nat) : Int := if bits % 2 ^ w < 2 ^ (w - 1) then (bits % 2 ^ w : Nat) else (bits % 2 ^ w : Nat) - 2 ^ w

/-- The value of an unscaled element (R46, R49, R50); a cb4 index is decoded elsewhere (R63). -/
def Fmt.decode (f : Fmt) (bits : Nat) : FVal :=
  match f.elem.float with
  | some ff => ff.decode bits
  | none =>
    match f.elem with
    | .u8 => .ofInt (bits % 256 : Nat)
    | .tern => .ofInt (match bits % 4 with | 1 => 1 | 3 => -1 | _ => 0)
    | g => .ofInt (sextNat bits g.width)

/-- The value of an element with its block's scale byte (R60): E = 0xFF is reserved. -/
def Fmt.decodeScaled (f : Fmt) (bits scale : Nat) : FVal :=
  if !f.scaled then f.decode bits
  else if scale = 0xFF then (if f.elem.float.isSome then .nan false else .fin false 0 0)
  else (f.decode bits).scale ((scale : Int) - 127)

/-- encode of R61: round_rne with saturation, symmetric clamps for the integer formats. The Bool says that the element
saturated or was a NaN, which is counted (R57). -/
def Fmt.encodeElem (f : Fmt) (x : FVal) : Nat × Bool :=
  match f.elem.float with
  | some ff =>
    match x with
    | .nan _ => (ff.nanBits, true)
    | .inf neg => (ff.signBit neg + (if ff == ffE5m2 then ff.infBits else ff.maxBits), ff != ffE5m2)
    | .fin neg mag exp =>
      let (b, fl) := ff.round .rne neg mag exp
      if fl &&& Flags.of ≠ 0 then (ff.signBit neg + ff.maxBits, true) else (b, false)
  | none =>
    let lim : Int := if f.elem == .i4 then 7 else 127
    let (v, fl) := toIntFlags .rne (-lim) lim x
    ((v % 2 ^ f.elem.width).toNat, fl &&& Flags.nv ≠ 0)

/-- |x| ≤ |y| for finite values. -/
def magLe (x y : FVal) : Bool := !y.abs.lt x.abs

/-- The scale byte that the block-maximum rule chooses (R61). -/
def blockScale (f : Fmt) (xs : List FVal) : Nat :=
  let isInf := fun x : FVal => match x with | .inf _ => true | _ => false
  if xs.any FVal.isNan then 0
  else if xs.any isInf then 254
  else
    match xs.foldl (fun m x => if magLe x m then m else x.abs) (.fin false 0 0) with
    | .fin _ mag exp => if mag = 0 then 0 else (max 0 (min 254 ((Nat.log2 mag : Int) + exp - f.emax + 127))).toNat
    | _ => 0

/-- The block-maximum rule (R61): scale byte, elements, and how many elements saturated or were NaN. An unscaled format
is encoded with factor 1 (R98). -/
def encodeBlock (f : Fmt) (xs : List FVal) : Nat × List Nat × Nat :=
  let e := if f.scaled then blockScale f xs else 127
  let r := xs.map fun x => f.encodeElem (x.scale (127 - (e : Int)))
  (e, r.map (·.1), (r.filter (·.2)).length)

/-- A value converted to a decoded format d by round_rne (R62). -/
def decodeInto (d : Fmt) (x : FVal) : Nat :=
  match d.float with
  | some ff => (ff.encode .rne x).1
  | none => 0

/-! The codebook (R63, R64). -/

/-- The index that encodes a bf16 result (R64). -/
def codebookIndex (table : Vector (BitVec 16) 16) (y : FVal) : Nat × Flags :=
  let ent := fun i : Nat => ffBf16.decode (table.toList.getD i 0).toNat
  let idx := List.range 16
  let best := fun (better : FVal → FVal → Bool) =>
    idx.foldl (fun (o : Option Nat) i =>
      if (ent i).isNan then o
      else match o with
        | none => some i
        | some j => if better (ent i) (ent j) then some i else o) none
  match y with
  | .nan _ =>
    match idx.find? (fun i => (ent i).isNan) with
    | some i => (i, 0)
    | none => (0, Flags.nv)
  | .inf neg =>
    match idx.find? (fun i => ent i == .inf neg) with
    | some i => (i, 0)
    | none =>
      ((best (fun a b => if neg then a.lt b else b.lt a)).getD 0, Flags.of ||| Flags.nx)
  | .fin .. =>
    let dist := fun t : FVal => ((FVal.add false y t.neg).1).abs
    match best (fun a b => (dist a).lt (dist b)) with
    | some i => (i, Flags.when (!(ent i).eqv y) Flags.nx)
    | none => (0, Flags.nx)

/-! The order of sums (R65 to R68). -/

/-- The exact sum of a group's products (R65): canonical NaN, an infinity, or a finite value whose zero is -0 only when
every product is -0. -/
def groupSum (ps : List (FVal × Flags)) : FVal :=
  let vs := ps.map (·.1)
  let has := fun n => vs.any (fun v => v == .inf n)
  if vs.any FVal.isNan || (has true && has false) then .nan false
  else if has true then .inf true
  else if has false then .inf false
  else
    let allNeg := vs.all fun v => v.isZero && v.isNeg
    let s := vs.foldl (fun a v => (FVal.add false a v).1) (.fin true 0 0)
    match s with
    | .fin _ 0 e => .fin allNeg 0 e
    | v => v

/-- One group added to an f32 accumulator (R65). -/
def accumulate (acc : BitVec 32) (s : FVal) : BitVec 32 :=
  let (g, _) := ffF32.rne s
  BitVec.ofNat 32 (ffF32.encode .rne (FVal.add false (ffF32.decode acc.toNat) g).1).1

/-- One level of the pairwise tree of R67. -/
def treeLevel (combine : α → α → α) : List (Option α) → List (Option α)
  | a :: b :: rest =>
    (match a, b with
      | some x, some y => some (combine x y)
      | some x, none => some x
      | none, y => y) :: treeLevel combine rest
  | l => l

/-- The pairwise tree of R67 over a list of 2^k positions. -/
def treeReduce (combine : α → α → α) : Nat → List (Option α) → Option α
  | 0, l => l.head?.join
  | k + 1, l => treeReduce combine k (treeLevel combine l)

end Sys2Proof.Machine
end

