-- ==== Sys2Proof/Machine/Visible.lean ====
section
/-! DEFINITION. What a write does when it becomes visible: rollback of the streams whose read signature it hits (R89,
R307), cached alias lines (R99), host lines (R345), the log of region checkpoints (R313, R314); and the format windows
(R95 to R98). -/

namespace Sys2Proof.Machine

/-! Rollback (R306, R307, R309). -/

/-- The lanes of a list of slots. -/
def lanesOf (slots : List Nat) : Mask :=
  slots.foldl (fun m k => m ||| (15#32 <<< (4 * k))) 0#32

/-- Rows `m` of `x` taken from `y`. -/
def mixRows (m : Mask) (x y : VReg) : VReg := byLane fun l => if m.getLsbD l then lane y l else lane x l

/-- In the lanes `rows` one value, in the others another. -/
def rowsVal (rows : Mask) (x y : RegVal) : RegVal :=
  match x, y with
  | .v x, .v y => .v (mixRows rows y x)
  | .m x, .m y => .m ((x &&& rows) ||| (y &&& ~~~rows))
  | x, _ => x

/-- One logged value put back, and what the results in flight would have left in place of it; a vector or mask register and the
generators only in the stream's own lanes (R257, R58). -/
def Gang.putBack (m : Mask) (g : Gang) (e : BelayEntry) : Gang :=
  let g :=
    { g with
      pending := g.pending.map fun p =>
        match e.flight.find? fun x => p.reg == e.reg && x.1 == p.seq with
        | some x => { p with old := rowsVal m x.2 p.old }
        | none => p }
  match e.reg, e.old with
  | .v r, .v x => { g with v := vset g.v r (mixRows m (vget g.v r zeroV) x) }
  | .s r, .s x => { g with s := vset g.s r x }
  | .m r, .m x => { g with m := vset g.m r ((vget g.m r 0 &&& ~~~m) ||| (x &&& m)) }
  | .codebook, .codebook x => { g with codebook := x }
  | .seed, .seed x st => { g with seed := x, st := st }
  | .seed, .draws st => { g with st := vtab 32 fun l => if m.getLsbD l then vget st l 0 else vget g.st l 0 }
  | _, _ => g

/-- What a logged change makes of sr_fflags: flags ORed in, or the register written (R56). -/
def changeFlags (set : Bool) (x before : Word) : Word := if set then x else before ||| x

/-- Logged changes of sr_fflags taken out, oldest first: what the other streams have raised stays (R57, R184). The list holds the
entries that stay, newest first. -/
def undoFlags (gone : BelayEntry → Bool) : List BelayEntry → Option Word → List BelayEntry → Option Word × List BelayEntry
  | [], cur, acc => (cur, acc)
  | e :: rest, cur, acc =>
    match e.old with
    | .flags before set x =>
      let b := cur.getD before
      if gone e then undoFlags gone rest (some b) acc
      else undoFlags gone rest (some (changeFlags set x b)) ({ e with old := .flags b set x } :: acc)
    | _ => undoFlags gone rest cur (if gone e then acc else e :: acc)

/-- An instruction of a stream commits its changes of sr_fflags: the older entries of other streams then stand on them. The entries
are newest first; `ops` are the committed changes passed so far. -/
def commitFlags (mine : BelayEntry → Bool) : List BelayEntry → List (Bool × Word) → List BelayEntry
  | [], _ => []
  | e :: rest, ops =>
    match e.old with
    | .flags before set x =>
      if mine e then commitFlags mine rest ((set, x) :: ops)
      else { e with old := .flags (ops.foldl (fun b o => changeFlags o.1 o.2 b) before) set x } :: commitFlags mine rest ops
    | _ => if mine e then commitFlags mine rest ops else e :: commitFlags mine rest ops

/-- The generation tag of a register's allocation (R161): the base block, the extended block, the scalar file, whose tag a result to a
mask register carries (log 54). -/
def Gang.tagOf (g : Gang) : RegRef → BitVec 8
  | .v r => if r < 32 then g.tagBase else g.tagExt
  | _ => g.tagScalar

/-- A result in flight whose tag no longer matches: it will be dropped (R161). -/
def Gang.stale (g : Gang) (p : Pending) : Bool := p.tag != g.tagOf p.reg

/-- Tags advanced: the results in flight that are `gone` become stale, the others keep up; a stale one whose tag would be used again has
been dropped by then (R161). -/
def Gang.advanceTags (g : Gang) (gone : Pending → Bool) : Gang :=
  { g with
    tagBase := g.tagBase + 1, tagExt := g.tagExt + 1, tagScalar := g.tagScalar + 1
    pending := (g.pending.filter fun p => p.tag != g.tagOf p.reg + 1).map fun p =>
      if g.stale p || gone p then p else { p with tag := p.tag + 1 } }

/-- What a rollback discards of a stream in one home gang: its lanes there, and its instructions from a number on. -/
structure Discard where
  sid : Nat
  rows : Mask
  first : Nat
  deriving DecidableEq, Repr

/-- An instruction of one of some streams is discarded. -/
def discarded (ds : List Discard) (sids : List Nat) (seq : Nat) : Bool := ds.any fun d => sids.contains d.sid && decide (d.first ≤ seq)

/-- The gang's part of the rollback of some of its streams: logged values back, youngest first; uncommitted stores gone, and with them the
writes that other streams might have read; results in flight of what is discarded are stale, those of committed instructions are not
(R307, R161; log 54). -/
def Gang.rollback (ds : List Discard) (clear : Bool) (g : Gang) : Gang :=
  let gone := fun (e : BelayEntry) => ds.any (·.sid == e.sid)
  let g := (g.belay.filter gone).foldl (fun g e => Gang.putBack (((ds.find? (·.sid == e.sid)).map (·.rows)).getD 0) g e) g
  let (flags, belay) := undoFlags gone g.belay.reverse none []
  let g := g.advanceTags fun p => discarded ds p.sids p.seq
  { g with
    fflags := flags.getD g.fflags, belay := belay
    races := g.races.filter fun q => !discarded ds q.sids q.seq
    sb := g.sb.filter fun e => !ds.any (·.sid == e.sid) || e.committed
    sig := if clear then [] else g.sig }

/-- An empty spin detector (R282). -/
def Spin.empty : Spin :=
  { branch := none, target := 0, count := 0, instrs := 0, ok := true, lines := [], runLines := [], loads := [], prev := [] }

/-- The first core of a stream's home gangs. -/
def State.firstCore (s : State) (t : Stream) : Option Nat := (t.homes.head?.bind (s.gang? t.launch)).bind Gang.core

/-- A stream's own part of its rollback (R307), with the counts of R309. -/
def State.rewind (s : State) (t : Stream) : State :=
  match t.unc with
  | [] => s
  | u :: _ =>
    let n := if t.rbPc == u.pc then t.rbCount + 1 else 1
    let careful := decide (8 ≤ n)
    let core := s.firstCore t
    let s := s.countCore core 2 (s.pasidOf t.launch) 1
    let s := if careful then s.countCore core 3 (s.pasidOf t.launch) 1 else s
    s.updStream t.sid fun t =>
      { t with
        pc := u.pc, unc := [], loading := false, wait := .none, answers := [], walkFails := [], spin := Spin.empty, rbPc := u.pc
        rbCount := if careful then 0 else n, careful := if careful then 32 else t.careful }

/-- The stale results of a gang whose tag the next advance would use again are dropped first, and counted (R161). -/
def State.countReused (s : State) (g : Gang) : State :=
  let lost := (g.pending.filter fun p => p.tag == g.tagOf p.reg + 1).length
  if lost = 0 then s else s.countCore g.core 4 (s.pasidOf g.launch) lost

/-- A home gang's part of the rollback of streams: a stale result whose tag comes round again is dropped and counted (R161), and the
read signature is cleared unless a stream that does not roll back has something uncommitted (R89, R90). -/
def State.rollbackHome (s : State) (l k : Nat) (ts : List Stream) : State :=
  match s.gang? l k with
  | none => s
  | some g =>
    let s := s.countReused g
    let clear := (s.streamsOf l k).all fun u => u.unc.isEmpty || ts.any fun t => t.sid == u.sid
    s.updGang l k (Gang.rollback ((ts.filter (·.has k)).map fun t =>
      { sid := t.sid, rows := lanesOf (t.slotsOf k), first := (t.unc.head?.map (·.seq)).getD s.seq }) clear)

/-- Streams of a launch back to their belay points, together (R307). Those with nothing uncommitted stay. -/
def State.rollbackStreams (s : State) (ts : List Stream) : State :=
  let ts := ts.filter fun t => !t.unc.isEmpty
  let homes := (ts.flatMap fun t => t.homes.map fun k => (t.launch, k)).eraseDups
  let s := homes.foldl (fun s h => s.rollbackHome h.1 h.2 (ts.filter (·.launch == h.1))) s
  ts.foldl State.rewind s

/-- One stream back to its belay point. -/
def State.rollbackStream (s : State) (t : Stream) : State := s.rollbackStreams [t]

/-- Every stream of a gang that has an uncommitted instruction rolls back (R307). -/
def State.rollbackGang (s : State) (l k : Nat) : State := s.rollbackStreams (s.streamsOf l k)

/-- Who writes: launch, gang and stream. -/
abbrev Writer := Nat × Nat × Nat

/-- A gang's signature is tested by a store of the writer: its own only if another stream of it has an uncommitted load (R89, R90). -/
def State.testsOf (s : State) (writer : Option Writer) (g : Gang) : Bool :=
  match writer with
  | none => true
  | some (l, _, sid) =>
    !(g.launch == l && (s.streamsOf l g.idx).any (·.sid == sid)) ||
      (s.streamsOf l g.idx).any fun t => t.sid != sid && (t.loading || t.unc.any (·.load))

/-- Test the read signatures against lines or blocks of memory (R89, R90). -/
def State.testSignatures (s : State) (writer : Option Writer) (hit : Gang → LinePlace → Bool) : State :=
  (s.gangs.filter fun g => g.sig.any (hit g) && s.testsOf writer g).foldl (fun s g => s.rollbackGang g.launch g.idx) s

/-- The signatures tested for the lines that caches have dropped (R89). -/
def State.testDropped (s : State) : State :=
  let gone := s.dropped
  { s with dropped := [] }.testSignatures none fun g p => gone.any fun d =>
    (match d.core with
      | some c => g.core == some c
      | none => (g.core.map dieOf) == some d.die) &&
    (match d.place, p with
      | .mem pa _, .mem pb _ => pa == pb
      | .scratch a, .scratch b => a == b
      | _, _ => false)

/-! Format windows (R95 to R98). -/

/-- An enabled window's geometry: bases, element width in bits encoded and bytes decoded, formats, blocks. -/
structure Win where
  n : Nat
  enc : Nat
  scale : Nat
  base : Nat
  bits : Nat
  bytes : Nat
  efmt : Fmt
  dfmt : Fmt
  blocks : Nat
  deriving DecidableEq, Repr

/-- The geometry that a window's registers name, its codes permitting (R95, R96). -/
def winOf (n : Nat) (w : FormatWindow) : Option Win :=
  let dc := bits w.ctl 44 40
  let ec := bits w.ctl 36 32
  let okE := (4 ≤ ec && ec ≤ 8) || ec == 0x0C || ec == 0x0E || (0x11 ≤ ec && ec ≤ 0x17)
  if 1 ≤ dc && dc ≤ 3 && okE && bits w.ctl 31 0 != 0 then
    match Fmt.ofCode ec, Fmt.ofCode dc with
    | some e, some d =>
      some { n := n, enc := bits w.enc 55 6 * 64, scale := bits w.scale 55 6 * 64, base := bits w.aliasBase 55 16 * 65536
             bits := e.width, bytes := d.width / 8, efmt := e, dfmt := d, blocks := bits w.ctl 31 0 }
    | _, _ => none
  else none

/-- The enabled windows. -/
def State.windows (s : State) : List Win :=
  (List.range 16).filterMap fun n =>
    let w := vget s.io.fw n FormatWindow.zero
    if w.ctl.getLsbD 63 then winOf n w else none

/-- Bytes of a decoded block. -/
def Win.blockBytes (w : Win) : Nat := 128 * w.bytes

/-- The window and block of an alias address (R97). -/
def State.aliasAt (s : State) (pa : Nat) : Option (Win × Nat) :=
  (s.windows.find? fun w => decide (w.base ≤ pa) && decide (pa < w.base + w.blockBytes * w.blocks)).map
    fun w => (w, (pa - w.base) / w.blockBytes)

/-- The scale byte of a block; 127 (factor 1) for an unscaled format. -/
def Win.scaleOf (w : Win) (m : Memory) (k : Nat) : Nat := if w.efmt.scaled then (m.get (w.scale + k)).toNat else 127

/-- The decoded image of a block (R62, R97). -/
def Win.decodeBlock (w : Win) (m : Memory) (k : Nat) : List Byte :=
  let bits := m.nat (w.enc + 16 * w.bits * k) (16 * w.bits)
  (List.range 128).flatMap fun i =>
    leBytes w.bytes (decodeInto w.dfmt (w.efmt.decodeScaled (field bits (w.bits * i + w.bits - 1) (w.bits * i)) (w.scaleOf m k)))

/-- The alias lines of the blocks whose encoded bytes or scale the address belongs to (R99). -/
def State.aliasOf (s : State) (pa : Nat) : List Nat :=
  s.windows.flatMap fun w =>
    let blocks :=
      (if decide (w.enc ≤ pa) && decide (pa < w.enc + 16 * w.bits * w.blocks) then [(pa - w.enc) / (16 * w.bits)] else []) ++
      (if w.efmt.scaled && decide (w.scale ≤ pa) && decide (pa < w.scale + w.blocks) then [pa - w.scale] else [])
    blocks.flatMap fun k => (List.range (w.blockBytes / 64)).map fun i => w.base + w.blockBytes * k + 64 * i

/-! Bytes into memory. -/

/-- Cells of one line written at their visibility point (R87): the writer takes the line, cached alias lines of changed blocks go,
watchers look again, signatures are tested. `whole` says that the write replaces the line, which clears an uncorrectable error
(R327). -/
def State.storeLine (s : State) (writer : Option Writer) (by' : Option Filler) (whole : Bool) (cells : List Host.Cell) : State :=
  match cells with
  | [] => s
  | (a, _) :: _ =>
    let line := lineOf a
    let s := s.ownLine by' (writer.bind fun w => (s.gang? w.1 w.2.1).bind Gang.core) line
    let stale := cells.flatMap fun (c : Host.Cell) => s.aliasOf c.1
    let s :=
      { s with
        mem := cells.foldl (fun (m : Memory) (c : Host.Cell) => m.set c.1 c.2) s.mem
        badLines := if whole then s.badLines.filter (· != line) else s.badLines
        aliasLines := s.aliasLines.filter fun x => !stale.contains x.1 }
    let s := if stale.isEmpty then s else s.invalidateLines fun pa => stale.contains pa
    let hit := fun (p : LinePlace) => match p with
      | .mem pa _ => pa == line || stale.contains pa
      | .scratch _ => false
    (s.touchWatch none fun _ p => hit p).testSignatures writer fun _ p => hit p

/-- A writer takes a line without changing it (R268): every other copy goes, signatures are tested. -/
def State.takeLine (s : State) (writer : Option Writer) (by' : Filler) (pa : Nat) : State :=
  let line := lineOf pa
  (s.ownLine (some by') (writer.bind fun w => (s.gang? w.1 w.2.1).bind Gang.core) line).testSignatures writer fun _ p => p.isLine line

/-- The cells of bytes from an address up. -/
def cellsOf : Nat → List Byte → List Host.Cell
  | _, [] => []
  | a, b :: bs => (a, b) :: cellsOf (a + 1) bs

/-- Cells grouped by line, in order of first appearance. -/
def byLine : List Host.Cell → List (List Host.Cell)
  | [] => []
  | c :: cs =>
    let rest := byLine cs
    match rest.find? (fun g => match g with | x :: _ => lineOf x.1 == lineOf c.1 | [] => false) with
    | some g => (c :: g) :: rest.filter (· != g)
    | none => [c] :: rest

/-- Bytes stored without region logging: hardware's own writes (log entries, page-table A and D bits, mailbox results). -/
def State.storeRaw (s : State) (a : Nat) (bytes : List Byte) : State :=
  (byLine (cellsOf a bytes)).foldl (fun s g => s.storeLine none none false g) s

/-! Region checkpoints (R311 to R314). -/

/-- The VA in a region that an address is reached by, through the translations the region holds. -/
def Region.vaOf (r : Region) (pa : Nat) : Option Nat :=
  (r.pages.findSome? fun p =>
    let va := p.1 * 65536 + pa % 65536
    if p.2 == pa / 65536 && decide (r.base ≤ va) && decide (va < r.base + r.len) then some va else none)

/-- The PA of a VA by the translations a region holds. -/
def Region.paOf (r : Region) (va : Nat) : Option Nat :=
  (r.pages.find? (·.1 == va / 65536)).map fun p => p.2 * 65536 + va % 65536

/-- The code of a region's state (R311). -/
def RegionState.code : RegionState → Nat
  | .armed => 1 | .full => 2 | .rolling => 3 | _ => 0

/-- The 64-byte header of a region's log (R312). -/
def Region.header (r : Region) : List Byte :=
  leBytes 8 r.state.code ++ leBytes 8 r.count ++ leBytes 8 r.epoch ++ leBytes 8 r.cap ++ leBytes 32 0

/-- Bytes written to a region's log by VA. -/
def State.writeLog (s : State) (r : Region) (va : Nat) (bytes : List Byte) : State :=
  (byLine (cellsOf va bytes)).foldl (fun s g =>
    s.storeLine none none false (g.filterMap fun c => (r.paOf c.1).map fun pa => (pa, c.2))) s

/-- Region i of a launch. -/
def Launch.region (x : Launch) (i : Nat) : Region := vget x.regions i Region.unmarked

/-- The region table dropped (R311); a rollback under way goes on (R322). -/
def Launch.dropRegions (x : Launch) : Vector Region 16 :=
  vtab 16 fun i => if (x.region i).state = .rolling then x.region i else Region.unmarked

/-- A region's table entry replaced and its header written (R312). -/
def State.setRegion (s : State) (l i : Nat) (r : Region) : State :=
  (s.updLaunch l fun x => { x with regions := vset x.regions i r }).writeLog r r.log r.header

/-- The regions that hold a line: launch, number, region, VA. -/
def State.regionsOf (s : State) (pa : Nat) : List (Nat × Nat × Region × Nat) :=
  s.launches.flatMap fun x => (List.range 16).filterMap fun i =>
    let r := x.region i
    match r.state with
    | .armed | .full | .rolling => (r.vaOf (lineOf pa)).map fun va => (x.id, i, r, va)
    | _ => none

/-- The guest owns a line of a region's log among those of some VAs (R108). -/
def State.logOwned (s : State) (r : Region) (vas : List Nat) : Bool :=
  vas.any fun va => (r.paOf va).any fun pa => s.guest.owned.contains (lineOf pa)

/-- A region holds up a write to the line: it rolls (R317), or the guest owns a line of the log that takes the entry (R108, R313). -/
def State.lineHeld (s : State) (pa : Nat) : Bool :=
  (s.regionsOf pa).any fun x =>
    let r := x.2.2.1
    r.state == .rolling || !r.logged.contains x.2.2.2 && s.logOwned r [r.log, r.log + 64 + 128 * r.count, r.log + 128 + 128 * r.count]

/-- A write to the line has to wait: a region holds it up, or the guest owns it (R108, R317). -/
def State.lineBusy (s : State) (pa : Nat) : Bool := s.guest.owned.contains (lineOf pa) || s.lineHeld pa

/-- What the log says to a write of one line: logged as needed, or refused with the region and the VA (R313, R314). -/
inductive Logged where
  | ok (s : State)
  | refused (s : State) (region va : Nat)

/-- One region's answer to a write of a line. -/
def State.logIn (s : State) (l i : Nat) (r : Region) (va pa : Nat) : Logged :=
  if r.logged.contains va then .ok s
  else if r.state == .full || decide (r.cap ≤ r.count) then .refused (s.setRegion l i { r with state := .full }) i va
  else
    let entry := s.mem.read (lineOf pa) 64 ++ leBytes 8 va ++ leBytes 8 r.epoch ++ leBytes 48 0
    let s := s.writeLog r (r.log + 64 + 128 * r.count) entry
    .ok (s.setRegion l i { r with count := r.count + 1, logged := va :: r.logged })

/-- The log's answer to a write of the line of `pa`. -/
def State.logLine (s : State) (pa : Nat) : Logged :=
  (s.regionsOf pa).foldl (fun acc x => match acc with
    | .ok s => s.logIn x.1 x.2.1 x.2.2.1 x.2.2.2 pa
    | r => r) (.ok s)

/-- The log's answer to writes of several lines, checked together (R314). -/
def State.logLines (s : State) (pas : List Nat) : Logged :=
  pas.foldl (fun acc pa => match acc with
    | .ok s => s.logLine pa
    | r => r) (.ok s)

/-- An engine's or the host's write of bytes, one write per line: logged, or refused whole at the first refused line. -/
def State.storeLogged (s : State) (by' : Option Filler) (a : Nat) (bytes : List Byte) : Logged :=
  (byLine (cellsOf a bytes)).foldl (fun acc g => match acc, g with
    | .ok s, (pa, _) :: _ =>
      match s.logLine pa with
      | .ok s => .ok (s.storeLine none by' (g.length == 64) g)
      | r => r
    | r, _ => r) (.ok s)

/-- A write by hardware for a PASID, under the logs of regions: one that a full region refuses is not performed, and counted (R313, R314;
log 55). -/
def State.storeHw (s : State) (pasid a : Nat) (bytes : List Byte) : State :=
  match s.storeLogged none a bytes with
  | .ok s => s
  | .refused s _ _ => s.countHub pasid

/-! Alias stores (R98). -/

/-- The home stack of a window (R71, R96). -/
def Win.stack (w : Win) : Nat := field w.enc 38 36

/-- Decode events counted: an enabled block read with a reserved scale (R60). -/
def State.countDecode (s : State) (w : Win) (k pasid : Nat) : State :=
  if w.efmt.scaled && w.scaleOf s.mem k == 0xFF then s.count (384 + w.stack) 0x21 pasid 1 else s

/-- An alias line read into a die's L2: where no cache holds it, the home base die decodes its block (R97), which is counted at a reserved
scale (R60; log 44). -/
def State.fillAlias (s : State) (die pasid pa : Nat) : State :=
  let line := lineOf pa
  let s := s.readL2 die pasid line
  if s.aliasLines.any (·.1 == line) then s
  else match s.aliasAt line with
    | none => s
    | some (w, k) =>
      let s := s.countDecode w k pasid
      { s with aliasLines := (line, ((w.decodeBlock s.mem k).drop ((line - w.base) % w.blockBytes)).take 64) :: s.aliasLines }

/-- A line that a load or a prefetch of a core brings into its die's L2 and its L1 (R84, R97, R131). -/
def State.fillLine (s : State) (core pasid pa : Nat) : State :=
  (if isAliasPa pa then s.fillAlias (dieOf core) pasid pa else s).readL1 core pasid (lineOf pa)

/-- The bytes of alias addresses as a load receives them: a cached line, or the block decoded (R97). -/
def State.aliasRead (s : State) (pa : Nat) : Byte :=
  match s.aliasLines.find? (·.1 == lineOf pa) with
  | some x => x.2.getD (pa % 64) 0
  | none =>
    match s.aliasAt pa with
    | some (w, k) => (w.decodeBlock s.mem k).getD ((pa - w.base) % w.blockBytes) 0
    | none => 0

/-- The lines of the encoded elements and the scale byte of a block (R95). -/
def Win.linesOf (w : Win) (k : Nat) : List Nat :=
  ((List.range w.bits).map (fun i => lineOf (w.enc + 16 * w.bits * k + 16 * i)) ++
    (if w.efmt.scaled then [lineOf (w.scale + k)] else [])).eraseDups

/-- A line behind an alias line is owned by the guest: a decode or an encode waits for its recall (R97, R98, R108). -/
def State.blockOwned (s : State) (pa : Nat) : Bool :=
  (s.aliasAt pa).any fun x => (x.1.linesOf x.2).any fun a => s.guest.owned.contains a

/-- A line behind an alias line is held: owned by the guest, or in a rolling region (R108, R317). -/
def State.blockBusy (s : State) (pa : Nat) : Bool :=
  (s.aliasAt pa).any fun x => (x.1.linesOf x.2).any s.lineBusy

/-- Merge the bytes an instruction stores to one block and write the block re-encoded (R98). -/
def State.aliasStore (s : State) (writer : Option Writer) (pasid : Nat) (w : Win) (k : Nat) (cells : List Host.Cell) :
    Logged :=
  let off := w.base + w.blockBytes * k
  let s := s.countDecode w k pasid
  let old := w.decodeBlock s.mem k
  let new := (List.range w.blockBytes).map fun i =>
    (cells.foldl (fun (b : Byte) c => if c.1 == off + i then c.2 else b) (old.getD i 0))
  let vals := (List.range 128).map fun i => w.dfmt.decode (leNat ((new.drop (w.bytes * i)).take w.bytes))
  let (e, elems, sat) := encodeBlock w.efmt vals
  let encBytes := leBytes (16 * w.bits) (elems.foldr (fun x acc => x % 2 ^ w.bits + 2 ^ w.bits * acc) 0)
  let encPa := w.enc + 16 * w.bits * k
  let lines := (byLine (cellsOf encPa encBytes)).filterMap (fun g => g.head?.map (·.1)) ++
    (if w.efmt.scaled then [w.scale + k] else [])
  let s := if sat = 0 then s else s.count (384 + w.stack) 0x20 pasid sat
  match s.logLines lines with
  | .ok s =>
    let s := (byLine (cellsOf encPa encBytes)).foldl (fun s g => s.storeLine writer none false g) s
    .ok (if w.efmt.scaled then s.storeLine writer none false [(w.scale + k, BitVec.ofNat 8 e)] else s)
  | r => r

end Sys2Proof.Machine
end

