-- ==== Sys2Proof/Machine/Translate.lean ====
section
/-! DEFINITION. Physical addresses (R70 to R73), page tables and walks (R74 to R79, R378), memory kinds (R80), and the
PASID context (R329). -/

namespace Sys2Proof.Machine

/-- The memory layout in force: the pinned carve P in GiB per stack (R72), and in the reduced service the lower stack of the
service pair (R348). -/
structure MemMap where
  carve : Nat
  pair : Option Nat
  deriving DecidableEq, Repr

/-- The layout in force. -/
def State.memMap (s : State) : MemMap :=
  { carve := bits s.io.memcarve 6 0, pair := if s.fw.reduced then some s.fw.servicePair else none }

/-- The stacks that are in service. -/
def MemMap.hasStack (M : MemMap) (st : Nat) : Bool :=
  match M.pair with
  | none => decide (st < 8)
  | some p => st == p || st == p + 1

/-- What a physical address is (R70). -/
inductive PaRange where
  | dram | pinned (stack : Nat) | host | aliases | io | remote | unassigned
  deriving DecidableEq, Repr

/-- The range a PA lies in (R70, R71, R348). -/
def paRange (M : MemMap) (pa : Nat) : PaRange :=
  if pa / 2 ^ 55 % 2 = 1 then .remote
  else if pa < (if M.pair.isSome then 2 else 8) * (64 - M.carve) * 2 ^ 30 then .dram
  else if 0x80_0000_0000 ≤ pa ∧ pa < 0x100_0000_0000 then
    (if field pa 35 0 < M.carve * 2 ^ 30 && M.hasStack (field pa 38 36) then .pinned (field pa 38 36) else .unassigned)
  else if pa / 2 ^ 44 = 1 then .host
  else if pa / 2 ^ 44 = 2 then .aliases
  else if pa / 2 ^ 32 = 0x3000 then .io
  else .unassigned

/-- The home stack and stack-internal address of a DRAM address (R71, R348). -/
def dramHome (M : MemMap) (pa : Nat) : Option (Nat × Nat) :=
  match paRange M pa with
  | .dram => some (match M.pair with
    | none => (field pa 14 12, pa / 2 ^ 15 * 2 ^ 12 + field pa 11 0)
    | some p => (p + field pa 12 12, pa / 2 ^ 13 * 2 ^ 12 + field pa 11 0))
  | .pinned s => some (s, (64 - M.carve) * 2 ^ 30 + field pa 35 0)
  | _ => none

/-- The KIND that may map a range, with the SP bit it takes (R70, R76). -/
def PaRange.kind : PaRange → Option (Nat × Bool)
  | .dram => some (0, false)
  | .pinned _ => some (0, true)
  | .host => some (1, false)
  | .remote => some (2, false)
  | .io => some (3, false)
  | .aliases => some (4, false)
  | .unassigned => none

/-- A VA is canonical when bits 63:55 all equal bit 54 (R74). -/
def canonical (a : Word) : Bool := bits a 63 54 == 0 || bits a 63 54 == 1023

/-- ACC of a fault record (R323). -/
def Access.code : Access → Nat
  | .load => 0 | .store => 1 | .atomic => 2 | .zero => 1 | .fetch => 3

/-- The access writes. -/
def Access.writes : Access → Bool
  | .store | .atomic | .zero => true
  | _ => false

/-- A translated address: its PA and kind, the bits of its leaf, where the leaf lies and how many pages it maps. -/
structure Xlat where
  pa : Nat
  kind : Nat
  w : Bool
  x : Bool
  leafPa : Nat
  leaf : Word
  vpage : Nat
  pages : Nat
  base : Nat
  deriving DecidableEq, Repr

/-- PFN × 2^16 of an entry (R75). -/
def pteAddr (e : Word) : Nat := bits e 55 16 * 65536

/-- A table entry that breaks R75: bits other than V, LEAF and PFN. -/
def tableBad (e : Word) : Bool := bits e 63 56 != 0 || bits e 15 2 != 0

/-- A leaf that breaks R75 or R76's check. -/
def leafBad (M : MemMap) (e : Word) (pa : Nat) : Bool :=
  bits e 63 56 != 0 || bits e 15 11 != 0 || decide (5 ≤ bits e 8 6) ||
    (paRange M pa).kind != some (bits e 8 6, e.getLsbD 4)

/-- The level-2 and level-1 index by which a walk cache tags its entries: VA bits 54:29 and 54:42. -/
def walkIndex (level va : Nat) : Nat := if level = 1 then field va 54 42 else field va 54 29

/-- The table entry of a level that a die's walk cache holds for a VA (R81). -/
def State.walkHit (s : State) (die : Option Nat) (level pasid va : Nat) : Option Word :=
  (s.walkCache.find? fun e => some e.die == die && e.level == level && e.pasid == pasid && e.index == walkIndex level va).map
    (·.entry)

/-- An entry as a walk reads it: from the walk cache, else by a coherent load, which waits for a line that the guest owns (R76). -/
def State.walkRead (s : State) (die : Option Nat) (level pasid va pa : Nat) : Option Word :=
  match s.walkHit die level pasid va with
  | some e => some e
  | none => if s.guest.owned.contains (pa / 64 * 64) then none else some (s.mem.word pa)

/-- The 64 KiB level-3 entries of a 2 MiB group agree with the hint CH (R79). -/
def State.hintHolds (s : State) (table i3 : Nat) : Bool :=
  let g := i3 / 32 * 32
  let e0 := s.mem.word (table + 8 * g)
  bits e0 20 16 == 0 && (List.range 32).all fun i =>
    let e := s.mem.word (table + 8 * (g + i))
    bits e 15 0 == bits e0 15 0 && bits e 63 56 == bits e0 63 56 && bits e 55 16 == bits e0 55 16 + i

/-- The guest owns one of the four lines of a 2 MiB group's entries, which a walk through a hint reads (R76, R79). -/
def State.hintHeld (s : State) (table i3 : Nat) : Bool :=
  (List.range 4).any fun i => s.guest.owned.contains ((table + 8 * (i3 / 32 * 32)) / 64 * 64 + 64 * i)

/-- The walk of R76 from a root table, with a die's walk cache (R81). -/
def State.walk (s : State) (die : Option Nat) (pasid root va : Nat) : Except XFail Xlat :=
  let M := s.memMap
  match s.walkRead die 1 pasid va (root + 8 * field va 54 42) with
  | none => .error .wait
  | some e1 =>
    if !e1.getLsbD 0 then .error (.fault 1)
    else if e1.getLsbD 1 || tableBad e1 then .error (.fault 2)
    else
      let a2 := pteAddr e1 + 8 * field va 41 29
      match s.walkRead die 2 pasid va a2 with
      | none => .error .wait
      | some e2 =>
        if !e2.getLsbD 0 then .error (.fault 1)
        else if e2.getLsbD 1 then
          let pa := pteAddr e2 + field va 28 0
          if bits e2 28 16 != 0 || e2.getLsbD 5 || leafBad M e2 pa then .error (.fault 2)
          else .ok { pa := pa, kind := bits e2 8 6, w := e2.getLsbD 2, x := e2.getLsbD 3, leafPa := a2, leaf := e2
                     vpage := va / 65536 / 8192 * 8192, pages := 8192, base := pteAddr e2 }
        else if tableBad e2 then .error (.fault 2)
        else
          let i3 := field va 28 16
          let a3 := pteAddr e2 + 8 * i3
          if s.guest.owned.contains (a3 / 64 * 64) then .error .wait
          else
            let e3 := s.mem.word a3
            if !e3.getLsbD 0 then .error (.fault 1)
            else
              let pa := pteAddr e3 + field va 15 0
              if !e3.getLsbD 1 || leafBad M e3 pa then .error (.fault 2)
              else if e3.getLsbD 5 && s.hintHeld (pteAddr e2) i3 then .error .wait
              else
                let big := e3.getLsbD 5 && s.hintHolds (pteAddr e2) i3
                .ok { pa := pa, kind := bits e3 8 6, w := e3.getLsbD 2, x := e3.getLsbD 3, leafPa := a3, leaf := e3
                      vpage := if big then va / 65536 / 32 * 32 else va / 65536, pages := if big then 32 else 1
                      base := if big then pteAddr e3 / 2 ^ 21 * 2 ^ 21 else pteAddr e3 }

/-- An entry put at the head of a list that holds at most n entries of its group; the oldest goes (log 40). -/
def putCapped (n : Nat) (group same : α → Bool) (a : α) (l : List α) : List α :=
  let rest := l.filter fun x => !same x
  let excess := (rest.filter group).length + 1 - n
  a :: ((rest.reverse.foldl (fun (acc : Nat × List α) x =>
    if group x && decide (0 < acc.1) then (acc.1 - 1, acc.2) else (acc.1, x :: acc.2)) (excess, [])).2)

/-- The table entries that a walk read in memory put into the die's walk cache: 256 of level 1, 1,024 of level 2 (R81). -/
def State.cacheWalk (s : State) (die : Option Nat) (pasid root va : Nat) : State :=
  match die with
  | none => s
  | some d =>
    let put := fun (s : State) (level n : Nat) (e : Word) =>
      if (s.walkHit die level pasid va).isSome then s
      else
        let w : WalkEntry := { die := d, level := level, pasid := pasid, index := walkIndex level va, entry := e }
        { s with walkCache := putCapped n (fun x => x.die == d && x.level == level) (fun x => decide (x = w)) w s.walkCache }
    match s.walkRead die 1 pasid va (root + 8 * field va 54 42) with
    | none => s
    | some e1 =>
      match s.walkRead die 2 pasid va (pteAddr e1 + 8 * field va 41 29) with
      | none => s
      | some e2 =>
        let s := put s 1 256 e1
        if e2.getLsbD 1 then s else put s 2 1024 e2

/-- A leaf that a strict partition may not use: one that maps no pinned range of its stacks (R368). -/
def State.strictBad (s : State) (part pa : Nat) : Bool :=
  s.isStrict part && match paRange s.memMap pa with
    | .pinned st => !(s.partcfg part).getLsbD (48 + st)
    | _ => true

/-- The walk under a PASID's context (R378); a leaf outside a strict partition's stacks is MALFORMED (R368). -/
def State.walkFor (s : State) (die : Option Nat) (pasid va : Nat) : Except XFail Xlat :=
  let c := s.context pasid
  if !c.valid then .error .context
  else match s.walk die pasid c.root va with
    | .ok x => if s.strictBad c.part x.pa then .error (.fault 2) else .ok x
    | e => e

/-- The uses a kind permits (R80), and those of R76's permission bits. -/
def permits (acc : Access) (kind : Nat) (w x : Bool) : Bool :=
  match acc with
  | .load => true
  | .store => w
  | .atomic => w && kind != 3 && kind != 4
  | .zero => w && kind != 3
  | .fetch => x && decide (kind < 2)

/-- The cluster of a core: eight cores each (R9). -/
def clusterOf (core : Nat) : Nat := core / 8

/-- An entry of a translation structure covers a page; a write needs one installed with D (R78). -/
def TlbEntry.covers (e : TlbEntry) (owner pasid va : Nat) (acc : Access) : Bool :=
  e.core == owner && e.pasid == pasid && decide (e.vpage ≤ va / 65536) && decide (va / 65536 < e.vpage + e.pages) &&
    (!acc.writes || e.dirty)

/-- The entry that a core finds for a page: in its L1 TLB, else in its cluster's TLB (R15, R81). -/
def State.tlbHit (s : State) (core : Nat) (pasid va : Nat) (acc : Access) : Option TlbEntry :=
  match s.tlb.find? fun e => e.covers core pasid va acc with
  | some e => some e
  | none => s.ctlb.find? fun e => e.covers (clusterOf core) pasid va acc

/-- The translation that an entry gives an address. -/
def TlbEntry.xlat (e : TlbEntry) (va : Nat) : Xlat :=
  { pa := e.pa + (va - e.vpage * 65536), kind := e.kind, w := e.w, x := e.x, leafPa := 0, leaf := 0x600#64
    vpage := e.vpage, pages := e.pages, base := e.pa }

/-- The failed walk of the issuing stream's instruction for a page and access (R77, R82). -/
def State.walkFail (s : State) (va : Nat) (acc : Access) : Option XFail :=
  ((s.cur.bind s.stream?).bind fun t => t.walkFails.find? fun f => f.1 == va / 65536 && f.2.1 == acc).map (·.2.2)

/-- A miss on a page of a PASID is outstanding at a die (R82). -/
def State.missing (s : State) (die pasid page : Nat) : Bool := s.misses.any fun m => m.die == die && m.pasid == pasid && m.page == page

/-- Translate one address for an access. A core uses its L1 TLB and its cluster's TLB, and on a miss waits for a walker, whose
failure it takes (R81, R82); without a core, the tables are walked now. A failed check of permission or kind comes after every
other cause. -/
def State.translate (s : State) (core : Option Nat) (pasid : Nat) (va : Nat) (acc : Access) : Except XFail Xlat :=
  match core with
  | some c =>
    match s.tlbHit c pasid va acc with
    | some e => if permits acc e.kind e.w e.x then .ok (e.xlat va) else .error .denied
    | none => .error ((s.walkFail va acc).getD .wait)
  | none =>
    match s.walkFor none pasid va with
    | .error e => .error e
    | .ok x => if permits acc x.kind x.w x.x then .ok x else .error .denied

/-- The atomic OR of A, and of D for a write, into the leaf (R78). -/
def State.markLeaf (s : State) (x : Xlat) (acc : Access) : State :=
  let want := x.leaf ||| (if acc.writes then 0x600#64 else 0x200#64)
  if want = x.leaf then s
  else s.storeRaw x.leafPa (wordBytes (s.mem.word x.leafPa ||| (if acc.writes then 0x600#64 else 0x200#64)))

/-- The low 55 bits of a canonical address: the VA that the tables translate. -/
def vaOf (a : Word) : Nat := bits a 54 0

/-- A walk for no core met a hint that does not hold: counted by the hub (R79; log 46). -/
def State.noteHint (s : State) (x : Xlat) (pasid : Nat) : State := if x.leaf.getLsbD 5 && x.pages == 1 then s.countHub pasid else s

/-- A die can take one more miss to a walker: fewer than 256 are outstanding, and one of its 32 walkers is free (R81, R82). -/
def State.walkerFree (s : State) (die : Nat) : Bool := decide ((s.misses.filter (·.die == die)).length < 32)

/-- Translate an engine's or front end's address: canonical, mapped, permitted; A and D set (R78, R383). An engine of a compute die
walks with a walker and the walk cache of its die (R81): it waits for a free walker, and for the end of a miss that is outstanding for
its page (R82; log 46). -/
def State.engineAccess (s : State) (pasid : Nat) (a : Word) (acc : Access) (die : Option Nat := none) : Except XFail (State × Xlat) :=
  let va := vaOf a
  if !canonical a then .error .denied
  else if die.any fun d => s.missing d pasid (va / 65536) || !s.walkerFree d then .error .wait
  else
    match s.walkFor die pasid va with
    | .error e => .error e
    | .ok x =>
      if permits acc x.kind x.w x.x then
        .ok (((s.noteHint x pasid).markLeaf x acc).cacheWalk die pasid (s.context pasid).root va, x)
      else .error .denied

/-- The TLB entry of a walk's result; it serves writes if D is set (R78). -/
def Xlat.entry (x : Xlat) (owner pasid : Nat) (dirty : Bool) : TlbEntry :=
  { core := owner, pasid := pasid, vpage := x.vpage, pages := x.pages, pa := x.base, w := x.w, x := x.x, kind := x.kind, dirty := dirty }

/-- An entry put into a core's L1 TLB of 128 entries (R81); it replaces the core's entry of the same pages. -/
def State.putTlb (s : State) (e : TlbEntry) : State :=
  { s with tlb := putCapped 128 (·.core == e.core) (fun y => y.core == e.core && y.pasid == e.pasid && y.vpage == e.vpage) e s.tlb }

/-- The set of a cluster TLB that an entry belongs to: 4,096 entries in 16 ways are 256 sets (R81; log 40). -/
def TlbEntry.set (e : TlbEntry) : Nat := e.vpage / e.pages % 256

/-- An entry put into its cluster's TLB (R81). -/
def State.putClusterTlb (s : State) (e : TlbEntry) : State :=
  { s with
    ctlb := putCapped 16 (fun y => y.core == e.core && y.set == e.set)
      (fun y => y.core == e.core && y.pasid == e.pasid && y.vpage == e.vpage) e s.ctlb }

/-- A translation installed for a core: in its L1 TLB and in its cluster's TLB (R15, R81). -/
def State.installTlb (s : State) (core : Nat) (e : TlbEntry) : State :=
  (s.putTlb { e with core := core }).putClusterTlb { e with core := clusterOf core }

/-- An access that its cluster's TLB translates brings the entry into the core's own (R81). -/
def State.touchTlb (s : State) (core : Option Nat) (pasid va : Nat) (acc : Access) : State :=
  match core with
  | none => s
  | some c =>
    if s.tlb.any fun e => e.covers c pasid va acc then s
    else match s.ctlb.find? fun e => e.covers (clusterOf c) pasid va acc with
      | some e => s.putTlb { e with core := c }
      | none => s

/-- A stream joins the outstanding misses of its die, one for each page; a miss of a page not yet outstanding comes last, if fewer
than 256 are (R82). -/
def State.joinMiss (s : State) (die pasid sid : Nat) (va : Nat) (acc : Access) : State :=
  let page := va / 65536
  if s.missing die pasid page then
    { s with
      misses := s.misses.map fun m =>
        if m.die == die && m.pasid == pasid && m.page == page && !m.waiters.contains (sid, acc) then
          { m with waiters := m.waiters ++ [(sid, acc)] }
        else m }
  else if (s.misses.filter (·.die == die)).length < 256 then
    { s with misses := s.misses ++ [{ die := die, pasid := pasid, page := page, waiters := [(sid, acc)] }] }
  else s

/-- The device identifier in a fabric-window PA (R73). -/
def fabricDevice (pa : Nat) : Nat := field pa 54 41

/-- The offset in a fabric-window PA (R73). -/
def fabricOffset (pa : Nat) : Nat := field pa 40 0

/-- A fabric-window PA of this very device (R73). -/
def isOwnFabric (pa : Nat) : Bool := fabricDevice pa == Config.deviceId.toNat

end Sys2Proof.Machine
end

