-- ==== Sys2Proof/Machine/Stores.lean ====
section
/-! DEFINITION. The store buffer and commit (R126, R305), remote stores (R92, R133), row locks (R109), and fault records
waiting to be posted (R323, R324). -/

namespace Sys2Proof.Machine

/-- HEAD of FQCTL (R324). -/
def State.fqHead (s : State) : BitVec 32 := s.io.fqctl.setWidth 32

/-- Places of the fault ring: 2^LOG (R324). -/
def State.fqSize (s : State) : Nat := 2 ^ bits s.io.fqctl 36 32

/-- Records posted and not yet consumed (R324). -/
def State.fqUsed (s : State) : Nat := (s.io.fqtail - s.fqHead).toNat

/-- The ring takes n more records: it is enabled and has room (R324). -/
def State.fqRoom (s : State) (n : Nat) : Bool := s.io.fqctl.getLsbD 63 && decide (s.fqUsed + n ≤ s.fqSize)

/-- A new fault record waits to be posted (R324); a source that finds no room is counted. The record's serial is the
sequence number at its making. -/
def State.addRecord (s : State) (r : FaultRecord) (target : FaultTarget) : State :=
  let s := if s.fqRoom (s.waitingRecords.length + 1) then s else s.countHub r.pasid
  { s with waitingRecords := s.waitingRecords ++ [{ serial := s.seq, record := r, target := target }], seq := s.seq + 1 }

/-- An uncorrectable error found in a line: its page is retired, which the host is told, and a class-5 record says where (R134,
R327). -/
def State.lineError (s : State) (r : FaultRecord) (line : Nat) : State :=
  let page := line / 65536
  let s := if s.retired.contains page then s else { s with retired := page :: s.retired, signals := s.signals ++ [.pageRetired page] }
  s.addRecord { r with addr := toWord line, cls := 5 } .nothing

/-- SRC of a gang's record (R323). -/
def gangSrc (l k : Nat) : Word := toWord (k % 2 ^ 32 * 2 ^ 32 + l % 2 ^ 32)

/-- Splice of a gang (R291). -/
def State.spliceOf (s : State) (l k : Nat) : Nat := k / max 1 (((s.launch? l).map (·.spl)).getD 1)

/-- A row of a splice is locked against the access (R109). -/
def State.rowLocked (s : State) (l sp block : Nat) (store : Bool) : Bool :=
  s.locks.any fun k => k.launch == l && k.splice == sp && k.row == block / 4 && (k.excl || store)

/-- The entries of a stream in its home gangs' store buffers. -/
def State.storesOf (s : State) (t : Stream) : List (Nat × StoreEntry) :=
  t.homes.flatMap fun k => match s.gang? t.launch k with
    | some g => (g.sb.filter (·.sid == t.sid)).map fun e => (k, e)
    | none => []

/-- The oldest of some entries, lowest lane first within an instruction (R106, R126). -/
def oldest (l : List (Nat × StoreEntry)) : Option (Nat × StoreEntry) :=
  l.foldl (fun best x => match best with
    | none => some x
    | some y => if x.2.seq < y.2.seq || (x.2.seq == y.2.seq && decide (x.2.lane < y.2.lane)) then some x else best) none

/-- Change the entries of a stream. -/
def State.mapStores (s : State) (t : Stream) (f : List StoreEntry → List StoreEntry) : State :=
  t.homes.foldl (fun s k => s.updGang t.launch k fun g =>
    { g with sb := (g.sb.filter (·.sid != t.sid)) ++ f (g.sb.filter (·.sid == t.sid)) }) s

/-- The cells of an entry. -/
def StoreEntry.cells (e : StoreEntry) : List Host.Cell :=
  match e.place with
  | .mem pa _ => e.bytes.map fun b => (pa + b.1, b.2)
  | .scratch k => e.bytes.map fun b => (64 * k + b.1, b.2)

/-- sr_trapinfo of a memory trap (R123). -/
def memInfo (lane acc : Nat) (sp deferred : Bool) (addr : Nat) : Word :=
  toWord (lane * 2 ^ 59 + (if deferred then 2 ^ 58 else 0) + acc * 2 ^ 56 + (if sp then 2 ^ 55 else 0) + addr % 2 ^ 55)

/-- sr_trapinfo of a log-full trap (R314). -/
def logInfo (lane acc : Nat) (deferred : Bool) (va region : Nat) : Word :=
  toWord (lane * 2 ^ 59 + (if deferred then 2 ^ 58 else 0) + acc * 2 ^ 56 + va % 2 ^ 55 / 64 * 64 + region)

/-- Every buffered store of the stream from an instruction on is lost, and a report waits for its next instruction
boundary (R133, R314). -/
def State.dropStores (s : State) (t : Stream) (k : Nat) (cause : Nat) (info : Word) : State :=
  (s.mapStores t fun _ => []).updGang t.launch k fun g =>
    { g with deferred := g.deferred ++ [{ sid := t.sid, cause := cause, info := info }] }

/-- Cells written to a splice's scratchpad at their visibility point: the signatures of the splice's gangs are tested
(R89, R127). -/
def State.storeScratch (s : State) (l sp : Nat) (writer : Option Writer) (whole : Bool) (cells : List Host.Cell) : State :=
  match cells with
  | [] => s
  | (a, _) :: _ =>
    let s := s.updSplice l sp fun x =>
      { x with
        scratch := cells.foldl (fun (m : Memory) (c : Host.Cell) => m.set c.1 c.2) x.scratch
        badBlocks := if whole then x.badBlocks.filter (· != a / 64) else x.badBlocks }
    let s := s.touchWatch none fun t p => t.launch == l && t.splice == sp && p == .scratch (a / 64)
    s.testSignatures writer fun g p => g.launch == l && s.spliceOf l g.idx == sp && p == .scratch (a / 64)

/-- A PA whose stores go to memory or host lines. -/
def State.plainPa (s : State) (pa : Nat) : Bool := match paRange s.memMap pa with
  | .remote | .aliases => false
  | _ => true

/-- A fabric-window offset of this device that lies in its DRAM (R73). -/
def State.ownOffset (s : State) (pa : Nat) : Bool := (dramHome s.memMap (fabricOffset pa)).isSome

/-- The lines that an entry's store writes here: its own, this device's line behind its own fabric window, or those of the encoded
block behind an alias line (R73, R98). -/
def State.linesWritten (s : State) (e : StoreEntry) : List Nat :=
  match e.place with
  | .scratch _ => []
  | .mem pa _ => match paRange s.memMap pa with
    | .remote => if isOwnFabric pa && s.ownOffset pa then [fabricOffset pa] else []
    | .aliases => match s.aliasAt pa with
      | some (w, k) => w.linesOf k
      | none => []
    | _ => [pa]

/-- Entries of one instruction by lane (R106). -/
def byLaneOrder (l : List (Nat × StoreEntry)) : List (Nat × StoreEntry) := sortBy (fun a b => decide (a.2.lane ≤ b.2.lane)) l

/-- The logs' answer to the lines of one store instruction, checked together in lane order: a refusal comes with the region, the VA,
the lane and its gang (R314). -/
def State.logStores (s : State) (es : List (Nat × StoreEntry)) : State ⊕ (State × Nat × Nat × Nat × Nat) :=
  (byLaneOrder es).foldl (fun acc x => (s.linesWritten x.2).foldl (fun acc pa => match acc with
    | .inl s => match s.logLine pa with
      | .ok s => .inl s
      | .refused s r va => .inr (s, r, va, x.2.lane, x.1)
    | e => e) acc) (.inl s)

/-- A line, by VA, of a hardware queue's descriptor or spill area (R300). -/
def HwQueue.covers (q : HwQueue) (pasid va : Nat) : Bool :=
  let a := lineOf (va % 2 ^ 55)
  q.pasid == pasid && (lineOf (q.desc % 2 ^ 55) == a || decide (q.spill % 2 ^ 55 ≤ a) && decide (a < q.spill % 2 ^ 55 + 32 * 2 ^ q.logcap))

/-- A queue whose records are undefined: any, up to its capacity (log 68). -/
def HwQueue.lost (q : HwQueue) (tick : Nat) : HwQueue :=
  let rs := (Config.lostRecords tick q.desc).take (2 ^ q.logcap)
  { q with records := (rs.zip (List.range rs.length)).map fun x => { key := x.1.1, pay := x.1.2, order := x.2 } }

/-- A program's write, or a rollback's, of a line by VA: the records of a hardware queue whose descriptor or spill area it lies in become
undefined (R300, R318). -/
def State.spoil (s : State) (pasid va : Nat) : State :=
  if s.hwqs.any (·.covers pasid va) then { s with hwqs := s.hwqs.map fun q => if q.covers pasid va then q.lost s.ticks else q } else s

/-- A stream whose oldest unperformed access a row lock holds waits for it (R109). -/
def State.waitRow (s : State) (sid : Nat) : State :=
  s.updStream sid fun t => if t.wait = .none then { t with wait := .rowLock } else t

/-- The next store of a stream becomes visible (R87, R105, R126): the oldest committed instruction's ordinary lines all at once, one
remote entry as a request, or one alias block (log 8). Nothing happens while a line of the instruction is held (R108, R317) or a row
locked (R109); the instruction's lines are checked for refusal together (R314). -/
def State.storeStep (s : State) (t : Stream) : State :=
  let all := s.storesOf t
  match oldest all with
  | none => s
  | some (k, e) =>
    if !e.committed || e.waiting then s
    else
      let same := all.filter (·.2.seq == e.seq)
      let pasid := s.pasidOf t.launch
      let by' := ((s.gang? t.launch k).bind Gang.core).map fun c => Filler.mk (dieOf c) pasid
      match e.place with
      | .scratch _ =>
        let sp := s.spliceOf t.launch k
        let blocks := same.filterMap fun x => match x.2.place with | .scratch b => some b | _ => none
        if blocks.any fun b => s.rowLocked t.launch sp b true then s.waitRow t.sid
        else
          let s := s.mapStores t (fun l => l.filter (·.seq != e.seq))
          same.foldl (fun s x => s.storeScratch t.launch sp (some (t.launch, x.1, t.sid)) false x.2.cells) s
      | .mem pa va =>
        if same.any fun x => (s.linesWritten x.2).any s.lineBusy then s
        else match s.logStores same with
        | .inr (s, r, v, lane, k) => s.dropStores t k 0x0D (logInfo lane 1 true v r)
        | .inl s =>
          let off := (e.bytes.head?.map (·.1)).getD 0
          match paRange s.memMap pa with
          | .remote =>
            if isOwnFabric pa then
              if s.ownOffset pa then
                (s.mapStores t (fun l => l.filter (· != e))).storeLine (some (t.launch, k, t.sid)) by' false
                  (e.bytes.map fun b => (fabricOffset pa + b.1, b.2))
              else (s.dropStores t k 0x0E (memInfo e.lane 1 false true (va + off))).countHub pasid
            else
              let req : OutRequest :=
                { tag := s.seq, peer := fabricDevice pa, pasid := pasid, type := .physical, addr := fabricOffset pa + off
                  op := .write (e.bytes.map (·.2)), src := .store t.launch k t.sid e.seq (memInfo e.lane 1 false true (va + off))
                  guest := false }
              { s.mapStores t (fun l => l.map fun x => if x == e then { x with waiting := true } else x) with
                out := s.out ++ [req], seq := s.seq + 1 }
          | .aliases =>
            match s.aliasAt pa with
            | none => s.mapStores t (fun l => l.filter (· != e))
            | some (w, b) =>
              let mine := (byLaneOrder same).filter fun x => match x.2.place with
                | .mem pa' _ => decide (w.base + w.blockBytes * b ≤ pa') && decide (pa' < w.base + w.blockBytes * (b + 1))
                | _ => false
              match s.aliasStore (some (t.launch, k, t.sid)) pasid w b (mine.flatMap fun x => x.2.cells) with
              | .ok s => s.mapStores t (fun l => l.filter fun x => !mine.any fun y => y.2 == x)
              | .refused s r va => s.dropStores t k 0x0D (logInfo e.lane 1 true va r)
          | _ =>
            let plain := (byLaneOrder same).filter fun x => match x.2.place with
              | .mem pa' _ => s.plainPa pa' && same.all fun y => y.2.lane ≥ x.2.lane || match y.2.place with
                | .mem p _ => s.plainPa p
                | _ => true
              | _ => false
            let s := s.mapStores t (fun l => l.filter fun x => !plain.any fun y => y.2 == x)
            plain.foldl (fun s x =>
              let s := s.storeLine (some (t.launch, x.1, t.sid)) by' false x.2.cells
              match x.2.place with
              | .mem _ va => s.spoil pasid va
              | .scratch _ => s) s

/-- The stream has neither an uncommitted instruction nor a buffered store: it is at a commit point with every older
access performed (R305, R118). -/
def State.drained (s : State) (t : Stream) : Bool := t.unc.isEmpty && (s.storesOf t).isEmpty

/-- Signatures go when no stream of the gang is uncommitted any more (R89). -/
def State.clearSignatures (s : State) (t : Stream) : State :=
  t.homes.foldl (fun s k =>
    if (s.streamsOf t.launch k).all fun x => x.unc.isEmpty then s.updGang t.launch k fun g => { g with sig := [] } else s) s

/-- What committing an instruction does besides: counts (R309, R363). -/
def Stream.committedAt (t : Stream) (pc : Word) : Stream :=
  { t with
    rbCount := if t.rbPc == pc || t.careful == 1 then 0 else t.rbCount
    careful := t.careful - 1 }

/-- The oldest uncommitted instruction commits, its older stores being visible (R305): its belay entries are released and
its stores may leave the buffer. -/
def State.commitStep (s : State) (t : Stream) : State :=
  match t.unc with
  | [] => s
  | u :: rest =>
    if (s.storesOf t).any fun x => decide (x.2.seq < u.seq) then s
    else
      let s := t.homes.foldl (fun s k => s.updGang t.launch k fun g =>
        { g with
          belay := commitFlags (fun e => e.sid == t.sid && e.seq == u.seq) g.belay []
          sb := g.sb.map fun e => if e.sid == t.sid && e.seq == u.seq then { e with committed := true } else e }) s
      let s := s.updStream t.sid fun t => { t.committedAt u.pc with unc := rest }
      let core := ((t.homes.head?.bind (s.gang? t.launch)).bind Gang.core)
      let s := s.countCore core 1 (s.pasidOf t.launch) 1
      if rest.isEmpty then s.clearSignatures { t with unc := [] } else s

/-- One step toward the stream's commit point: a store becomes visible, or an instruction commits. -/
def State.drainStep (s : State) (t : Stream) : State :=
  match oldest (s.storesOf t) with
  | some (_, e) => if e.committed then s.storeStep t else s.commitStep t
  | none => s.commitStep t

end Sys2Proof.Machine
end

