-- ==== Sys2Proof/Machine/KnotOps.lean ====
section
/-! DEFINITION. The knot record and its phases (R266 to R271, R277): what knot instructions, engine arrivals and finished
or killed gangs do to a record. -/

namespace Sys2Proof.Machine

/-- A knot record (R266). -/
structure Knot where
  exp : Nat
  arr : Nat
  gen : Nat
  flags : Nat
  head : Word
  owner : Nat
  check : Nat
  deriving DecidableEq, Repr

/-- The record at a PA. -/
def State.knot (s : State) (pa : Nat) : Knot :=
  { exp := s.mem.nat pa 4, arr := s.mem.nat (pa + 4) 4, gen := s.mem.nat (pa + 8) 4, flags := s.mem.nat (pa + 12) 4
    head := s.mem.word (pa + 16), owner := s.mem.nat (pa + 24) 4, check := s.mem.nat (pa + 28) 4 }

/-- The 32 bytes of a record. -/
def Knot.bytes (k : Knot) : List Byte :=
  leBytes 4 k.exp ++ leBytes 4 k.arr ++ leBytes 4 k.gen ++ leBytes 4 k.flags ++ wordBytes k.head ++ leBytes 4 k.owner ++
    leBytes 4 k.check

/-- A record written in one indivisible step (R268, R313). -/
def State.putKnot (s : State) (writer : Option Writer) (by' : Filler) (pa : Nat) (k : Knot) : Logged :=
  match s.logLine pa with
  | .ok s => .ok (s.storeLine writer (some by') false (cellsOf pa k.bytes))
  | r => r

/-- Whose knot cache performs an operation on a record: the die of the core, and of an engine's, or an absent gang's, the die that holds
the line modified, else the die of its home stack (R268; log 56). -/
def State.knotCache (s : State) (core : Option Nat) (pasid pa : Nat) : Filler :=
  let home := if s.fw.reduced then s.fw.serviceDie else (((dramHome s.memMap pa).map (·.1)).getD 0) / 4
  let held := (s.l2.find? fun x => x.pa == lineOf pa && x.state == .m).map (·.die)
  { die := (core.map dieOf).getD (held.getD home), pasid := pasid }

/-- CHECK of a handle (R266). -/
def knotCheck (handle : Word) : Nat := field handle.toNat 36 5 ^^^ 0x5A5A5A5A

/-- V and CHECK, OWNER, reserved bits and counts of R267; the reason of R275 that applies first, or none. -/
def Knot.refusal (k : Knot) (handle : Word) (pasid : Nat) : Option Nat :=
  if k.flags % 2 = 0 || k.check != knotCheck handle || k.flags / 4 != 0 || k.owner / 2 ^ 20 != 0 then some 1
  else if k.owner % 2 ^ 20 != pasid then some 2
  else if k.arr < k.exp || (k.exp = 0 && k.arr = 0) then none
  else some 9

/-- Bytes of a gang record (R330). -/
def gangRecordBytes : Nat := 0x15000

/-- VA of gang record k of a pool (R330). -/
def gangRecordVa (c : Context) (k : Nat) : Word := c.gpool + toWord (gangRecordBytes * k)

/-- VA of the waiter entry of a gang's slot (R277, R330). -/
def waiterVa (c : Context) (record slot : Nat) : Word := gangRecordVa c record + toWord (0x180 + 16 * slot)

/-- The lowest slot of gang k in a stream, which indexes its waiter entry (R277). -/
def Stream.lowSlot (t : Stream) (k : Nat) : Nat := (t.slotsOf k).headD 0

/-- The stream that a waiter entry's VA belongs to. -/
def State.waiterStream (s : State) (pasid : Nat) (va : Word) : Option Stream :=
  let off := (va - (s.context pasid).gpool).toNat
  let rec' := off / gangRecordBytes
  let slot := (off % gangRecordBytes - 0x180) / 16
  (s.gangs.find? fun g => g.record == rec' && s.pasidOf g.launch == pasid).bind fun g =>
    (s.streamsOf g.launch g.idx).find? fun t => t.lowSlot g.idx == slot

/-- The streams of a PASID that wait on a knot past a generation are released (R277). -/
def State.releaseAll (s : State) (pasid : Nat) (handle : Word) (gen : Nat) : State :=
  { s with
    streams := s.streams.map fun t =>
      if t.wait = .knot handle (BitVec.ofNat 32 gen) && s.pasidOf t.launch == pasid then { t with wait := .none } else t }

/-- Every waiter of a detached list is released and its link cleared (R277). Where a link cannot be read, for want of a translation of the
pool, the waiters that remain are released without it (log 56). -/
def State.wakeList (s : State) (pasid : Nat) (handle : Word) (gen : Nat) : Nat → Word → State
  | 0, _ => s.releaseAll pasid handle gen
  | fuel + 1, va =>
    if va = 0 then s
    else
      let s := match s.waiterStream pasid va with
        | some t => match t.wait with
          | .knot h _ => if h = handle then s.updStream t.sid fun t => { t with wait := .none } else s
          | _ => s
        | none => s
      match s.engineAccess pasid va .store with
      | .ok (s, x) =>
        let link := s.mem.word x.pa
        (s.storeHw pasid x.pa (wordBytes 0)).wakeList pasid handle gen fuel link
      | .error _ => s.releaseAll pasid handle gen

/-- An entry of a waiter list cannot be written yet: the guest owns a line of the tables, or the entry's line is held (R76, R108, R317). -/
def State.listHeld (s : State) (pasid : Nat) : Nat → Word → Bool
  | 0, _ => false
  | fuel + 1, va =>
    if va = 0 then false
    else match s.engineAccess pasid va .store with
      | .ok (s, x) => s.lineBusy x.pa || s.listHeld pasid fuel (s.mem.word x.pa)
      | .error e => e == .wait

/-- More waiter entries than the gangs have. -/
def State.waiterFuel (s : State) : Nat := 8 * s.gangs.length + 1

/-- The record leaves a complete phase (R269). -/
def Knot.complete (k : Knot) : Bool := decide (0 < k.exp) && k.arr == k.exp

/-- An operation that leaves the record so has to wait: the record's line is held, or an entry of the list that it would detach. -/
def State.knotHeld (s : State) (pasid pa : Nat) (k : Knot) : Bool :=
  s.lineBusy pa || (k.complete && s.listHeld pasid s.waiterFuel k.head)

/-- Finish an operation that left a record: the phase completes when ARR = EXP > 0 (R269), and the record is written. The
Bool says that the phase completed. -/
def State.settleKnot (s : State) (writer : Option Writer) (by' : Filler) (handle : Word) (pa : Nat) (k : Knot) : Logged × Bool :=
  if k.complete then
    match s.putKnot writer by' pa { k with gen := (k.gen + 1) % 2 ^ 32, arr := 0, head := 0 } with
    | .ok s => (.ok (s.wakeList by'.pasid handle k.gen s.waiterFuel k.head), true)
    | r => (r, true)
  else (s.putKnot writer by' pa k, false)

/-- Why a knot handle cannot be used: its cause (R272 checks 1 to 3). -/
inductive HandleFail where
  | misaligned
  | denied
  | fault (reason : Nat)
  /-- a TLB miss is outstanding (R82), or the guest holds a line of the tables (R76) -/
  | wait
  deriving DecidableEq, Repr

/-- The checks on a handle of a record in coherent memory, aligned to `align` (R272, R302). -/
def State.handleAccess (s : State) (core : Option Nat) (pasid : Nat) (h : Word) (align : Nat) : Except HandleFail (State × Nat) :=
  if h.toNat % align != 0 then .error .misaligned
  else if !canonical h then .error .denied
  else
    match s.translate core pasid (vaOf h) .store with
    | .error (.fault r) => .error (.fault r)
    | .error .wait => .error .wait
    | .error _ => .error .denied
    | .ok x =>
      let s := if core.isNone then s.noteHint x pasid else s
      if x.kind < 2 then .ok ((s.markLeaf x .store).touchTlb core pasid (vaOf h) .store, x.pa) else .error .denied

/-- The entry of a knot in a gang's membership table. -/
def Gang.member? (g : Gang) (h : Word) : Option (Nat × Member) :=
  (List.range 16).findSome? fun i =>
    let m := vget g.members i { handle := 0, av := false, agen := 0 }
    if m.handle = h && h ≠ 0 then some (i, m) else none

/-- An empty membership entry. -/
def Member.empty : Member := { handle := 0, av := false, agen := 0 }

/-- A 32-bit count lowered by one; below zero the spec gives no value (log 42). -/
def lowerCount (field n : Nat) : Nat := if n = 0 then (Config.belowZero field).toNat else n - 1

/-- What KLEAVE does to a record for an entry (R270, R274). -/
def Knot.leave (k : Knot) (m : Member) : Knot :=
  { k with exp := lowerCount 0 k.exp, arr := if m.av && m.agen.toNat == k.gen then lowerCount 1 k.arr else k.arr }

/-- An event counted by a gang's core, of an absent gang by the hub. -/
def State.countAt (s : State) (core : Option Nat) (pasid : Nat) : State :=
  match core with
  | some c => s.count c 0x30 pasid 1
  | none => s.countHub pasid

/-- The implicit KLEAVE of one entry: skipped and counted on a knot that is not valid (R270); none while a line that it would write, or one
of the tables, is held. Nothing waits for a walk here: hardware walks the tables for it. -/
def State.leaveKnot (s : State) (core : Option Nat) (l : Nat) (m : Member) : Option State :=
  let pasid := s.pasidOf l
  match s.handleAccess none pasid m.handle 32 with
  | .error .wait => none
  | .error _ => some (s.countAt core pasid)
  | .ok (s, pa) =>
    let r := s.knot pa
    match r.refusal m.handle pasid with
    | some _ => some (s.countAt core pasid)
    | none =>
      if s.knotHeld pasid pa (r.leave m) then none
      else match (s.settleKnot none (s.knotCache core pasid pa) m.handle pa (r.leave m)).1 with
        | .ok s => some s
        | .refused s _ _ => some (s.countAt core pasid)

/-- The implicit KLEAVEs of a gang's table, in table order, as far as nothing holds one up (R270); an entry left is empty. -/
def State.leaveAll (s : State) (g : Gang) : State :=
  ((List.range 16).foldl (fun (acc : State × Bool) i =>
    let m := vget g.members i Member.empty
    if acc.2 || m.handle = 0 then acc
    else match acc.1.leaveKnot g.core g.launch m with
      | some s => (s.updGang g.launch g.idx fun g => { g with members := vset g.members i Member.empty }, false)
      | none => (acc.1, true)) (s, false)).1

/-- Every knot of the gang is left. -/
def State.hasLeft (s : State) (g : Gang) : Bool := (s.gang? g.launch g.idx).all fun g => g.members.toList.all (·.handle == 0)

/-- The entry at `va` taken out of the list that starts in the 8 bytes at `at`, a PA (R270). -/
def State.unlinkFrom (s : State) (pasid : Nat) (va : Word) : Nat → Nat → State
  | 0, _ => s
  | fuel + 1, at_ =>
    let here := s.mem.word at_
    if here = 0 then s
    else
      match s.engineAccess pasid here .store with
      | .error _ => s
      | .ok (s, x) =>
        if here = va then s.storeHw pasid at_ (wordBytes (s.mem.word x.pa))
        else s.unlinkFrom pasid va fuel x.pa

/-- The waiter entry of a killed gang's stream is unlinked from its knot (R270); none while a line of the list, or one of the tables, is
held. -/
def State.unlinkWaiter (s : State) (g : Gang) (t : Stream) : Option State :=
  let pasid := s.pasidOf g.launch
  let free := fun (s : State) => s.updStream t.sid fun t => { t with wait := .none }
  match t.wait with
  | .knot h _ =>
    match s.handleAccess none pasid h 32 with
    | .error .wait => none
    | .error _ => some (free s)
    | .ok (s, pa) =>
      if s.lineBusy pa || s.listHeld pasid s.waiterFuel (s.knot pa).head then none
      else
        some (free (s.unlinkFrom pasid (waiterVa (s.context pasid) g.record (t.lowSlot g.idx)) s.waiterFuel (pa + 16)))
  | _ => some s

/-- The waiter entries of a killed gang's streams are unlinked, as far as nothing holds one up (R270). -/
def State.unlinkWaiters (s : State) (g : Gang) : State :=
  (s.streamsOf g.launch g.idx).foldl (fun s t => (s.unlinkWaiter g t).getD s) s

/-- An engine's arrival on a knot under a PASID (R271). -/
inductive Arrival where
  | done (s : State)
  | refused (s : State)
  | fault (reason : Nat)
  /-- a line of the tables, or the record's, is held: again later -/
  | held

/-- One engine arrival: performed, refused and counted, or a translation fault. -/
def State.engineArrive (s : State) (pasid : Nat) (h : Word) : Arrival :=
  match s.handleAccess none pasid h 32 with
  | .error (.fault r) => .fault r
  | .error .wait => .held
  | .error _ => .refused (s.countHub pasid)
  | .ok (s, pa) =>
    let k := s.knot pa
    if s.knotHeld pasid pa { k with arr := k.arr + 1 } then .held
    else if (k.refusal h pasid).isSome || k.flags / 2 % 2 = 0 || k.exp = 0 then .refused (s.countHub pasid)
    else match (s.settleKnot none (s.knotCache none pasid pa) h pa { k with arr := k.arr + 1 }).1 with
      | .ok s => .done s
      | .refused s _ _ => .refused (s.countHub pasid)

end Sys2Proof.Machine
end

