-- ==== Sys2Proof/Machine/Ops.lean ====
section
/-! DEFINITION. The operations every meaning shares: registers with pending results and logged values (R157, R161 to R163,
R306), the issue of an instruction by a stream (R22, R247 to R250, R305 to R309), taking an exception (R319 to R322) and
the return from one (R321). -/

namespace Sys2Proof.Machine

/-! Registers. -/

/-- Who writes a register: the stream, the instruction's number, whether it runs under speculation (R305), whether it is the only
stream of its gangs, and the tick that keys free values. -/
structure Who where
  sid : Nat
  seq : Nat
  spec : Bool
  alone : Bool
  tick : Nat
  deriving DecidableEq, Repr

/-- A number naming a register, for the keys of free values. -/
def RegRef.key : RegRef → Nat
  | .v r => r | .s r => 100 + r | .m r => 200 + r | .codebook => 300 | .fflags => 301 | .seed => 302

/-- Where a choice between two values of a register is made: the step's tick, a number naming the register, the gang and what chooses,
and which of the competing values it is. No two choices of a step have the same elements of the same place. -/
structure Choice where
  tick : Nat
  key : Nat
  nth : Nat
  deriving DecidableEq, Repr

/-- The free bit of one element of a choice; elements count bits of a vector register, 2,048. -/
def Choice.bit (c : Choice) (elem : Nat) : Bool := Config.freeBit c.tick c.key (2048 * c.nth + elem)

/-- The elements of `w` bits of `new` where a free bit says so, else of `old` (R163). -/
def Choice.mixWord (c : Choice) (w l : Nat) (old new : Word) : Word :=
  (List.range (64 / w)).foldl (fun acc i =>
    let m := BitVec.ofNat 64 (2 ^ w - 1) <<< (w * i)
    acc ||| (if c.bit (64 * l + w * i) then new &&& m else old &&& m)) 0#64

/-- In the lanes `rows`, the mixture of two values of a register; in the others the new value (R163). -/
def Choice.mix (c : Choice) (w : Nat) (rows : Mask) (old new : RegVal) : RegVal :=
  match old, new with
  | .v x, .v y => .v (byLane fun l => if rows.getLsbD l then c.mixWord w l (lane x l) (lane y l) else lane y l)
  | .s x, .s y => .s (if c.bit 0 then y else x)
  | .m x, .m y => .m ((List.range 32).foldl (fun acc i =>
      acc ||| ((if !rows.getLsbD i || c.bit i then y else x) &&& (1#32 <<< i))) 0#32)
  | .codebook x, .codebook y => .codebook (vtab 16 fun i => if c.bit i then vget y i 0 else vget x i 0)
  | _, y => y

/-- What chooses between values of a register: a read over results in flight, or over writes of other streams; a write over either. -/
inductive Chooser where
  | readFlight | readRace | writeFlight | writeRace
  deriving DecidableEq, Repr

/-- The number of a chooser. -/
def Chooser.code : Chooser → Nat
  | .readFlight => 0 | .readRace => 1 | .writeFlight => 2 | .writeRace => 3

/-- The choices of one kind over a register of a gang, one for each competing value. -/
def Gang.choice (g : Gang) (tick : Nat) (r : RegRef) (k : Chooser) (nth : Nat) : Choice :=
  { tick := tick, key := r.key + 400 * (k.code + 4 * g.idx), nth := nth }

/-- A value over which several others compete, in the lanes that each has written, element by element. -/
def mixAll (c : Nat → Choice) : List (Nat × Mask × RegVal) → Nat → RegVal → RegVal
  | [], _, v => v
  | x :: rest, n, v => mixAll c rest (n + 1) ((c n).mix x.1 x.2.1 x.2.2 v)

/-- Every lane. -/
def allRows : Mask := 0xFFFF_FFFF#32

/-- The register file's value. -/
def Gang.reg (g : Gang) : RegRef → RegVal
  | .v r => .v (vget g.v r zeroV)
  | .s r => .s (vget g.s r 0)
  | .m r => .m (vget g.m r 0)
  | .codebook => .codebook g.codebook
  | .fflags => .s g.fflags
  | .seed => .seed g.seed g.st

/-- The register file with one register replaced. -/
def Gang.setReg (g : Gang) (r : RegRef) (x : RegVal) : Gang :=
  match r, x with
  | .v r, .v x => { g with v := vset g.v r x }
  | .s r, .s x => { g with s := vset g.s r x }
  | .m r, .m x => { g with m := vset g.m r x }
  | .codebook, .codebook x => { g with codebook := x }
  | .fflags, .s x => { g with fflags := x }
  | .seed, .seed x st => { g with seed := x, st := st }
  | _, _ => g

/-- The results in flight that a register's value still depends on (R161, R163), newest first. -/
def Gang.pendingOf (g : Gang) (r : RegRef) : List Pending := g.pending.filter fun p => p.reg == r && !g.stale p

/-- The writes of other streams that a stream's read of a register is not ordered with (R171, R195, R199). -/
def Gang.racesOf (g : Gang) (sid : Nat) (r : RegRef) : List Race := g.races.filter fun q => q.reg == r && !q.sids.contains sid

/-- What a stream reads from a register: of a result in flight the old or the new value, element by element (R163); of a write of
another stream that nothing orders with it, the value before or after it, position by position of `w` bits (R171, R199). -/
def Gang.read (g : Gang) (sid tick : Nat) (r : RegRef) (w : Nat := 64) : RegVal :=
  mixAll (g.choice tick r .readRace) ((g.racesOf sid r).map fun q => (w, q.rows, q.old)) 0
    (mixAll (g.choice tick r .readFlight) ((g.pendingOf r).map fun p => (p.width, p.rows, p.old)) 0 (g.reg r))

/-- A vector register as a stream reads it, in positions of `w` bits. -/
def Gang.readV (g : Gang) (sid tick r : Nat) (w : Nat := 64) : VReg :=
  match g.read sid tick (.v r) w with
  | .v x => x
  | _ => zeroV

/-- A scalar register as a stream reads it. -/
def Gang.readS (g : Gang) (sid tick r : Nat) : Word :=
  match g.read sid tick (.s r) with
  | .s x => x
  | _ => 0

/-- A mask register m1 to m15 as a stream reads it; m0 is the stream's active mask (R248). -/
def Gang.readM (g : Gang) (sid tick r : Nat) : Mask :=
  match g.read sid tick (.m r) with
  | .m x => x
  | _ => 0

/-- The codebooks that an element's decode or encode takes one of: the current one, and those before CBLDs of other streams that nothing
orders with it (R195). -/
def Gang.codebooks (g : Gang) (sid : Nat) : List (Vector (BitVec 16) 16) :=
  g.codebook :: (g.racesOf sid .codebook).filterMap fun q => match q.old with
    | .codebook x => some x
    | _ => none

/-- The codebook that element n of an instruction takes: any of them (R195). -/
def Gang.readCb (g : Gang) (sid tick n : Nat) : Vector (BitVec 16) 16 :=
  ((g.racesOf sid .codebook).foldl (fun (acc : Nat × Vector (BitVec 16) 16) q => match q.old with
    | .codebook x => (acc.1 + 2, if (g.choice tick .codebook .readRace acc.1).bit n then x else acc.2)
    | _ => acc) (0, g.codebook)).2

/-- The old value, with what results in flight would have left in its place, is logged when the write is made under speculation
(R306). -/
def Gang.log (g : Gang) (w : Who) (r : RegRef) : Gang :=
  if w.spec then
    { g with
      belay := { sid := w.sid, seq := w.seq, reg := r, old := g.reg r, flight := (g.pendingOf r).map fun p => (p.seq, p.old) } :: g.belay }
  else g

/-- A stream of a parted gang writes lanes of a register: other streams may read the value before the write until they join (R171,
R195, R199). -/
def Gang.noteRace (g : Gang) (w : Who) (r : RegRef) (rows : Mask) (val : RegVal) : Gang :=
  if w.alone then g
  else { g with races := { sids := [w.sid], seq := w.seq, reg := r, old := g.reg r, val := val, rows := rows } :: g.races }

/-- A write of lanes of a register: `upd` gives the new value from the current one. A long-class result is in flight until it returns;
a write over a result in flight, or over a write of another stream that nothing orders with it, leaves one of the two values per
element (R163, R171). -/
def Gang.put (g : Gang) (w : Who) (long : Bool) (width : Nat) (r : RegRef) (rows : Mask) (upd : RegVal → RegVal) : Gang :=
  let cur := g.reg r
  let val := upd cur
  let met := (g.pendingOf r).filter fun p => p.rows &&& rows != 0
  let new := mixAll (g.choice w.tick r .writeRace) ((g.racesOf w.sid r).map fun q => (64, q.rows &&& rows, q.val)) 0
    (mixAll (g.choice w.tick r .writeFlight) (met.map fun p => (min p.width width, p.rows &&& rows, p.val)) 0 val)
  let g := ((g.noteRace w r rows val).log w r).setReg r new
  if long then
    { g with
      pending := { sids := [w.sid], seq := w.seq, reg := r, old := cur, val := val, rows := rows, width := width, tag := g.tagOf r
                   net := false } :: g.pending }
  else if met.isEmpty then g
  else { g with pending := g.pending.map fun p => if met.contains p then { p with old := upd p.old } else p }

/-- Write rows of a vector register. -/
def Gang.putV (g : Gang) (w : Who) (long : Bool) (width r : Nat) (m : Mask) (x : VReg) : Gang :=
  g.put w long width (.v r) m fun old => match old with
    | .v o => .v (mixRows m o x)
    | o => o

/-- Write a scalar register. -/
def Gang.putS (g : Gang) (w : Who) (long : Bool) (r : Nat) (x : Word) : Gang := g.put w long 64 (.s r) allRows fun _ => .s x

/-- Write bits of a mask register. -/
def Gang.putM (g : Gang) (w : Who) (long : Bool) (r : Nat) (m x : Mask) : Gang :=
  g.put w long 1 (.m r) m fun old => match old with
    | .m o => .m ((o &&& ~~~m) ||| (x &&& m))
    | o => o

/-- A change of sr_fflags: flags ORed in, or the register written. Under speculation it is logged; else it stands under the logged
changes of other streams (R56, R57, R184). -/
def Gang.putFlags (g : Gang) (w : Who) (set : Bool) (x : Word) : Gang :=
  if w.spec then
    { g with
      belay := { sid := w.sid, seq := w.seq, reg := .fflags, old := .flags g.fflags set x, flight := [] } :: g.belay
      fflags := changeFlags set x g.fflags }
  else
    { g with
      fflags := changeFlags set x g.fflags
      belay := g.belay.map fun e => match e.old with
        | .flags before st y => { e with old := .flags (changeFlags set x before) st y }
        | _ => e }

/-- Flags raised by an instruction (R56). -/
def Gang.raise (g : Gang) (w : Who) (f : Flags) : Gang := if f = 0 then g else g.putFlags w false (f.setWidth 64)

/-- Generator states after an instruction's draws, logged under speculation (R58). -/
def Gang.putDraws (g : Gang) (w : Who) (st : Vector (BitVec 32) 32) : Gang :=
  if g.st = st then g
  else
    { g with
      st := st
      belay := if w.spec then { sid := w.sid, seq := w.seq, reg := .seed, old := .draws g.st, flight := [] } :: g.belay else g.belay }

/-- Every outstanding result of a stream returns; a stale one is dropped and counted (R22, R161, R250). -/
def State.settle (s : State) (t : Stream) : State :=
  t.homes.foldl (fun s k => match s.gang? t.launch k with
    | none => s
    | some g =>
      let lost := (g.pending.filter fun p => p.sids.contains t.sid && g.stale p).length
      let s := if lost = 0 then s else s.countCore g.core 4 (s.pasidOf t.launch) lost
      s.updGang t.launch k fun g => { g with pending := g.pending.filter fun p => !p.sids.contains t.sid }) s

/-! Streams of one home gang. -/

/-- The part of a stream that belongs to one home gang (R249). -/
structure Part where
  sid : Nat
  launch : Nat
  gang : Nat
  slots : List Nat
  deriving DecidableEq, Repr

/-- The home-gang parts of a stream, ascending (R249). -/
def Stream.parts (t : Stream) : List Part :=
  t.homes.map fun k => { sid := t.sid, launch := t.launch, gang := k, slots := t.slotsOf k }

/-- The lanes of a stream: its current active mask (R248). -/
def Stream.active (t : Stream) : Mask := lanesOf ((List.range 8).filter fun i => (vget t.slots i none).isSome)

/-- A vector of slots by a list of (slot, gang). -/
def slotVec (l : List (Nat × Nat)) : Vector (Option Nat) 8 := vtab 8 fun i => (l.find? (·.1 == i)).map (·.2)

/-- A stream that continues the work of another at an address, with the slots given. -/
def Stream.child (t : Stream) (sid : Nat) (slots : List (Nat × Nat)) (pc : Word) : Stream :=
  { t with
    sid := sid, slots := slotVec slots, pc := pc, unc := [], loading := false, spin := Spin.empty, answers := [], walkFails := []
    partsDone := [], doneLen := 0
    claim := none, grant := none, operands := [], popped := none }

/-- What is tagged with a stream's number in gang k is tagged with another's afterwards: buffered stores and requests, results in
flight, logged values, reports, its XNET commands. Writes of the old stream are ordered before the new one (R102). -/
def State.retag (s : State) (l k old new : Nat) : State :=
  let s := s.updGang l k fun g =>
    { g with
      pending := g.pending.map fun p => if p.sids.contains old then { p with sids := new :: p.sids } else p
      races := g.races.map fun q => if q.sids.contains old then { q with sids := new :: q.sids } else q
      belay := g.belay.map fun p => if p.sid = old then { p with sid := new } else p
      sb := g.sb.map fun p => if p.sid = old then { p with sid := new } else p
      deferred := g.deferred.map fun p => if p.sid = old then { p with sid := new } else p }
  { s with
    xcmds := s.xcmds.map fun c => if c.launch = l ∧ c.gang = k ∧ c.sids.contains old then { c with sids := new :: c.sids } else c
    out := s.out.map fun (o : OutRequest) => match o.src with
      | .store l' k' sid seq info => if l' = l ∧ k' = k ∧ sid = old then { o with src := .store l k new seq info } else o
      | _ => o }

/-- A gang whose streams have all joined: nothing is unordered in it any more (R102). -/
def State.joinRaces (s : State) (l k : Nat) : State :=
  if (s.streamsOf l k).length ≤ 1 then s.updGang l k fun g => { g with races := [] } else s

/-- A wait of R276. -/
def Wait.waiting : Wait → Bool
  | .none | .pool .matrix _ | .pool .cross _ | .mwait | .answer | .pack _ | .line | .resize _ | .walk => false
  | _ => true

/-- The wait belongs to the part of one home gang, whose turn it was to execute (R249). -/
def Wait.ofPart : Wait → Bool
  | .knot _ _ | .watch _ _ _ | .yieldWatch _ _ _ _ | .racq | .qpop _ _ | .hwqMap _ | .pool _ _ | .memSlot _ | .mwait | .resize _ => true
  | _ => false

/-- A packed stream's part in a home gang has executed the instruction under way (R249). -/
def Stream.past (t : Stream) (k : Nat) : Bool := decide (1 < t.homes.length) && t.partsDone.contains k

/-- The home gang whose part of the instruction under way executes, or waits: the first that has not executed it; at a knot and after a
YIELD with continuation, the last that has (R153, R249). -/
def Stream.current (t : Stream) : Option Nat :=
  let last := (t.homes.filter fun k => t.partsDone.isEmpty || t.past k).getLast?
  match t.wait with
  | .knot _ _ | .yieldWatch _ _ _ _ => last
  | .yielded => if t.partsDone.isEmpty then t.homes.head? else last
  | _ => t.homes.find? fun k => !t.past k

/-- The wait of a stream belongs to one of its parts. -/
def Stream.waitsInPart (t : Stream) : Bool := t.wait.ofPart || (t.wait == .yielded && !t.partsDone.isEmpty)

/-- The part of a packed stream in one home gang, as a stream of its own: past the instruction under way if it has executed it. What the
instruction keeps between its steps, and a wait for it, are those of the part whose turn it is. -/
def Stream.partOf (t : Stream) (p : Part) (sid : Nat) : Stream :=
  let t' :=
    { t with
      sid := sid, slots := slotVec (p.slots.map fun i => (i, p.gang)), partsDone := [], doneLen := 0
      pc := if t.past p.gang then t.pc + toWord t.doneLen else t.pc }
  if t.current == some p.gang then t'
  else
    { t' with
      claim := none, grant := none, operands := [], popped := none, wait := if t.waitsInPart then .none else t.wait
      watchDie := if t.waitsInPart then none else t.watchDie }

/-- A packed stream split into its home-gang parts (R258, R320): the lowest part keeps the number. What is uncommitted
of the stream is so of each part. A P-branch window that it has come to holds every part. -/
def State.splitParts (s : State) (t : Stream) : State :=
  match t.parts with
  | [] => s
  | p :: rest =>
    let s := s.updStream t.sid fun t => t.partOf p t.sid
    rest.foldl (fun s p =>
      let n := s.nextSid
      let s := (s.retag p.launch p.gang t.sid n).updSplice t.launch t.splice fun x =>
        { x with windows := x.windows.map fun w => if w.sids.contains t.sid then { w with sids := w.sids ++ [n] } else w }
      { s with streams := s.streams ++ [t.partOf p n], nextSid := n + 1 }) s

/-! Taking an exception. -/

/-- The stores that a stream has committed leave the buffer, as far as nothing holds them. -/
def State.flushCommitted (s : State) (t : Stream) : State :=
  (List.range 33).foldl (fun s _ => match oldest (s.storesOf t) with
    | some (_, e) => if e.committed then s.storeStep t else s
    | none => s) s

/-- No committed store of the gang is left that is not yet visible (R112). -/
def Gang.flushed (g : Gang) : Bool := g.sb.all fun e => !e.committed

/-- The stream will not take what it still waits to read from another device: that comes late, to be dropped and counted (R161, R162). -/
def State.loseAnswer (s : State) (t : Stream) : State :=
  { s with
    out := s.out.map fun q => match q.src, q.op with
      | .lane sid _ _, .read _ => if sid = t.sid then { q with src := .late (s.firstCore t) } else q
      | _, _ => q }

/-- A killed gang goes, once the committed stores of its streams are visible, its waiter entries are unlinked and its knots are left (R112,
R270): its results in flight are dropped and counted (R161), its streams end. -/
def State.reapGang (s : State) (g : Gang) : State :=
  if !g.flushed || (s.streamsOf g.launch g.idx).any fun t => (s.storesOf t).any fun x => x.2.committed then s
  else
    let s := s.unlinkWaiters g
    if (s.streamsOf g.launch g.idx).any fun t => match t.wait with | .knot _ _ => true | _ => false then s
    else
      let s := s.leaveAll g
      if !s.hasLeft g then s
      else
        let s := if g.pending.isEmpty then s else s.countCore g.core 4 (s.pasidOf g.launch) g.pending.length
        { s with
          gangs := s.gangs.filter fun x => !(x.launch == g.launch && x.idx == g.idx)
          streams := s.streams.filterMap fun t =>
            if t.launch == g.launch && t.has g.idx then
              let slots := ((List.range 8).filterMap fun i => (vget t.slots i none).map fun k => (i, k)).filter fun x => x.2 != g.idx
              if slots.isEmpty then none else some { t with slots := slotVec slots }
            else some t }

/-- An issued command of a core's copy queue works on the scratchpad of a splice (R144, R322). -/
def State.copyOnSplice (s : State) (l sp : Nat) : Bool :=
  s.coreCmds.any fun c => c.launch == l && c.splice == sp && bits (vget c.work.words 0 0) 23 16 != 0

/-- The gangs of an aborting launch that can go, go, and with the last of them its splices; a splice stays while an issued command of a
copy queue works on it (R322). -/
def State.reapLaunch (s : State) (l : Nat) : State :=
  let s := (s.gangs.filter (·.launch == l)).foldl (fun s g => match s.gang? l g.idx with
    | some g => s.reapGang g
    | none => s) s
  if s.gangs.any (·.launch == l) then s
  else { s with splices := s.splices.filter fun x => x.launch != l || s.copyOnSplice l x.idx }

/-- A gang is killed (R322 step 1): its streams stop at their belay points, its committed stores proceed, its waiter entries are
unlinked, and its tags advance (R161). -/
def State.killGang (s : State) (g : Gang) : State :=
  let s := s.unlinkWaiters g
  let s := s.rollbackGang g.launch g.idx
  let s := match s.gang? g.launch g.idx with
    | some g => (s.countReused g).updGang g.launch g.idx fun g => g.advanceTags fun _ => true
    | none => s
  (s.streamsOf g.launch g.idx).foldl (fun s t =>
    ((s.flushCommitted t).loseAnswer t).updStream t.sid fun t =>
      { t with
        stopped := true
        wait := match t.wait with
          | .knot h n => .knot h n
          | _ => .none }) s

/-- The launch aborts (R322): every gang is killed and discarded, the region table dropped, a class-7 record posted; its completion
writes the error stamp. A gang goes when its committed stores are visible. -/
def State.abortLaunch (s : State) (l k cause : Nat) (tpc : Word) : State :=
  let s := (s.gangs.filter (·.launch == l)).foldl State.killGang s
  let pasid := s.pasidOf l
  let s :=
    { s with
      marks := s.marks.filter (·.launch != l), matCmds := s.matCmds.filter (·.launch != l), locks := s.locks.filter (·.launch != l)
      signals := s.signals ++ [Signal.irq (s.vectorOf pasid) (.launchAbort l)] }
  let s := s.updLaunch l fun x => { x with aborting := true, regions := x.dropRegions }
  (s.reapLaunch l).addRecord { addr := tpc, src := gangSrc l k, pasid := pasid, reason := cause, acc := 0, skind := .gang, cls := 7 } .nothing

/-- Another stream of the gang is stopped at its belay point (R320). -/
def State.stopStream (s : State) (t : Stream) : State :=
  (s.rollbackStream t).updStream t.sid fun t => { t with stopped := true }

/-- A gang takes a trap raised by one of its streams, which has no uncommitted speculation (R319 to R322): sr_trapcause,
sr_trapinfo and sr_trappc are written, HM is set, the stream continues at HPC and the gang's other streams stop. Without a
handler, in handler mode, or for an abort cause the launch aborts. -/
def State.takeTrap (s : State) (l k sid cause : Nat) (info tpc : Word) (force : Bool := false) : State :=
  match s.launch? l, s.gang? l k with
  | some x, some g =>
    if x.hpc = 0 || g.hm || force then s.abortLaunch l k cause tpc
    else
      let s := (s.streamsOf l k).foldl (fun s t => if t.sid != sid && decide (1 < t.homes.length) then s.splitParts t else s) s
      let s := (s.streamsOf l k).foldl (fun s t => if t.sid != sid then s.stopStream t else s) s
      let slots := ((s.stream? sid).map fun t => t.slotsOf k).getD []
      let s := s.updGang l k fun g =>
        { g with
          trapCause := toWord cause, trapInfo := info, trapPc := tpc, hm := true
          hmSlices := slots.foldl (fun m i => m ||| (1#8 <<< i)) 0#8 }
      s.updStream sid fun t =>
        { t with pc := x.hpc, wait := .none, spin := Spin.empty, answers := [], walkFails := [], partsDone := [], loading := false, claim := none, grant := none, operands := [] }
  | _, _ => s

/-- A packed stream of some gangs that has committed stores not yet visible: before the gang takes a trap, which splits that stream, they
become visible, so that its parts come after them (R102). -/
def State.unflushed (s : State) (t : Stream) (gangs : List Nat) : Option Stream :=
  s.streams.find? fun u => u.launch == t.launch && decide (1 < u.homes.length) && gangs.any u.has &&
    (s.storesOf u).any fun x => x.2.committed

/-- A stream raises a trap: a packed stream first splits, and each home gang whose part raised it takes it (R320). -/
def State.raiseTrap (s : State) (t : Stream) (gangs : List Nat) (cause : Nat) (info tpc : Word) : State :=
  let s := if 1 < t.homes.length then s.splitParts t else s
  gangs.foldl (fun s k =>
    match (s.streamsOf t.launch k).find? fun u => u.pc == t.pc && u.slotsOf k == t.slotsOf k with
    | some u => s.takeTrap t.launch k u.sid cause info tpc
    | none => s) s

/-- Return from the handler (R321): HM is cleared, the stream resumes at sr_trappc, and every stopped stream is released.
Legal in handler mode in a stream that holds every slice that entered and has not exited. -/
def State.returnFromTrap (s : State) (t : Stream) (k : Nat) : Option State :=
  match s.gang? t.launch k with
  | none => none
  | some g =>
    let mine := (t.slotsOf k).foldl (fun m i => m ||| (1#8 <<< i)) 0#8
    if g.hm && mine == g.hmSlices &&& ~~~g.exited && t.homes == [k] then
      let s := s.updGang t.launch k fun g => { g with hm := false, hmSlices := 0 }
      let s := (s.streamsOf t.launch k).foldl (fun s u => s.updStream u.sid fun u => { u with stopped := false }) s
      some (s.updStream t.sid fun t => { t with pc := g.trapPc })
    else none

/-! Issuing an instruction. -/

/-- How an instruction ends (R44, R123, R276, R326). -/
inductive Res where
  /-- the effect is done; the PC advances past the instruction -/
  | done (s : State)
  /-- the effect is done, which was irrevocable for an I/O lane (R308, R309) -/
  | io (s : State)
  /-- the effect is done and the PC is set -/
  | moved (s : State)
  /-- a precise trap, by the home gangs whose part raised it -/
  | trap (cause : Nat) (info : Word) (gangs : List Nat)
  /-- a trap whose sr_trappc is past the instruction (R264) -/
  | trapNext (cause : Nat) (info : Word)
  /-- a precise trap after part of the effect: a lane refused (R133, R314), a line in error (R134) -/
  | raise (s : State) (cause : Nat) (info : Word) (gangs : List Nat)
  /-- a translation fault (R77): VA, reason, access, gang, and sr_trapinfo should its resolution fail (R325) -/
  | fault (va : Word) (reason acc gang : Nat) (info : Word)
  /-- TLB misses (R82): the accesses that wait for a walk, by VA, access and gang; the instruction executes again -/
  | miss (s : State) (vas : List (Word × Access × Nat))
  /-- the stream waits and then executes the instruction again -/
  | again (s : State) (w : Wait)
  /-- the stream first comes to a commit point (log 9) -/
  | drain
  /-- the instruction is done and the stream waits -/
  | park (s : State) (w : Wait)

/-- How an instruction issues. -/
structure Issue where
  len : Nat
  hold : Bool
  /-- irrevocable (R308): only at a commit point, every older access performed -/
  irrevocable : Bool := false
  /-- waits first as if H were set (R272) -/
  settleFirst : Bool := false
  /-- an instruction that a qualifying iteration may hold (R282) -/
  spinOk : Bool := true
  deriving DecidableEq, Repr

/-- An instruction that would run under speculation now (R305): an older one is uncommitted, or an older store is not yet
visible. -/
def State.speculative (s : State) (t : Stream) : Bool := !s.drained t

/-- Belay entries in use in a gang (R306): the shadow copies of sr_fflags and the generators take none. -/
def Gang.belayUsed (g : Gang) : Nat :=
  (g.belay.filter fun e => match e.reg with | .fflags | .seed => false | _ => true).length

/-- Entries in use in a gang's store buffer (R126): one for each line or block that an instruction writes. -/
def Gang.storesUsed (g : Gang) : Nat := (g.sb.map fun e => (e.sid, e.seq, e.place)).eraseDups.length

/-- A gang's belay buffer and store buffer hold what they must (R306, R126). -/
def State.fits (s : State) (t : Stream) : Bool :=
  t.homes.all fun k => match s.gang? t.launch k with
    | some g => decide (g.belayUsed ≤ 8) && decide (g.storesUsed ≤ 32)
    | none => true

/-- The instruction that has done its effect commits, or joins the uncommitted ones (R305, R309). -/
def State.retire (s : State) (t : Stream) (i : Issue) (spec : Bool) : State :=
  let pc := t.pc
  let s :=
    if spec then s.updStream t.sid fun t => { t with unc := t.unc ++ [{ seq := s.seq, pc := pc, load := t.loading }] }
    else
      let s := t.homes.foldl (fun s k => s.updGang t.launch k fun g =>
        { g with sb := g.sb.map fun e => if e.seq == s.seq then { e with committed := true } else e }) s
      let core := ((t.homes.head?.bind (s.gang? t.launch)).bind Gang.core)
      let s := s.countCore core 1 (s.pasidOf t.launch) 1
      s.updStream t.sid fun t =>
        if i.irrevocable then { t with rbCount := 0, careful := 0 } else t.committedAt pc
  let s := s.updStream t.sid fun t =>
    { t with
      answers := [], walkFails := [], partsDone := [], loading := false, claim := none, grant := none, operands := [], popped := none
      spin := { t.spin with instrs := t.spin.instrs + 1, ok := t.spin.ok && i.spinOk } }
  { (if i.hold then s.settle t else s) with seq := s.seq + 1 }

/-- The PC of a stream moved past its instruction. -/
def State.advance (s : State) (sid len : Nat) : State := s.updStream sid fun t => { t with pc := t.pc + toWord len }

/-- A stream joins the TLB misses of its accesses and waits (R82). -/
def State.joinMisses (s : State) (t : Stream) (vas : List (Word × Access × Nat)) : State :=
  let s := vas.foldl (fun s x => match (s.gang? t.launch x.2.2).bind Gang.core with
    | some c => s.joinMiss (dieOf c) (s.pasidOf t.launch) t.sid (vaOf x.1) x.2.1
    | none => s) s
  s.updStream t.sid fun t => { t with wait := .walk }

/-- A precise trap raised from the state `s'`, once no packed stream of the gangs has a committed store left to become visible. -/
def State.raiseWhenFlushed (s s' : State) (t : Stream) (gangs : List Nat) (cause : Nat) (info : Word) : State :=
  match s.unflushed t gangs with
  | some u => (s.rollbackStream u).flushCommitted u
  | none => s'.raiseTrap t gangs cause info t.pc

/-- The stream that a translation fault of gang k parks: a packed stream first splits, and the part of that gang parks (R319, R320). -/
def State.faulting (s : State) (t : Stream) (k : Nat) : State × Option Stream :=
  if 1 < t.homes.length then
    let s := s.splitParts t
    (s, (s.streamsOf t.launch k).find? fun u => u.pc == t.pc && u.slotsOf k == t.slotsOf k)
  else (s, some t)

/-- What a stream's instruction leaves (R44, R123, R305): a trap or a fault of an instruction under speculation waits for
commit, and an instruction that finds no room in a buffer waits (R126, R306). -/
def State.finish (s : State) (t : Stream) (i : Issue) (spec : Bool) (r : Res) : State :=
  match r with
  | .done s' => if s'.fits t then (s'.advance t.sid i.len).retire t i spec else s.drainStep t
  | .io s' => (s'.advance t.sid i.len).retire t { i with irrevocable := true } spec
  | .moved s' => if s'.fits t then s'.retire t i spec else s.drainStep t
  | .park s' w => (s'.advance t.sid i.len |>.updStream t.sid fun t => { t with wait := w }).retire t i spec
  | .drain => s.drainStep t
  | .miss s' vas => (if spec then s else s').joinMisses t vas
  | .again s' w => s'.updStream t.sid fun t => { t with wait := w }
  | .trap cause info gangs => if spec then s.drainStep t else s.raiseWhenFlushed s t gangs cause info
  | .trapNext cause info =>
    match s.unflushed t t.homes with
    | some u => (s.rollbackStream u).flushCommitted u
    | none =>
      let s := (s.advance t.sid i.len).retire t i false
      match s.stream? t.sid with
      | some t => s.raiseTrap t t.homes cause info t.pc
      | none => s
  | .raise s' cause info gangs => if spec then s.drainStep t else s.raiseWhenFlushed s' t gangs cause info
  | .fault va reason acc k info =>
    if spec then s.drainStep t
    else
      let rec' : FaultRecord :=
        { addr := va, src := gangSrc t.launch k, pasid := s.pasidOf t.launch, reason := reason, acc := acc, skind := .gang, cls := 1 }
      let n := s.seq
      match s.faulting t k with
      | (s, some u) =>
        (s.addRecord rec' (.stream u.sid info)).updStream u.sid fun t => { t with wait := .fault n, walkFails := [], spin := Spin.empty }
      | (s, none) => s

/-- Issue one instruction of the issuing stream: `eff` gives its effect from the stream, who writes, and the state. -/
def State.issue (s : State) (i : Issue) (eff : Stream → Who → State → Res) : Host.Outcome State Fault Refusal :=
  match s.cur.bind s.stream? with
  | none => .fault .noIssuingStream
  | some t =>
    let spec := s.speculative t
    if spec && (i.irrevocable || decide (0 < t.careful)) then .next (s.drainStep t)
    else
      let s := if i.settleFirst then s.settle t else s
      let alone := t.homes.all fun k => decide ((s.streamsOf t.launch k).length ≤ 1)
      .next (s.finish t i spec (eff t { sid := t.sid, seq := s.seq, spec := spec, alone := alone, tick := s.ticks } s))

/-- Parts of an instruction marked as executed (R249). -/
def State.markDone (s : State) (sid len : Nat) (gangs : List Nat) : State :=
  s.updStream sid fun u => { u with partsDone := gangs, doneLen := len }

/-- A packed stream splits at an instruction that some of its parts have executed (R249, R320). -/
def State.passParts (s : State) (t : Stream) (len : Nat) (done : List Nat) : State :=
  let s := s.markDone t.sid len done
  match s.stream? t.sid with
  | some t => s.splitParts t
  | none => s

/-- The effect of an instruction that executes once per home-gang part, in ascending order (R249). A part that has to wait leaves the parts
before it done, and a part that waits at a knot itself too; under speculation the instruction leaves nothing until every part completes.
When a part raises a trap or a fault, the stream splits: earlier parts have executed, the others execute on their own (R320, R326). -/
def runParts (i : Issue) (eff : Part → Who → State → Res) (t : Stream) (w : Who) (s0 : State) (all : List Part) :
    Bool → List Part → State → Res
  | io, [], s => if io then .io s else .done s
  | io, p :: rest, s =>
    if t.past p.gang then runParts i eff t w s0 all io rest s
    else
      let before := (all.filter fun q => q.gang != p.gang && !rest.any fun r => r.gang == q.gang).map (·.gang)
      let keep := fun (s : State) => if w.spec || all.length == 1 then s else s.markDone t.sid i.len before
      match eff p w s with
      | .done s' => runParts i eff t w s0 all io rest s'
      | .io s' => runParts i eff t w s0 all true rest s'
      | .again s' x => if w.spec && all.length != 1 then .again s0 x else .again (keep s') x
      | .miss s' vas => .miss (keep s') vas
      | .drain => .drain
      | .park s' x =>
        if rest.all fun r => t.past r.gang then .park s' x
        else .again (s'.markDone t.sid i.len (before ++ [p.gang])) x
      | r =>
        if w.spec || all.length == 1 then r
        else if before.isEmpty then .again (s.splitParts t) .none
        else .moved (s.passParts t i.len before)

/-- The effect on every part of a stream. -/
def onParts (i : Issue) (eff : Part → Who → State → Res) (t : Stream) (w : Who) (s : State) : Res :=
  runParts i eff t w s t.parts false t.parts s

/-- Issue an instruction that executes once per home-gang part. -/
def State.issueParts (s : State) (i : Issue) (eff : Part → Who → State → Res) : Host.Outcome State Fault Refusal :=
  s.issue i (onParts i eff)

/-- An event's outcome. -/
abbrev Out := Host.Outcome State Fault Refusal

end Sys2Proof.Machine
end

