-- ==== Sys2Proof/Machine/Pool.lean ====
section
/-! DEFINITION. The pool of queue entries of a core, which its matrix queue, copy queue and cross-lane queue draw on (R226, R227). -/

namespace Sys2Proof.Machine

/-- The core of a gang. -/
def State.coreOf (s : State) (l k : Nat) : Option Nat := (s.gang? l k).bind Gang.core

/-- The core a stream runs on. -/
def State.streamCore (s : State) (t : Stream) : Option Nat := t.homes.findSome? fun k => s.coreOf t.launch k

/-- The core whose resources a stream waits for: its own, of an absent one its splice's (R276). -/
def State.waitCore (s : State) (t : Stream) : Option Nat :=
  match s.streamCore t with
  | some c => some c
  | none => (s.splice? t.launch t.splice).bind (·.core)

/-- QPOOL at reset (R226). -/
def qpoolReset : Word := 0x0000_2008_3010_4010#64

/-- The QPOOL register of a core. -/
def State.qpool (s : State) (core : Nat) : Word := ((s.io.qpool.find? (·.1 == core)).map (·.2)).getD qpoolReset

/-- The queues that share a pool. -/
def poolQueues : List PoolQueue := [.matrix, .copy, .cross]

/-- A queue's minimum and cap (R226). -/
def poolLimits (q : Word) : PoolQueue → Nat × Nat
  | .matrix => (bits q 7 0, bits q 15 8)
  | .copy => (bits q 23 16, bits q 31 24)
  | .cross => (bits q 39 32, bits q 47 40)

/-- Entries of a core's pool that a queue holds: its commands, the reductions whose result has not returned, and what has been granted
and not yet used. -/
def State.poolUse (s : State) (core : Nat) (q : PoolQueue) : Nat :=
  (match q with
    | .matrix => (s.matCmds.filter (·.core == core)).length
    | .copy => (s.coreCmds.filter (·.core == core)).length
    | .cross => ((s.gangs.filter fun g => g.core == some core).map fun g => (g.pending.filter (·.net)).length).sum) +
    (s.streams.filter fun t => t.grant == some q && s.waitCore t == some core).length

/-- A queue of the core would be granted an entry: below its minimum always, also one that a write of QPOOL has just raised while all 128
entries are in use (log 59); else below its cap, from the entries that the other queues' unmet minimums leave free (R227). -/
def State.poolFree (s : State) (core : Nat) (q : PoolQueue) : Bool :=
  let mine := s.poolUse core q
  let (least, most) := poolLimits (s.qpool core) q
  let used := (poolQueues.map fun x => s.poolUse core x).sum
  let kept := (poolQueues.map fun x => if x = q then 0 else (poolLimits (s.qpool core) x).1 - s.poolUse core x).sum
  if mine < least then true else decide (mine < most) && decide (used + kept < 128)

/-- The requests of a core's streams that wait for an entry: stream, queue, tick of arrival. -/
def State.poolRequests (s : State) (core : Nat) : List (Nat × PoolQueue × Nat) :=
  s.streams.filterMap fun t => match t.wait with
    | .pool q n => if s.waitCore t == some core then some (t.sid, q, n) else none
    | _ => none

/-- The stream holds a grant, or an entry is free and no earlier request is of this queue or could be granted now (R227). -/
def State.poolGrant (s : State) (sid core : Nat) (q : PoolQueue) : Bool :=
  ((s.stream? sid).any fun t => t.grant == some q) || (s.poolFree core q && !(s.poolRequests core).any fun x => x.2.1 == q || s.poolFree core x.2.1)

/-- QUEUE_POOL_GRANT (R227): the earliest request that can be granted, if it is this stream's. -/
def execQueuePoolGrant (core sid : Nat) (s : State) : Out :=
  let can := (s.poolRequests core).filter fun x => s.poolFree core x.2.1
  match (sortBy (fun a b => decide (a.2.2 ≤ b.2.2)) can).head? with
  | some (n, q, _) => if n = sid then .next (s.updStream sid fun t => { t with wait := .none, grant := some q }) else .next s
  | none => .next s

/-- A reduction takes an entry of the cross-lane queue (R226), or waits for one. -/
def State.withNet (s : State) (t : Stream) (w : Who) (eff : Res) : Res :=
  match s.streamCore t with
  | some core => if s.poolGrant t.sid core .cross then eff else .again s (.pool .cross w.tick)
  | none => eff

/-- The entry is held until the reduction's result returns: the newest of the results that it has added to those of `before`. -/
def State.holdNet (s before : State) (t : Stream) : State :=
  let count := fun (s : State) (k : Nat) => ((s.gang? t.launch k).map (·.pending.length)).getD 0
  match t.homes.find? fun k => decide (count before k < count s k) with
  | none => s
  | some k => s.updGang t.launch k fun g =>
    { g with
      pending := match g.pending with
        | p :: rest => { p with net := true } :: rest
        | [] => [] }

end Sys2Proof.Machine
end

