-- ==== Sys2Proof/Machine/Operands.lean ====
section
/-! DEFINITION. The operand forms: what a stream reads of a vector, scalar or mask register and where its results go
(R27 to R29, R40, R157, R173, R183, R198, R249), and the check on extended registers (R159). -/

namespace Sys2Proof.Machine

/-- A gang's vector register as the stream reads it, in positions of `w` bits. -/
def State.gangV (s : State) (l k sid tick r : Nat) (w : Nat := 64) : VReg :=
  match s.gang? l k with
  | some g => g.readV sid tick r w
  | none => zeroV

/-- A gang's scalar register as the stream reads it. -/
def State.gangS (s : State) (l k sid tick r : Nat) : Word :=
  match s.gang? l k with
  | some g => g.readS sid tick r
  | none => 0

/-- A vector register by position: each slot's slice reads its home rows; an empty slot of a packed stream reads as zero
(R198, R256). Positions have `w` bits. -/
def State.rows (s : State) (t : Stream) (tick r : Nat) (w : Nat := 64) : VReg :=
  match t.homes with
  | [k] => s.gangV t.launch k t.sid tick r w
  | ks =>
    let vs := ks.map fun k => (k, s.gangV t.launch k t.sid tick r w)
    byLane fun l => match vget t.slots (l / 4) none with
      | some k => ((vs.find? (·.1 == k)).map fun x => lane x.2 l).getD 0
      | none => 0

/-- A scalar register by position: each slice reads its home gang's (R249). -/
def State.scalarRows (s : State) (t : Stream) (tick r : Nat) : VReg :=
  match t.homes with
  | [k] => let x := s.gangS t.launch k t.sid tick r; byLane fun _ => x
  | ks =>
    let vs := ks.map fun k => (k, s.gangS t.launch k t.sid tick r)
    byLane fun l => match vget t.slots (l / 4) none with
      | some k => ((vs.find? (·.1 == k)).map (·.2)).getD 0
      | none => 0

/-- A mask register by position; m0 reads as the stream's active mask (R157, R248). -/
def State.maskRows (s : State) (t : Stream) (tick r : Nat) : Mask :=
  if r = 0 then t.active
  else
    t.homes.foldl (fun m k => match s.gang? t.launch k with
      | some g => m ||| (g.readM t.sid tick r &&& lanesOf (t.slotsOf k))
      | none => m) 0#32

/-- The active mask of an instruction with a MASK field (R40). -/
def State.activeMask (s : State) (t : Stream) (tick : Nat) (p : Prefix) : Mask := t.active &&& s.maskRows t tick p.mask.toNat

/-- Sub-element j of width w (R38). -/
def subElem (x : Word) (w j : Nat) : Nat := x.toNat / 2 ^ (w * j) % 2 ^ w

/-- A lane made of sub-elements of width w, lowest first (R38). -/
def packElems (w : Nat) (l : List Nat) : Word := toWord (l.foldr (fun x acc => x % 2 ^ w + 2 ^ w * acc) 0)

/-- A lane whose every sub-element is x. -/
def splat (w x : Nat) : Word := packElems w (List.replicate (64 / w) x)

/-- The signed 6-bit immediate of a B field (R28, R29). -/
def imm6 (b : BitVec 6) : Int := b.toInt

/-- Operand B of a VR word at sub-element width w: a register, a broadcast scalar, or an immediate as `imm` writes it
(R28). -/
def State.operandB (s : State) (t : Stream) (tick : Nat) (f : VRFields) (w : Nat) (imm : Int → Nat) : VReg :=
  match f.x.toNat with
  | 0 => s.rows t tick f.b.toNat
  | 1 => let x := s.scalarRows t tick f.b.toNat; byLane fun l => splat w ((lane x l).toNat % 2 ^ w)
  | _ => let x := splat w (imm (imm6 f.b)); byLane fun _ => x

/-- The registers named that are above v31 in gangs that hold no extended block: the lowest and those gangs (R159). -/
def State.notHeld (s : State) (t : Stream) (regs : List Nat) : Option (Nat × List Nat) :=
  match (regs.filter fun r => decide (32 ≤ r)).foldl (fun (o : Option Nat) r => some (match o with
      | some q => min q r
      | none => r)) none with
  | none => none
  | some r =>
    match t.homes.filter fun k => match s.gang? t.launch k with | some g => !g.xb | none => false with
    | [] => none
    | ks => some (r, ks)

/-- An effect unless a register above v31 is named without an extended block (R159). -/
def State.withRegs (s : State) (t : Stream) (regs : List Nat) (eff : Res) : Res :=
  match s.notHeld t regs with
  | some (r, ks) => .trap 7 (toWord r) ks
  | none => eff

/-- Rows `m` of a vector register written from `x`, each slice to its home rows. -/
def State.writeRows (s : State) (t : Stream) (w : Who) (long : Bool) (width r : Nat) (m : Mask) (x : VReg) : State :=
  t.homes.foldl (fun s k => s.updGang t.launch k fun g =>
    let m := m &&& lanesOf (t.slotsOf k)
    if m = 0 then g else g.putV w long width r m x) s

/-- A scalar register of every home gang written. -/
def State.writeScalars (s : State) (t : Stream) (w : Who) (long : Bool) (r : Nat) (x : Word) : State :=
  t.homes.foldl (fun s k => s.updGang t.launch k fun g => g.putS w long r x) s

/-- A mask from a function of lanes. -/
def maskOf (f : Nat → Bool) : Mask := (List.range 32).foldl (fun m l => if f l then m ||| (1#32 <<< l) else m) 0#32

/-- How a VR word issues: alone, in its 16-bit form, or under a prefix (R24, R41). `short` marks a 16-bit form, whose
result is short class. -/
structure VX where
  issue : Issue
  short : Bool
  p : Prefix

/-- A 32-bit VR word alone. -/
def VX.word (f : VRFields) : VX := { issue := { len := 4, hold := f.h }, short := false, p := Prefix.none }

/-- A 16-bit form (R24). -/
def VX.half (f : HalfFields) : VX := { issue := { len := 2, hold := f.h }, short := true, p := Prefix.none }

/-- A prefixed pair (R41). -/
def VX.pair (p : Prefix) (f : VRFields) : VX := { issue := { len := 8, hold := f.h }, short := false, p := p }

/-- The fields a 16-bit form executes with: D, D and A at type T (R24). -/
def halfBinary (f : HalfFields) (t : Nat) : VRFields :=
  { x := 0, b := f.a.setWidth 6, a := f.d.setWidth 6, d := f.d.setWidth 6, t := BitVec.ofNat 3 t, h := f.h }

/-- The fields of MOV and SMOV in 16 bits: D, A and no B (R24). -/
def halfUnary (f : HalfFields) : VRFields :=
  { x := 0, b := 0, a := f.a.setWidth 6, d := f.d.setWidth 6, t := 0, h := f.h }

/-- The width of an integer type (R36). -/
def intWidth (t : BitVec 3) : Nat := 64 / 2 ^ min t.toNat 4

/-- Results written in the active lanes, zeros in the stream's other lanes under Z; an empty mask writes nothing
(R173). -/
def State.writeResult (s : State) (t : Stream) (w : Who) (long : Bool) (width : Nat) (p : Prefix) (d : Nat) (m : Mask)
    (x : VReg) : State :=
  if m = 0 then s
  else if p.z then s.writeRows t w long width d t.active (byLane fun l => if m.getLsbD l then lane x l else 0)
  else s.writeRows t w long width d m x

/-- The registers a VR word names: D, A, B where it is a vector register, C under CV (R159). -/
def vrRegs (p : Prefix) (f : VRFields) : List Nat :=
  [f.d.toNat, f.a.toNat] ++ (if f.x = 0 then [f.b.toNat] else []) ++ (if p.cv then [p.c.toNat] else [])

end Sys2Proof.Machine
end

