-- ==== Sys2Proof/Machine/VectorInt.lean ====
section
/-! DEFINITION. Vector integer and logic instructions, OP 0x00 to 0x1E (R173 to R181). -/

namespace Sys2Proof.Machine

/-- The clamp of SAT to w signed bits (R173). -/
def clampS (r : Int) (w : Nat) : Int := max (-(2 ^ (w - 1) : Int)) (min r (2 ^ (w - 1) - 1))

/-- A sub-element result: clamped under SAT, else truncated (R173). -/
def narrowInt (sat : Bool) (w : Nat) (r : Int) : Nat := truncZ (if sat then clampS r w else r) w

/-- The common effect of R173: `fn` gives a lane of D from lanes of A, B, C and the old D. -/
def vrInt (x : VX) (f : VRFields) (w : Nat) (fn : Word → Word → Word → Word → Word) (s : State) : Out :=
  s.issue x.issue fun t who s =>
    s.withRegs t (vrRegs x.p f) <|
      let m := s.activeMask t who.tick x.p
      let a := s.rows t who.tick f.a.toNat
      let b := s.operandB t who.tick f w (fun i => truncZ i w)
      let d := s.rows t who.tick f.d.toNat
      let c := if x.p.cv then s.rows t who.tick x.p.c.toNat else d
      .done (s.writeResult t who false w x.p f.d.toNat m (byLane fun l => fn (lane a l) (lane b l) (lane c l) (lane d l)))

/-- A lane function from a function of sub-elements of width w (R173). -/
def perElem (w : Nat) (g : Nat → Nat → Nat → Nat → Nat) (a b c d : Word) : Word :=
  packElems w ((List.range (64 / w)).map fun j => g (subElem a w j) (subElem b w j) (subElem c w j) (subElem d w j))

/-- An instruction by its function of sub-elements. -/
def vrElem (x : VX) (f : VRFields) (g : Nat → Nat → Nat → Nat → Nat → Nat) (s : State) : Out :=
  vrInt x f (intWidth f.t) (perElem (intWidth f.t) (g (intWidth f.t))) s

/-- The all-ones sub-element of a compare (R175). -/
def ones (w : Nat) (c : Bool) : Nat := if c then 2 ^ w - 1 else 0

/-- Number of 1 bits below position n. -/
def popcount : Nat → Nat → Nat
  | 0, _ => 0
  | n + 1, x => x % 2 + popcount n (x / 2)

/-- Bits of x reversed in w bits. -/
def reverseBits : Nat → Nat → Nat
  | 0, _ => 0
  | n + 1, x => x % 2 * 2 ^ n + reverseBits n (x / 2)

/-- Bit length of a number. -/
def bitLen (x : Nat) : Nat := if x = 0 then 0 else Nat.log2 x + 1

/-- Position and length of a bitfield control (R178). -/
def bfField (w b : Nat) : Nat × Nat :=
  let h := Nat.log2 w
  let pos := b % 2 ^ h
  (pos, min (b / 2 ^ h % 2 ^ (h + 1)) (w - pos))

/-- IADD: a + b (R175). -/
def elemIadd (sat : Bool) (w a b _ _ : Nat) : Nat := narrowInt sat w (sextN a w + sextN b w)
/-- ISUB: a - b. -/
def elemIsub (sat : Bool) (w a b _ _ : Nat) : Nat := narrowInt sat w (sextN a w - sextN b w)
/-- IADDS: unsigned saturating sum (R177). -/
def elemIadds (w a b _ _ : Nat) : Nat := min (a + b) (2 ^ w - 1)
/-- ISUBS: unsigned saturating difference (R177). -/
def elemIsubs (_ a b _ _ : Nat) : Nat := a - b
/-- IMUL: low half of the product. -/
def elemImul (sat : Bool) (w a b _ _ : Nat) : Nat := narrowInt sat w (sextN a w * sextN b w)
/-- IMULH: signed high half. -/
def elemImulh (w a b _ _ : Nat) : Nat := truncZ (sextN a w * sextN b w / 2 ^ w) w
/-- UMULH: unsigned high half. -/
def elemUmulh (w a b _ _ : Nat) : Nat := a * b / 2 ^ w
/-- IMAD: c + a × b, clamped once (R176). -/
def elemImad (sat : Bool) (w a b c _ : Nat) : Nat := narrowInt sat w (sextN c w + sextN a w * sextN b w)
/-- IMIN. -/
def elemImin (w a b _ _ : Nat) : Nat := if sextN a w < sextN b w then a else b
/-- IMAX. -/
def elemImax (w a b _ _ : Nat) : Nat := if sextN a w > sextN b w then a else b
/-- UMIN. -/
def elemUmin (_ a b _ _ : Nat) : Nat := if a < b then a else b
/-- UMAX. -/
def elemUmax (_ a b _ _ : Nat) : Nat := if a > b then a else b
/-- IABS. -/
def elemIabs (sat : Bool) (w a _ _ _ : Nat) : Nat := narrowInt sat w (sextN a w).natAbs
/-- SHL; under SAT the exact signed product is clamped. -/
def elemShl (sat : Bool) (w a b _ _ : Nat) : Nat := narrowInt sat w (sextN a w * 2 ^ (b % w))
/-- SHR. -/
def elemShr (w a b _ _ : Nat) : Nat := a / 2 ^ (b % w)
/-- SAR. -/
def elemSar (w a b _ _ : Nat) : Nat := truncZ (sextN a w / 2 ^ (b % w)) w
/-- CLZ. -/
def elemClz (w a _ _ _ : Nat) : Nat := w - bitLen a
/-- BFX (R178). -/
def elemBfx (w a b _ _ : Nat) : Nat := let (pos, len) := bfField w b; a / 2 ^ pos % 2 ^ len
/-- BFI (R178). -/
def elemBfi (w a b _ d : Nat) : Nat :=
  let (pos, len) := bfField w b
  d - d / 2 ^ pos % 2 ^ len * 2 ^ pos + a % 2 ^ len * 2 ^ pos

/-- IADD under an issue form. -/
def vrIadd (x : VX) (f : VRFields) (s : State) : Out := vrElem x f (elemIadd x.p.sat) s
/-- ISUB under an issue form. -/
def vrIsub (x : VX) (f : VRFields) (s : State) : Out := vrElem x f (elemIsub x.p.sat) s
/-- IADDS. -/
def vrIadds (x : VX) (f : VRFields) (s : State) : Out := vrElem x f elemIadds s
/-- ISUBS. -/
def vrIsubs (x : VX) (f : VRFields) (s : State) : Out := vrElem x f elemIsubs s
/-- IMUL. -/
def vrImul (x : VX) (f : VRFields) (s : State) : Out := vrElem x f (elemImul x.p.sat) s
/-- IMULH. -/
def vrImulh (x : VX) (f : VRFields) (s : State) : Out := vrElem x f elemImulh s
/-- UMULH. -/
def vrUmulh (x : VX) (f : VRFields) (s : State) : Out := vrElem x f elemUmulh s
/-- IMAD. -/
def vrImad (x : VX) (f : VRFields) (s : State) : Out := vrElem x f (elemImad x.p.sat) s
/-- IMIN. -/
def vrImin (x : VX) (f : VRFields) (s : State) : Out := vrElem x f elemImin s
/-- IMAX. -/
def vrImax (x : VX) (f : VRFields) (s : State) : Out := vrElem x f elemImax s
/-- UMIN. -/
def vrUmin (x : VX) (f : VRFields) (s : State) : Out := vrElem x f elemUmin s
/-- UMAX. -/
def vrUmax (x : VX) (f : VRFields) (s : State) : Out := vrElem x f elemUmax s
/-- IABS. -/
def vrIabs (x : VX) (f : VRFields) (s : State) : Out := vrElem x f (elemIabs x.p.sat) s
/-- SHL. -/
def vrShl (x : VX) (f : VRFields) (s : State) : Out := vrElem x f (elemShl x.p.sat) s
/-- SHR. -/
def vrShr (x : VX) (f : VRFields) (s : State) : Out := vrElem x f elemShr s
/-- SAR. -/
def vrSar (x : VX) (f : VRFields) (s : State) : Out := vrElem x f elemSar s
/-- AND. -/
def vrAnd (x : VX) (f : VRFields) (s : State) : Out := vrInt x f (intWidth f.t) (fun a b _ _ => a &&& b) s
/-- OR. -/
def vrOr (x : VX) (f : VRFields) (s : State) : Out := vrInt x f (intWidth f.t) (fun a b _ _ => a ||| b) s
/-- XOR. -/
def vrXor (x : VX) (f : VRFields) (s : State) : Out := vrInt x f (intWidth f.t) (fun a b _ _ => a ^^^ b) s
/-- ANDN. -/
def vrAndn (x : VX) (f : VRFields) (s : State) : Out := vrInt x f (intWidth f.t) (fun a b _ _ => a &&& ~~~b) s
/-- POPC. -/
def vrPopc (x : VX) (f : VRFields) (s : State) : Out := vrElem x f (fun w a _ _ _ => popcount w a) s
/-- CLZ. -/
def vrClz (x : VX) (f : VRFields) (s : State) : Out := vrElem x f elemClz s
/-- BREV. -/
def vrBrev (x : VX) (f : VRFields) (s : State) : Out := vrElem x f (fun w a _ _ _ => reverseBits w a) s
/-- BFX. -/
def vrBfx (x : VX) (f : VRFields) (s : State) : Out := vrElem x f elemBfx s
/-- BFI. -/
def vrBfi (x : VX) (f : VRFields) (s : State) : Out := vrElem x f elemBfi s
/-- LEA (R179): B is read at 64 bits whatever T; T names the element size. -/
def vrLea (x : VX) (f : VRFields) (s : State) : Out :=
  vrInt x f 64 (fun a b _ _ => a + b * toWord (intWidth f.t / 8)) s
/-- ICMPEQ. -/
def vrIcmpeq (x : VX) (f : VRFields) (s : State) : Out := vrElem x f (fun w a b _ _ => ones w (a == b)) s
/-- ICMPLT. -/
def vrIcmplt (x : VX) (f : VRFields) (s : State) : Out := vrElem x f (fun w a b _ _ => ones w (decide (sextN a w < sextN b w))) s
/-- ICMPLTU. -/
def vrIcmpltu (x : VX) (f : VRFields) (s : State) : Out := vrElem x f (fun w a b _ _ => ones w (decide (a < b))) s
/-- SEL (R180). -/
def vrSel (x : VX) (f : VRFields) (s : State) : Out := vrElem x f (fun _ a b _ d => if d ≠ 0 then a else b) s
/-- MOV. -/
def vrMov (x : VX) (f : VRFields) (s : State) : Out := vrInt x f (intWidth f.t) (fun a _ _ _ => a) s

/-- IADD (R173, R175). -/
def execIadd (f : VRFields) (s : State) : Out := vrIadd (VX.word f) f s

/-- ISUB (R173, R175). -/
def execIsub (f : VRFields) (s : State) : Out := vrIsub (VX.word f) f s

/-- IADDS (R173, R175). -/
def execIadds (f : VRFields) (s : State) : Out := vrIadds (VX.word f) f s

/-- ISUBS (R173, R175). -/
def execIsubs (f : VRFields) (s : State) : Out := vrIsubs (VX.word f) f s

/-- IMUL (R173, R175). -/
def execImul (f : VRFields) (s : State) : Out := vrImul (VX.word f) f s

/-- IMULH (R173, R175). -/
def execImulh (f : VRFields) (s : State) : Out := vrImulh (VX.word f) f s

/-- UMULH (R173, R175). -/
def execUmulh (f : VRFields) (s : State) : Out := vrUmulh (VX.word f) f s

/-- IMAD (R173, R175). -/
def execImad (f : VRFields) (s : State) : Out := vrImad (VX.word f) f s

/-- IMIN (R173, R175). -/
def execImin (f : VRFields) (s : State) : Out := vrImin (VX.word f) f s

/-- IMAX (R173, R175). -/
def execImax (f : VRFields) (s : State) : Out := vrImax (VX.word f) f s

/-- UMIN (R173, R175). -/
def execUmin (f : VRFields) (s : State) : Out := vrUmin (VX.word f) f s

/-- UMAX (R173, R175). -/
def execUmax (f : VRFields) (s : State) : Out := vrUmax (VX.word f) f s

/-- IABS (R173, R175). -/
def execIabs (f : VRFields) (s : State) : Out := vrIabs (VX.word f) f s

/-- SHL (R173, R175). -/
def execShl (f : VRFields) (s : State) : Out := vrShl (VX.word f) f s

/-- SHR (R173, R175). -/
def execShr (f : VRFields) (s : State) : Out := vrShr (VX.word f) f s

/-- SAR (R173, R175). -/
def execSar (f : VRFields) (s : State) : Out := vrSar (VX.word f) f s

/-- AND (R173, R175). -/
def execAnd (f : VRFields) (s : State) : Out := vrAnd (VX.word f) f s

/-- OR (R173, R175). -/
def execOr (f : VRFields) (s : State) : Out := vrOr (VX.word f) f s

/-- XOR (R173, R175). -/
def execXor (f : VRFields) (s : State) : Out := vrXor (VX.word f) f s

/-- ANDN (R173, R175). -/
def execAndn (f : VRFields) (s : State) : Out := vrAndn (VX.word f) f s

/-- POPC (R173, R175). -/
def execPopc (f : VRFields) (s : State) : Out := vrPopc (VX.word f) f s

/-- CLZ (R173, R175). -/
def execClz (f : VRFields) (s : State) : Out := vrClz (VX.word f) f s

/-- BREV (R173, R175). -/
def execBrev (f : VRFields) (s : State) : Out := vrBrev (VX.word f) f s

/-- BFX (R173, R175). -/
def execBfx (f : VRFields) (s : State) : Out := vrBfx (VX.word f) f s

/-- BFI (R173, R175). -/
def execBfi (f : VRFields) (s : State) : Out := vrBfi (VX.word f) f s

/-- LEA (R173, R175). -/
def execLea (f : VRFields) (s : State) : Out := vrLea (VX.word f) f s

/-- ICMPEQ (R173, R175). -/
def execIcmpeq (f : VRFields) (s : State) : Out := vrIcmpeq (VX.word f) f s

/-- ICMPLT (R173, R175). -/
def execIcmplt (f : VRFields) (s : State) : Out := vrIcmplt (VX.word f) f s

/-- ICMPLTU (R173, R175). -/
def execIcmpltu (f : VRFields) (s : State) : Out := vrIcmpltu (VX.word f) f s

/-- SEL (R173, R175). -/
def execSel (f : VRFields) (s : State) : Out := vrSel (VX.word f) f s

/-- MOV (R173, R175). -/
def execMov (f : VRFields) (s : State) : Out := vrMov (VX.word f) f s

/-- The 16-bit form of IADD (R24, R181). -/
def execIadd16 (f : HalfFields) (s : State) : Out := vrIadd (VX.half f) (halfBinary f 1) s

/-- The 16-bit form of ISUB (R24, R181). -/
def execIsub16 (f : HalfFields) (s : State) : Out := vrIsub (VX.half f) (halfBinary f 1) s

/-- The 16-bit form of AND (R24, R181). -/
def execAnd16 (f : HalfFields) (s : State) : Out := vrAnd (VX.half f) (halfBinary f 0) s

/-- The 16-bit form of OR (R24, R181). -/
def execOr16 (f : HalfFields) (s : State) : Out := vrOr (VX.half f) (halfBinary f 0) s

/-- The 16-bit form of XOR (R24, R181). -/
def execXor16 (f : HalfFields) (s : State) : Out := vrXor (VX.half f) (halfBinary f 0) s

/-- The 16-bit form of SHL (R24, R181). -/
def execShl16 (f : HalfFields) (s : State) : Out := vrShl (VX.half f) (halfBinary f 1) s

/-- The 16-bit form of IMIN (R24, R181). -/
def execImin16 (f : HalfFields) (s : State) : Out := vrImin (VX.half f) (halfBinary f 1) s

/-- The 16-bit form of IMAX (R24, R181). -/
def execImax16 (f : HalfFields) (s : State) : Out := vrImax (VX.half f) (halfBinary f 1) s

/-- The 16-bit form of MOV (R24, R181). -/
def execMov16 (f : HalfFields) (s : State) : Out := vrMov (VX.half f) (halfUnary f) s

/-- NOP (R25): only the PC changes. -/
def execNop (s : State) : Out := s.issue { len := 2, hold := false } fun _ _ s => .done s

end Sys2Proof.Machine
end

