-- ==== Sys2Proof/Machine/Scalar.lean ====
section
/-! DEFINITION. Scalar instructions, OP 0x4C to 0x5B, and the special registers (R164 to R170). -/

namespace Sys2Proof.Machine

/-- A scalar register of a part's gang, as its stream reads it. -/
def State.partS (s : State) (p : Part) (tick : Nat) (r : BitVec 6) : Word := s.gangS p.launch p.gang p.sid tick r.toNat

/-- A scalar register of a part's gang written. -/
def State.setS (s : State) (p : Part) (w : Who) (long : Bool) (r : BitVec 6) (x : Word) : State :=
  s.updGang p.launch p.gang fun g => g.putS w long r.toNat x

/-- Operand B of an S word, before it is cut to the operation width (R29). -/
def State.scalarB (s : State) (p : Part) (tick : Nat) (f : VRFields) : Word :=
  if f.x = 0 then s.partS p tick f.b else BitVec.ofInt 64 (imm6 f.b)

/-- The operation width of an S word (R165). -/
def scalarWidth (t : BitVec 3) : Nat := 64 / 2 ^ min t.toNat 3

/-- An S word: r from a and b at width w, sign-extended (R165). -/
def sOp (i : Issue) (f : VRFields) (fn : Nat → Nat → Nat → Int) (s : State) : Out :=
  s.issueParts i fun p who s =>
    let w := scalarWidth f.t
    let a := (s.partS p who.tick f.a).toNat % 2 ^ w
    let b := (s.scalarB p who.tick f).toNat % 2 ^ w
    .done (s.setS p who false f.d (BitVec.ofInt 64 (sextN (truncZ (fn w a b) w) w)))

/-- A 32-bit word's issue. -/
def word (h : Bool) : Issue := { len := 4, hold := h }

/-- SADD under an issue. -/
def sSadd (i : Issue) (f : VRFields) (s : State) : Out := sOp i f (fun _ a b => a + b) s
/-- SMOV under an issue. -/
def sSmov (i : Issue) (f : VRFields) (s : State) : Out := sOp i f (fun _ a _ => a) s

/-- SADD (R165). -/
def execSadd (f : VRFields) (s : State) : Out := sSadd (word f.h) f s
/-- SSUB (R165). -/
def execSsub (f : VRFields) (s : State) : Out := sOp (word f.h) f (fun _ a b => (a : Int) - b) s
/-- SMUL (R165). -/
def execSmul (f : VRFields) (s : State) : Out := sOp (word f.h) f (fun _ a b => a * b) s
/-- SAND (R165). -/
def execSand (f : VRFields) (s : State) : Out := sOp (word f.h) f (fun _ a b => (a &&& b : Nat)) s
/-- SOR (R165). -/
def execSor (f : VRFields) (s : State) : Out := sOp (word f.h) f (fun _ a b => (a ||| b : Nat)) s
/-- SXOR (R165). -/
def execSxor (f : VRFields) (s : State) : Out := sOp (word f.h) f (fun _ a b => (a ^^^ b : Nat)) s
/-- SSHL (R165). -/
def execSshl (f : VRFields) (s : State) : Out := sOp (word f.h) f (fun w a b => a * 2 ^ (b % w)) s
/-- SSHR (R165). -/
def execSshr (f : VRFields) (s : State) : Out := sOp (word f.h) f (fun w a b => (a / 2 ^ (b % w) : Nat)) s
/-- SSAR (R165). -/
def execSsar (f : VRFields) (s : State) : Out := sOp (word f.h) f (fun w a b => sextN a w / 2 ^ (b % w)) s
/-- SMOV (R165). -/
def execSmov (f : VRFields) (s : State) : Out := sSmov (word f.h) f s
/-- The 16-bit form of SADD (R24). -/
def execSadd16 (f : HalfFields) (s : State) : Out := sSadd { len := 2, hold := f.h } (halfBinary f 0) s
/-- The 16-bit form of SMOV (R24). -/
def execSmov16 (f : HalfFields) (s : State) : Out := sSmov { len := 2, hold := f.h } (halfUnary f) s

/-- The bit set of SCMP (R166). -/
def compareBits (w a b : Nat) : Nat :=
  (if a = b then 1 else 0) + (if sextN a w < sextN b w then 2 else 0) + (if a < b then 4 else 0) +
    (if sextN a w > sextN b w then 8 else 0) + (if a > b then 16 else 0)

/-- SCMP (R166): the bit set is not sign-extended. -/
def execScmp (f : VRFields) (s : State) : Out :=
  s.issueParts (word f.h) fun p who s =>
    let w := scalarWidth f.t
    let a := (s.partS p who.tick f.a).toNat % 2 ^ w
    let b := (s.scalarB p who.tick f).toNat % 2 ^ w
    .done (s.setS p who false f.d (toWord (compareBits w a b)))

/-- SLEA (R167): always 64 bits wide; T names the element size. -/
def execSlea (f : VRFields) (s : State) : Out :=
  s.issueParts (word f.h) fun p who s =>
    .done (s.setS p who false f.d (s.partS p who.tick f.a + s.scalarB p who.tick f * toWord (scalarWidth f.t / 8)))

/-- LI (R168). -/
def execLi (f : SIFields) (s : State) : Out :=
  s.issueParts (word f.h) fun p who s => .done (s.setS p who false f.d (f.imm.signExtend 64))

/-- LIH (R168). -/
def execLih (f : SIFields) (s : State) : Out :=
  s.issueParts (word f.h) fun p who s =>
    .done (s.setS p who false f.d ((s.partS p who.tick f.d <<< 16) ||| f.imm.setWidth 64))

/-- The lane whose value GETSR returns for a per-lane register: the lowest active lane of the part (R169). -/
def Part.lowLane (p : Part) : Nat := 4 * p.slots.headD 0

/-- The value of a special register (R170). -/
def State.special (s : State) (p : Part) (n : Nat) : Word :=
  let g := s.gang? p.launch p.gang
  let x := s.launch? p.launch
  let core := ((g.bind Gang.core).getD 0)
  let ofG := fun (f : Gang → Word) => (g.map f).getD 0
  let ofL := fun (f : Launch → Word) => (x.map f).getD 0
  match n with
  | 0 => toWord p.lowLane
  | 1 => toWord (p.lowLane / 4)
  | 2 => toWord p.gang
  | 3 => ofL fun x => toWord x.gangs
  | 4 => toWord (32 * p.gang + p.lowLane)
  | 5 => toWord (s.spliceOf p.launch p.gang)
  | 6 => toWord core
  | 7 => toWord (dieOf core)
  | 8 => Config.deviceId.setWidth 64
  | 9 => toWord p.launch
  | 10 => ofL (·.args)
  | 11 => s.clock
  | 12 => ofG (·.fflags)
  | 13 => ofG (·.seed)
  | 14 => ofG (·.trapCause)
  | 15 => ofG (·.trapInfo)
  | 16 => ofG (·.trapPc)
  | 17 => ofG fun g => if g.xb then 1 else 0
  | 18 => ofL fun x => toWord x.tiles
  | 19 => ofL fun x => toWord x.prio
  | 20 => ofL fun x => toWord x.pasid
  | _ => 0

/-- GETSR (R169). -/
def execGetsr (f : SRFields) (s : State) : Out :=
  s.issueParts (word f.h) fun p who s => .done (s.setS p who false f.d (s.special p f.n.toNat))

/-- SETSR (R169): sr_fflags keeps bits 4:0; sr_seed reseeds every lane (R58). Other numbers are read-only, and their words
illegal. -/
def execSetsr (f : SRFields) (s : State) : Out :=
  s.issueParts (word f.h) fun p who s =>
    let v := s.partS p who.tick f.d
    .done (s.updGang p.launch p.gang fun g =>
      match f.n.toNat with
      | 12 => g.putFlags who true (keptFlags v)
      | 13 => { g.log who .seed with seed := v, st := vtab 32 (seedLane v) }
      | _ => g)

end Sys2Proof.Machine
end

