-- ==== Sys2Proof/Machine/Control.lean ====
section
/-! DEFINITION. Control flow, OP 0x68 to 0x6F (R251 to R264), the division and combination of streams (R247, R255, R259),
and the traps that are events: illegal words, deferred reports, the watchdog (R44, R133, R328). -/

namespace Sys2Proof.Machine

/-- The encoding of a 32-bit word, as sr_trapinfo holds it (R44). -/
def wordInfo (i : Instr) : Word := toWord (leNat (encode i))

/-- A stream divided into groups of (slot, gang) with the address of each; the first keeps the number (R251, R260). -/
def State.divide (s : State) (t : Stream) (groups : List (List (Nat × Nat) × Word)) : State :=
  match groups.filter (fun g => !g.1.isEmpty) with
  | [] => s
  | (sl, pc) :: rest =>
    let s := s.updStream t.sid fun t => { t with slots := slotVec sl, pc := pc }
    rest.foldl (fun s g =>
      let n := s.nextSid
      let s := (g.1.map (·.2)).eraseDups.foldl (fun s k => s.retag t.launch k t.sid n) s
      { s with streams := s.streams ++ [t.child n g.1 g.2], nextSid := n + 1 }) s

/-- The (slot, gang) pairs of a stream. -/
def Stream.pairs (t : Stream) : List (Nat × Nat) := (List.range 8).filterMap fun i => (vget t.slots i none).map fun k => (i, k)

/-- The condition of a branch by lane (R251). -/
def State.branchCond (s : State) (t : Stream) (tick : Nat) (f : BRFields) : Mask :=
  let c := f.c.toNat
  if c < 16 then s.maskRows t tick c
  else
    let v := s.scalarRows t tick (c - 16)
    maskOf fun l => lane v l != 0

/-- A slice takes the branch (R251). -/
def takes (cnd : Mask) (n : Bool) (slot : Nat) : Bool := (cnd &&& lanesOf [slot] != 0#32) != n

/-- The target of a branch (R251). -/
def branchTarget (pc : Word) (off : BitVec 14) : Word := pc + 2#64 * off.signExtend 64

/-- An iteration closed by a branch meets the conditions of R282 on the branch, the span, the length and the instructions. -/
def Spin.shape (sp : Spin) (pc tgt : Word) : Bool :=
  sp.branch == some pc && sp.target == tgt && sp.ok && decide (sp.instrs ≤ 32) && decide ((pc + 4#64 - tgt).toNat ≤ 128)

/-- Every load of the iteration returned what it returned in the iteration before. -/
def Spin.same (sp : Spin) : Bool := sp.loads.all fun x => sp.prev.contains x

/-- The lines of the run that the iteration belongs to: with a changed value it starts a new one (R282). -/
def Spin.run (sp : Spin) : List LinePlace := (sp.lines ++ if sp.same then sp.runLines else []).eraseDups

/-- The iteration meets the conditions of R282 other than equal values and the count (R284). -/
def Spin.closes (sp : Spin) (pc tgt : Word) : Bool := sp.shape pc tgt && decide (sp.run.length ≤ 4)

/-- The detector after a taken backward branch (R282). A branch other than the last starts anew. -/
def Spin.atBranch (sp : Spin) (pc tgt : Word) : Spin :=
  { branch := some pc, target := tgt, count := if sp.closes pc tgt && sp.same then sp.count + 1 else 0, instrs := 0, ok := true
    lines := [], runLines := if sp.closes pc tgt then sp.run else [], loads := []
    prev := if sp.branch == some pc && sp.target == tgt then sp.loads else [] }

/-- A stream at a taken backward branch: writes to its lines count from here on, for a spinner to be recognised from their loads on
(R283). -/
def Stream.atBranch (t : Stream) (pc tgt : Word) : Stream :=
  let sp := t.spin.atBranch pc tgt
  { t with pc := tgt, spin := sp, due := t.due && decide (16 ≤ sp.count) }

/-- The detector at a branch that goes elsewhere: leaving the span disqualifies the iteration. -/
def Spin.elsewhere (sp : Spin) (next : Word) : Spin :=
  match sp.branch with
  | some b => if (next - sp.target).toNat ≤ (b - sp.target).toNat then sp else { sp with ok := false }
  | none => sp

/-- A declared spinner waits at the branch's target on the iteration's lines, unless one has been written since it was loaded (R284). -/
def State.declareSpin (s : State) (t : Stream) (pc tgt : Word) : State :=
  let s := s.updStream t.sid fun u => { u with pc := tgt, spin := { (t.spin.atBranch pc tgt) with count := 0 }, due := false }
  if t.due then s else s.enterWatch (s.streamCore t) (s.pasidOf t.launch) t.sid (.spin t.spin.lines)

/-- The non-uniform-branch trap (R252). -/
def nonUniform (f : BRFields) (cnd active : Mask) : Option Word :=
  if f.u && cnd &&& active != 0 && cnd &&& active != active then some (toWord ((cnd &&& active).toNat + active.toNat * 2 ^ 32))
  else none

/-- sr_trapinfo of a BR whose target is not canonical: R123's layout, of which ACC is left open (R383; log 57). -/
def branchInfo (tick : Nat) (tgt : Word) : Word := memInfo 0 (Config.branchAcc tick).toNat false false tgt.toNat

/-- BR without P (R33, R251 to R253, R282 to R284). -/
def branchPlain (f : BRFields) (t : Stream) (who : Who) (s : State) : Res :=
  let cnd := s.branchCond t who.tick f
  let tgt := branchTarget t.pc f.off
  let taken := t.pairs.filter fun x => takes cnd f.n x.1
  let rest := t.pairs.filter fun x => !takes cnd f.n x.1
  let back := decide (f.off.toInt ≤ 0)
  match nonUniform f cnd t.active with
  | some info => .trap 2 info t.homes
  | none =>
    if !taken.isEmpty && !canonical tgt then .trap 5 (branchInfo who.tick tgt) (t.homes.filter fun k => taken.any (·.2 == k))
    else if taken.isEmpty then .moved (s.updStream t.sid fun u => { u with pc := u.pc + 4#64, spin := t.spin.elsewhere (t.pc + 4#64) })
    else if who.spec && (!rest.isEmpty || back && f.w && t.spin.closes t.pc tgt) then .drain
    else
      let s := if rest.isEmpty then s else s.divide t [(taken, tgt), (rest, t.pc + 4#64)]
      if !back then .moved (s.updStream t.sid fun u => { u with pc := tgt, spin := t.spin.elsewhere tgt })
      else if f.w && t.spin.closes t.pc tgt then .moved (s.declareSpin t t.pc tgt)
      else .moved (s.updStream t.sid fun u => u.atBranch t.pc tgt)

/-- BR with P: the stream joins or opens the window of its address (R255). In handler mode it raises 0x01 (R321). -/
def branchPack (f : BRFields) (t : Stream) (who : Who) (s : State) : Res :=
  if t.homes.any fun k => match s.gang? t.launch k with | some g => g.hm | none => false then
    .trap 1 (wordInfo (.br f)) t.homes
  else match nonUniform f (s.branchCond t who.tick f) t.active with
    | some info => .trap 2 info t.homes
    | none =>
      .moved ((s.updStream t.sid fun u => { u with wait := .pack t.pc, spin := Spin.empty }).updSplice t.launch t.splice fun x =>
        if x.windows.any (·.addr == t.pc) then
          { x with windows := x.windows.map fun w => if w.addr == t.pc then { w with sids := w.sids ++ [t.sid] } else w }
        else { x with windows := x.windows ++ [{ addr := t.pc, branch := f, opened := s.clock, sids := [t.sid] }] })

/-- BR (R251). -/
def execBr (f : BRFields) (s : State) : Out :=
  if f.p then s.issue { len := 4, hold := f.h, irrevocable := true, spinOk := false } (branchPack f)
  else s.issue (word f.h) (branchPlain f)

/-- A jump of the whole stream, each part to its own target; `link` writes s63 (R260). -/
def jumpOp (h : Bool) (target : Stream → Part → Who → State → Word) (link : Bool) (s : State) : Out :=
  s.issue { len := 4, hold := h, spinOk := false } fun t who s =>
    let tg := t.parts.map fun p => (p, target t p who s)
    let bad := fun (a : Word) => if a.getLsbD 0 then some 6 else if canonical a then none else some 5
    match tg.filter (fun x => (bad x.2).isSome) with
    | (_, a) :: more =>
      if t.parts.length ≤ 1 || more.length + 1 == tg.length && more.all (fun x => x.2 == a) then
        .trap ((bad a).getD 5) a t.homes
      else if who.spec then .drain
      else .again (s.splitParts t) .none
    | [] =>
      let dests := (tg.map (·.2)).eraseDups
      if 1 < dests.length && who.spec then .drain
      else
        let s := if link then t.parts.foldl (fun s p => s.updGang p.launch p.gang fun g =>
            { (g.putS who false 63 (t.pc + 4#64)) with pending := g.pending.filter fun p => !(p.reg == .s 63 && p.sids.contains t.sid) }) s
          else s
        .moved (s.divide t (dests.map fun d => (t.pairs.filter (fun x => tg.any fun y => y.1.gang == x.2 && y.2 == d), d)))

/-- JMP, PC-relative (R260). -/
def execJmp (f : JFields) (s : State) : Out := jumpOp f.h (fun t _ _ _ => branchTarget t.pc f.imm) false s
/-- JMP to a register (R260). -/
def execJmpReg (f : JFields) (s : State) : Out := jumpOp f.h (fun _ p who s => s.partS p who.tick f.a) false s
/-- CALL, PC-relative (R260). -/
def execCall (f : JFields) (s : State) : Out := jumpOp f.h (fun t _ _ _ => branchTarget t.pc f.imm) true s
/-- CALL to a register (R260). -/
def execCallReg (f : JFields) (s : State) : Out := jumpOp f.h (fun _ p who s => s.partS p who.tick f.a) true s
/-- RET (R260). -/
def execRet (f : JFields) (s : State) : Out := jumpOp f.h (fun _ p who s => s.partS p who.tick 63#6) false s

/-- Issue of an irrevocable control word. -/
def controlIssue (h : Bool) : Issue := { len := 4, hold := h, irrevocable := true }

/-- The unexited slots of a gang. -/
def Gang.liveSlots (g : Gang) : List Nat := (List.range 8).filter fun i => !g.exited.getLsbD i

/-- REGANG (R259): a stream already whole completes at once; else it waits. In handler mode it raises 0x01 (R321). -/
def execRegang (f : JFields) (s : State) : Out :=
  s.issue (controlIssue f.h) fun t _ s =>
    if t.homes.any fun k => match s.gang? t.launch k with | some g => g.hm | none => false then
      .trap 1 (wordInfo (.regang f)) t.homes
    else
      match t.homes with
      | [k] =>
        match s.gang? t.launch k with
        | some g => if t.slotsOf k == g.liveSlots then .done s else .again s (.regang t.pc f.h)
        | none => .done s
      | _ => .again s (.regang t.pc f.h)

/-- Slices of gang k of some streams taken out of them; a stream with no slice left ends. -/
def State.dropSlices (s : State) (k : Nat) (ts : List Stream) : State :=
  ts.foldl (fun s t =>
    if t.homes == [k] then { s with streams := s.streams.filter (·.sid != t.sid) }
    else s.updStream t.sid fun t => { t with slots := slotVec (t.pairs.filter fun x => x.2 != k) }) s

/-- A new stream that continues the work of some at an address, with the slots given (R255, R259). -/
def State.joinStreams (s : State) (ts : List Stream) (slots : List (Nat × Nat)) (pc : Word) : State :=
  match ts.head? with
  | none => s
  | some t0 =>
    let n := s.nextSid
    let s := (slots.map (·.2)).eraseDups.foldl (fun s k => ts.foldl (fun s t => s.retag t0.launch k t.sid n) s) s
    { s with
      streams := s.streams ++
        [{ t0.child n slots pc with wait := .none, stopped := false, rbCount := 0, careful := 0, saved := none, watchDie := none, due := false }]
      nextSid := n + 1 }

/-- REGANG_COMBINE (R259): once every unexited slice of the gang waits at a REGANG, the slices of each address become one
stream at address + 4; with H set, the results of the streams return first (R22, R250). -/
def execRegangCombine (l k : Nat) (s : State) : Out :=
  match s.gang? l k with
  | none => .next s
  | some g =>
    let ts := s.streamsOf l k
    let addrOf := fun (t : Stream) => match t.wait with | .regang a _ => some a | _ => none
    if ts.isEmpty || ts.any (fun t => (addrOf t).isNone || t.stopped) || g.liveSlots.isEmpty then .next s
    else
      let s := ts.foldl (fun s t => match t.wait with | .regang _ true => s.settle t | _ => s) s
      let s := (ts.filterMap addrOf).eraseDups.foldl (fun s a =>
        let here := ts.filter fun t => addrOf t == some a
        s.joinStreams here (here.flatMap fun t => (t.slotsOf k).map fun i => (i, k)) (a + 4#64)) (s.dropSlices k ts)
      .next (s.joinRaces l k)

/-- The streams in a P-branch window, one raises a trap at its close: a slice would take the branch to a target that is not canonical
(R33). -/
def State.packBad (s : State) (w : PackWindow) (t : Stream) : Bool :=
  let cnd := s.branchCond t s.ticks w.branch
  !canonical (branchTarget w.addr w.branch.off) && t.pairs.any fun x => takes cnd w.branch.n x.1

/-- The new streams of a P-branch window: by destination, ascending, slot k of stream q holds the q-th slice of slot k bound there, by
home gang (R255). -/
def packStreams (slices : List ((Nat × Nat) × Word)) : List (List (Nat × Nat) × Word) :=
  let dests := sortBy (fun (a b : Word) => decide (a.toNat ≤ b.toNat)) (slices.map (·.2)).eraseDups
  let rank := fun (d : Word) (k q : Nat) => (sortNat ((slices.filter fun x => x.2 == d && x.1.1 == k).map fun x => x.1.2))[q]?
  dests.flatMap fun d => (List.range slices.length).filterMap fun q =>
    let sl := (List.range 8).filterMap fun k => (rank d k q).map fun g => (k, g)
    if sl.isEmpty then none else some (sl, d)

/-- A window is to close: 64 clocks have passed, or every unexited slice of the splice's resident gangs is at its address or waits (R255). -/
def State.windowDue (s : State) (sp : Splice) (w : PackWindow) : Bool :=
  decide (64 ≤ (s.clock - w.opened).toNat) ||
    (s.gangs.filter fun g => g.launch == sp.launch && g.place.isSome && s.spliceOf g.launch g.idx == sp.idx).all fun g =>
      (s.streamsOf g.launch g.idx).all fun t => t.wait == .pack w.addr || t.wait.waiting

/-- The windows that are to close. -/
def State.dueWindows (s : State) : List (Nat × Nat × Word) :=
  s.splices.flatMap fun sp => (sp.windows.filter (s.windowDue sp)).map fun w => (sp.launch, sp.idx, w.addr)

/-- The slices in a window that is to close are repacked by destination into new streams (R255). A stream that a trap has stopped takes no
part: it comes to the branch again. -/
def State.closePack (s : State) (l sp : Nat) (addr : Word) : State :=
  match (s.splice? l sp).bind fun x => x.windows.find? fun w => w.addr == addr && s.windowDue x w with
  | none => s
  | some w =>
    let all := s.streams.filter fun t => w.sids.contains t.sid && t.wait == .pack addr
    let ts := all.filter fun t => !t.stopped && !s.packBad w t
    let bad := all.filter fun t => !t.stopped && s.packBad w t
    let slices := ts.flatMap fun t =>
      let cnd := s.branchCond t s.ticks w.branch
      t.pairs.map fun x => (x, if takes cnd w.branch.n x.1 then branchTarget addr w.branch.off else addr + 4#64)
    let s := if w.branch.h then ts.foldl State.settle s else s
    let s := { s with streams := s.streams.filter fun t => !(ts.any fun u => u.sid == t.sid) }
    let s := s.updSplice l sp fun x => { x with windows := x.windows.filter (·.addr != addr) }
    let s := all.foldl (fun s t => s.updStream t.sid fun u => { u with wait := .none }) s
    let s := (packStreams slices).foldl (fun s x => s.joinStreams (ts.filter fun t => x.1.any fun y => t.has y.2) x.1 x.2) s
    let s := (slices.map fun x => x.1.2).eraseDups.foldl (fun s k => s.joinRaces l k) s
    bad.foldl (fun s t => s.raiseWhenFlushed s t
      (t.homes.filter fun k => (t.slotsOf k).any fun i => takes (s.branchCond t s.ticks w.branch) w.branch.n i) 5
      (branchInfo s.ticks (branchTarget addr w.branch.off))) s

/-- PACK_WINDOW_CLOSE (R255). -/
def execPackWindowClose (l sp : Nat) (addr : Word) (s : State) : Out := .next (s.closePack l sp addr)

/-- YIELD (R261): the stream waits for one decision of the residency unit and resumes past the word. -/
def execYield (f : JFields) (s : State) : Out := s.issue (controlIssue f.h) fun _ _ s => .park s .yielded

/-- The armed condition of a gang tested at a YIELD (R152, R153): its PA and whether it holds, or the fault. -/
def State.testArmed (s : State) (core : Option Nat) (pasid : Nat) (a v : Word) : Except HandleFail (State × Nat × Bool) :=
  if a.toNat % 8 != 0 then .error .misaligned
  else if !canonical a then .error .denied
  else
    match s.translate core pasid (vaOf a) .load with
    | .error (.fault r) => .error (.fault r)
    | .error .wait => .error .wait
    | .error _ => .error .denied
    | .ok x =>
      if x.kind < 2 then
        .ok ((s.markLeaf x .load).touchTlb core pasid (vaOf a) .load, x.pa, decide (v.toNat ≤ (s.mem.word x.pa).toNat))
      else .error .denied

/-- YIELD with a continuation in the parts that have not executed it, in order (R153, R249): a part whose condition holds goes on, one
whose condition does not waits, and the PC moves when the last has executed it. -/
def yieldParts (tgt : Word) (t : Stream) (all : List Part) : List Part → State → Res
  | [], s => .moved (s.updStream t.sid fun t => { t with pc := tgt })
  | p :: rest, s =>
    let pasid := s.pasidOf p.launch
    let before := (all.filter fun q => q.gang != p.gang && !rest.any fun r => r.gang == q.gang).map (·.gang)
    let len := (tgt - t.pc).toNat
    let past := fun (s : State) => if rest.isEmpty then s.updStream t.sid fun t => { t with pc := tgt } else s.markDone t.sid len (before ++ [p.gang])
    let wait := fun (s : State) (w : Wait) =>
      if rest.isEmpty then .moved ((past s).updStream t.sid fun t => { t with wait := w }) else .again (past s) w
    let stop := fun (s : State) (r : Res) =>
      if all.length == 1 then r
      else if before.isEmpty then .again (s.splitParts t) .none
      else .moved (s.passParts t len before)
    match s.gang? p.launch p.gang with
    | none => yieldParts tgt t all rest s
    | some g =>
      match g.armed with
      | none => wait s .yielded
      | some (a, v) =>
        match s.testArmed g.core pasid a v with
        | .error (.fault r) => stop s (.fault a r 0 p.gang (memInfo 0 0 false false a.toNat))
        | .error .misaligned => stop s (.trap 6 (memInfo 0 0 false false a.toNat) [p.gang])
        | .error .denied => stop s (.trap 5 (memInfo 0 0 false false a.toNat) [p.gang])
        | .error .wait => .miss (if before.isEmpty then s else s.markDone t.sid len before) [(a, .load, p.gang)]
        | .ok (s, pa, holds) =>
          if s.guest.owned.contains (lineOf pa) then .again (if before.isEmpty then s else s.markDone t.sid len before) .line
          else
            let s := s.updGang p.launch p.gang fun g => { g with armed := none }
            if holds then yieldParts tgt t all rest s
            else
              let w := Wait.yieldWatch pa a v t.pc
              wait ((past s).enterWatch g.core pasid t.sid w) w

/-- YIELD with a continuation (R153). -/
def execYieldContinuation (f : JFields) (s : State) : Out :=
  s.issue (controlIssue f.h) fun t _ s =>
    yieldParts (branchTarget t.pc f.imm) t t.parts (t.parts.filter fun p => !t.past p.gang) s

/-- The end of a handler whose slices have all exited (R321): the stopped streams exit at their belay points. -/
def State.endHandler (s : State) (l k : Nat) : State :=
  (s.dropSlices k (s.streamsOf l k)).updGang l k fun g => { g with hm := false, hmSlices := 0, exited := 0xFF#8, deferred := [] }

/-- The stopped stream of a gang whose committed stores have to become visible before the handler's last slices leave (R321, R262). -/
def State.beforeExit (s : State) (t : Stream) : Option Stream :=
  t.homes.findSome? fun k => (s.gang? t.launch k).bind fun g =>
    if g.hm && (t.slotsOf k).foldl (fun m i => m &&& ~~~(1#8 <<< i)) (g.hmSlices &&& ~~~g.exited) == 0 then
      (s.streamsOf t.launch k).find? fun u => u.sid != t.sid && !(s.storesOf u).isEmpty
    else none

/-- EXIT (R262, R321): every slice of the stream leaves for good. -/
def execExit (f : JFields) (s : State) : Out :=
  s.issue (controlIssue f.h) fun t _ s =>
    match s.beforeExit t with
    | some u => .again (s.flushCommitted u) .none
    | none =>
      let s := { s with streams := s.streams.filter (·.sid != t.sid) }
      .moved (t.homes.foldl (fun s k =>
        let s := s.updGang t.launch k fun g =>
          { g with exited := (t.slotsOf k).foldl (fun m i => m ||| (1#8 <<< i)) g.exited }
        match s.gang? t.launch k with
        | some g => if g.hm && g.hmSlices &&& ~~~g.exited == 0 then s.endHandler t.launch k else s
        | none => s) s)

/-- TRAP (R264). -/
def execTrap (f : JFields) (s : State) : Out :=
  s.issue (controlIssue f.h) fun _ _ _ => .trapNext 0x0F (f.imm.setWidth 64)

/-- BRK (R264). -/
def execBrk (f : JFields) (s : State) : Out := s.issue (controlIssue f.h) fun t _ _ => .trapNext 0x10 t.pc

/-- RTE (R264, R321): outside handler mode, or in a stream that lacks a slice, it raises 0x01. -/
def execRte (f : JFields) (s : State) : Out :=
  s.issue (controlIssue f.h) fun t _ s =>
    match t.homes with
    | [k] => match s.returnFromTrap t k with
      | some s' => .moved s'
      | none => .trap 1 (wordInfo (.rte f)) t.homes
    | _ => .trap 1 (wordInfo (.rte f)) t.homes

/-- ILLEGAL_INSTRUCTION (R43, R44): trap 0x01 with the encoding. -/
def execIllegalInstruction (info : Word) (s : State) : Out :=
  s.issue { len := 4, hold := false } fun t _ _ => .trap 1 info t.homes

/-- DEFERRED_TRAP (R133, R314, R320): the report of a stream that is not stopped is raised at its instruction boundary,
once nothing of it is uncommitted. -/
def execDeferredTrap (sid : Nat) (s : State) : Out :=
  match s.stream? sid with
  | none => .next s
  | some t =>
    if t.stopped || t.wait != .none then .next s
    else
      match t.homes.findSome? fun k => (s.gang? t.launch k).bind fun g =>
          if g.place.isNone then none else (g.deferred.find? (·.sid == sid)).map fun d => (k, d) with
      | none => .next s
      | some (k, d) =>
        if !t.unc.isEmpty then .next (s.drainStep t)
        else .next (s.raiseWhenFlushed (s.updGang t.launch k fun g => { g with deferred := g.deferred.erase d }) t [k] d.cause d.info)

/-- The address of a stream's oldest outstanding access: of its oldest buffered store, else of the access that it waits for an answer to
(R328; log 58). -/
def State.oldestAccess (s : State) (t : Stream) : Word :=
  match oldest (s.storesOf t) with
  | some (_, e) => match e.place with
    | .mem _ va => toWord ((va + (e.bytes.head?.map (·.1)).getD 0) % 2 ^ 55)
    | .scratch b => toWord ((64 * b + (e.bytes.head?.map (·.1)).getD 0) % 2 ^ 55)
  | none => (s.out.findSome? fun r => match r.src with
    | .lane sid _ va => if sid = t.sid then some (toWord (va.toNat % 2 ^ 55)) else none
    | _ => none).getD 0

/-- The oldest uncommitted instruction of a stream: of what it runs under speculation, else the one it waits in (R328). -/
def Stream.oldestPc (t : Stream) : Option Word :=
  match t.unc with
  | u :: _ => some u.pc
  | [] => if t.wait = .none then none else some t.pc

/-- WATCHDOG_EXPIRY (R328): a resident stream that no wait of R276 holds, with an uncommitted instruction, rolls back and raises 0x12,
unless LIMIT is 0. What it waits for is abandoned. -/
def execWatchdogExpiry (sid : Nat) (s : State) : Out :=
  match s.stream? sid with
  | none => .next s
  | some t =>
    match s.firstCore t, t.oldestPc with
    | some c, some pc =>
      if t.wait.waiting || t.stopped || vget s.io.wdctl (dieOf c) 0 == 0 then .next s
      else
        let s' := ((s.rollbackStream t).countCore (some c) 0x30 (s.pasidOf t.launch) 1).snapTrigger 2
        let info := s'.oldestAccess t
        let s' :=
          { s' with
            out := s'.out.filter fun r => match r.src with
              | .lane sid _ _ => sid != t.sid
              | _ => true }
        .next (s.raiseWhenFlushed s' { t with pc := pc } t.homes 0x12 info)
    | _, _ => .next s

/-- SPIN_RECOGNISED (R283): the stream waits at its branch's target once its iterations have committed; a write to its lines since their
loads releases it at once. -/
def execSpinRecognised (sid : Nat) (s : State) : Out :=
  match s.stream? sid with
  | none => .next s
  | some t =>
    if t.wait != .none || t.stopped || decide (t.spin.count < 16) || t.pc != t.spin.target then .next s
    else if !s.drained t then .next (s.drainStep t)
    else
      let s := s.updStream sid fun t => { t with spin := { t.spin with count := 0 }, due := false }
      if t.due then .next s
      else .next (s.enterWatch (s.streamCore t) (s.pasidOf t.launch) sid (.spin t.spin.runLines))

end Sys2Proof.Machine
end

