-- ==== Sys2Proof/Machine/VectorFloat.lean ====
section
/-! DEFINITION. Vector floating-point, conversion and codebook instructions, OP 0x20 to 0x3A (R183 to R196). -/

namespace Sys2Proof.Machine

/-- The format of a float type (R37). -/
def floatType (t : BitVec 3) : Fmt :=
  match t.toNat with
  | 0 => .f64 | 1 => .f32 | 2 => .bf16 | 3 => .f16 | 4 => .e4m3 | 5 => .e5m2 | _ => .cb4

/-- The layout a type computes in: bf16 for cb4 (R194). -/
def workFmt (t : Fmt) : FloatFmt := t.float.getD ffBf16

/-- A codebook. -/
abbrev Codebook := Vector (BitVec 16) 16

/-- dec of R183. -/
def dec (t : Fmt) (cb : Codebook) (x : Nat) : FVal :=
  match t with
  | .cb4 => ffBf16.decode (vget cb x 0).toNat
  | t => t.decode x

/-- enc of R183: rounded, saturated, and for cb4 encoded once more (R64). SAT changes the result, never the flags (R55). -/
def enc (t : Fmt) (cb : Codebook) (mode : RMode) (sat : Bool) (y : FVal) : Nat × Flags :=
  let ff := workFmt t
  let (x, f) := ff.encode mode y
  let z := if sat then ff.saturate x else x
  match t with
  | .cb4 => ((codebookIndex cb (ff.decode z)).1, f ||| (codebookIndex cb (ff.decode x)).2)
  | _ => (z, f)

/-- The mode that RND names; stochastic rounding takes a draw (R40, R52). -/
def modeOf (rnd : BitVec 3) (draw : Nat) : RMode :=
  match rnd.toNat with
  | 2 => .rtz | 3 => .rup | 4 => .rdn | 5 => .rna | 6 => .stoch draw | _ => .rne

/-- What a float instruction computes of one result sub-element: from the codebook, the lanes of A, B, C and D, the
sub-element's number and the rounding mode. -/
abbrev FloatFn := Codebook → Word → Word → Word → Word → Nat → RMode → Nat × Flags

/-- The results of one lane: sub-elements 0 to k - 1 of width w in ascending order, a draw for each under stoch, the
flags, and the generator's state (R59, R183). -/
def floatLane (w : Nat) (rnd : BitVec 3) (g : Nat → RMode → Nat × Flags) : Nat → Nat → BitVec 32 → List Nat × Flags × BitVec 32
  | 0, _, st => ([], 0, st)
  | k + 1, j, st =>
    let (st', z) := if rnd = 6 then drawFrom st else (st, 0)
    let (x, f) := g j (modeOf rnd z)
    let (xs, fs, st'') := floatLane w rnd g k (j + 1) st'
    (x :: xs, f ||| fs, st'')

/-- What one gang's slices of a float instruction leave: lane results, flags, generator states (R183, R184). Element j of lane l takes
the codebook of number 64 l + j (R195). -/
def floatGang (g : Gang) (m : Mask) (w k : Nat) (rnd : BitVec 3) (cb : Nat → Codebook) (fn : FloatFn) (a b c d : VReg) :
    List (Nat × Word × BitVec 32) × Flags :=
  let rs := ((List.range 32).filter fun l => m.getLsbD l).map fun l =>
    (l, floatLane w rnd (fun j => fn (cb (64 * l + j)) (lane a l) (lane b l) (lane c l) (lane d l) j) k 0 (vget g.st l 0))
  (rs.map fun x => (x.1, packElems w x.2.1, x.2.2.2), rs.foldl (fun f x => f ||| x.2.2.1) 0)

/-- The common effect of R183: results of width w, k of them per lane, of which the remaining bits are zero; `wB` and
`imm` give operand B. -/
def vrFloat (x : VX) (f : VRFields) (wB : Nat) (imm : Int → Nat) (w k : Nat) (fn : FloatFn) (s : State) : Out :=
  s.issue x.issue fun t who s =>
    s.withRegs t (vrRegs x.p f) <|
      let m := s.activeMask t who.tick x.p
      if m = 0 then .done s
      else
        let a := s.rows t who.tick f.a.toNat
        let b := s.operandB t who.tick f wB imm
        let d := s.rows t who.tick f.d.toNat
        let c := if x.p.cv then s.rows t who.tick x.p.c.toNat else d
        .done <| t.homes.foldl (fun s h => s.updGang t.launch h fun g =>
          let m := m &&& lanesOf (t.slotsOf h)
          let (rs, fl) := floatGang g m w k x.p.rnd (fun n => g.readCb who.sid who.tick n) fn a b c d
          let val := byLane fun l => ((rs.find? (·.1 == l)).map (·.2.1)).getD 0
          let wm := if x.p.z then lanesOf (t.slotsOf h) else m
          let g := if wm = 0 then g else g.putV who (!x.short) w f.d.toNat wm val
          let g := if x.p.rnd = 6 && m ≠ 0 then
              g.putDraws who (vtab 32 fun l => ((rs.find? (·.1 == l)).map (·.2.2)).getD (vget g.st l 0))
            else g
          g.raise who fl) s

/-- A value of a type written exactly: the immediates of R28. -/
def immFloat (t : Fmt) (i : Int) : Nat := ((workFmt t).encode .rne (.ofInt i)).1

/-- An arithmetic instruction of a type from its exact function on decoded values. -/
def vrArith (x : VX) (f : VRFields) (y : RMode → FVal → FVal → FVal → FVal × Flags) (s : State) : Out :=
  let t := floatType f.t
  vrFloat x f t.width (immFloat t) t.width (64 / t.width)
    (fun cb a b c _ j mode =>
      let (v, f1) := y mode (dec t cb (subElem a t.width j)) (dec t cb (subElem b t.width j)) (dec t cb (subElem c t.width j))
      let (r, f2) := enc t cb mode x.p.sat v
      (r, f1 ||| f2)) s

/-- The rounding mode is rdn, which makes an exact zero sum -0 (R186). -/
def isRdn (m : RMode) : Bool := m == .rdn

/-- NaN in, canonical NaN out, with NV for a signalling one; else the function. -/
def onFinite (a : FVal) (f : FVal × Flags) : FVal × Flags :=
  match a with
  | .nan sig => (.nan false, Flags.when sig Flags.nv)
  | _ => f

/-- FRCP (R188). -/
def rcpVal (a : FVal) : FVal × Flags :=
  onFinite a <| match a with
  | .inf n => (.fin n 0 0, 0)
  | .fin n m e => if m = 0 then (.inf n, Flags.dz) else let (q, k) := recip m e; (.fin n q k, 0)
  | v => (v, 0)

/-- A function of positive arguments: ±0 as given, a negative operand invalid (R188). -/
def positiveFn (zero : Bool → FVal × Flags) (top : FVal) (fn : Nat → Int → FVal) (a : FVal) : FVal × Flags :=
  onFinite a <| match a with
  | .inf n => if n then (.nan false, Flags.nv) else (top, 0)
  | .fin n m e => if m = 0 then zero n else if n then (.nan false, Flags.nv) else (fn m e, 0)
  | v => (v, 0)

/-- FRSQ (R188). -/
def rsqVal : FVal → FVal × Flags :=
  positiveFn (fun n => (.inf n, Flags.dz)) (.fin false 0 0) fun m e => let (q, k) := recipRoot m e; .fin false q k

/-- FSQRT (R188). -/
def sqrtVal : FVal → FVal × Flags :=
  positiveFn (fun n => (.fin n 0 0, 0)) (.inf false) fun m e => let (q, k) := root m e; .fin false q k

/-- FLOG2 (R188). -/
def flog2Val : FVal → FVal × Flags := positiveFn (fun _ => (.inf true, Flags.dz)) (.inf false) log2Val

/-- FEXP2 (R188). -/
def fexp2Val (a : FVal) : FVal × Flags :=
  onFinite a <| match a with
  | .inf n => (if n then .fin false 0 0 else .inf false, 0)
  | .fin n m e => (exp2Val n m e, 0)
  | v => (v, 0)

/-- FSIN (R188). -/
def fsinVal (a : FVal) : FVal × Flags :=
  onFinite a <| match a with
  | .inf _ => (.nan false, Flags.nv)
  | .fin n m e => (if m = 0 then .fin n 0 0 else sinVal n m e, 0)
  | v => (v, 0)

/-- FCOS (R188). -/
def fcosVal (a : FVal) : FVal × Flags :=
  onFinite a <| match a with
  | .inf _ => (.nan false, Flags.nv)
  | .fin _ m e => (if m = 0 then .fin false 1 0 else cosVal m e, 0)
  | v => (v, 0)

/-- FTANH (R188). -/
def ftanhVal (a : FVal) : FVal × Flags :=
  onFinite a <| match a with
  | .inf n => (.fin n 1 0, 0)
  | .fin n m e => (tanhVal n m e, 0)
  | v => (v, 0)

/-- FSCALE's exact result and flags (R190). The scale is clamped beyond ±5,000, where every value rounds alike. -/
def scaleVal (a b : FVal) : FVal × Flags :=
  match a, b with
  | .nan s, b => (.nan false, Flags.when (s || b.isSig) Flags.nv)
  | _, .nan s => (.nan false, Flags.when s Flags.nv)
  | .inf n, .inf true => let _ := n; (.nan false, Flags.nv)
  | .inf n, _ => (.inf n, 0)
  | .fin n m e, .inf neg =>
    if m = 0 then (if neg then (.fin n m e, 0) else (.nan false, Flags.nv))
    else if neg then (.fin n 0 0, Flags.uf ||| Flags.nx)
    else (.inf n, Flags.of ||| Flags.nx)
  | .fin n m e, .fin nb mb eb =>
    let big := (Nat.log2 mb : Int) + eb ≥ 13 && mb ≠ 0
    let k : Int := if big then 5000 else (roundAt .rtz nb mb eb 0).1
    (.fin n m (e + (if nb then -k else k)), 0)

/-- FCLASS (R191). -/
def classOf (ff : FloatFmt) (v : FVal) : Nat :=
  match v with
  | .nan sig => if sig then 0 else 1
  | .inf n => if n then 2 else 9
  | .fin n m _ =>
    if m = 0 then (if n then 5 else 6)
    else if 2 ^ ff.fb ≤ m then (if n then 3 else 8) else (if n then 4 else 7)

/-- An instruction whose result is not rounded: a value returned as it is, or a bit pattern (R187, R191). -/
def vrPlain (x : VX) (f : VRFields) (g : Fmt → Codebook → Nat → Nat → Nat × Flags) (s : State) : Out :=
  let t := floatType f.t
  vrFloat x f t.width (immFloat t) t.width (64 / t.width)
    (fun cb a b _ _ j _ => g t cb (subElem a t.width j) (subElem b t.width j)) s

/-- FMIN and FMAX of two sub-elements (R187). -/
def minMaxElem (isMax : Bool) (t : Fmt) (cb : Codebook) (a b : Nat) : Nat × Flags :=
  let (v, f) := FVal.minMax isMax (dec t cb a) (dec t cb b)
  ((enc t cb .rne false v).1, f)

/-- FABS and FNEG of a sub-element: the sign bit alone (R187). -/
def signElem (toggle : Bool) (t : Fmt) (cb : Codebook) (a : Nat) : Nat × Flags :=
  match t with
  | .cb4 => ((enc t cb .rne false (if toggle then (dec t cb a).neg else (dec t cb a).abs)).1, 0)
  | t =>
    let low := a % 2 ^ (t.width - 1)
    (if toggle && a < 2 ^ (t.width - 1) then low + 2 ^ (t.width - 1) else low, 0)

/-- The relations of the compares (R187). -/
inductive FRel where
  | eq | lt | le | un
  deriving DecidableEq, Repr

/-- A compare of two sub-elements (R187). -/
def compareElem (r : FRel) (t : Fmt) (cb : Codebook) (a b : Nat) : Nat × Flags :=
  let x := dec t cb a
  let y := dec t cb b
  let anyNan := x.isNan || y.isNan
  let sig := x.isSig || y.isSig
  match r with
  | .eq => (if x.eqv y then 2 ^ t.width - 1 else 0, Flags.when sig Flags.nv)
  | .lt => (if x.lt y then 2 ^ t.width - 1 else 0, Flags.when anyNan Flags.nv)
  | .le => (if x.lt y || x.eqv y then 2 ^ t.width - 1 else 0, Flags.when anyNan Flags.nv)
  | .un => (if anyNan then 2 ^ t.width - 1 else 0, Flags.when sig Flags.nv)

/-- FADD. -/
def vrFadd (x : VX) (f : VRFields) (s : State) : Out := vrArith x f (fun m a b _ => FVal.add (isRdn m) a b) s
/-- FSUB. -/
def vrFsub (x : VX) (f : VRFields) (s : State) : Out := vrArith x f (fun m a b _ => FVal.add (isRdn m) a b.neg) s
/-- FMUL. -/
def vrFmul (x : VX) (f : VRFields) (s : State) : Out := vrArith x f (fun _ a b _ => a.mul b) s
/-- FFMA. -/
def vrFfma (x : VX) (f : VRFields) (s : State) : Out := vrArith x f (fun m a b c => FVal.fma (isRdn m) a b c) s
/-- FMIN. -/
def vrFmin (x : VX) (f : VRFields) (s : State) : Out := vrPlain x f (minMaxElem false) s
/-- FMAX. -/
def vrFmax (x : VX) (f : VRFields) (s : State) : Out := vrPlain x f (minMaxElem true) s
/-- FABS. -/
def vrFabs (x : VX) (f : VRFields) (s : State) : Out := vrPlain x f (fun t cb a _ => signElem false t cb a) s
/-- FNEG. -/
def vrFneg (x : VX) (f : VRFields) (s : State) : Out := vrPlain x f (fun t cb a _ => signElem true t cb a) s
/-- FCMPEQ. -/
def vrFcmpeq (x : VX) (f : VRFields) (s : State) : Out := vrPlain x f (compareElem .eq) s
/-- FCMPLT. -/
def vrFcmplt (x : VX) (f : VRFields) (s : State) : Out := vrPlain x f (compareElem .lt) s
/-- FCMPLE. -/
def vrFcmple (x : VX) (f : VRFields) (s : State) : Out := vrPlain x f (compareElem .le) s
/-- FCMPUN. -/
def vrFcmpun (x : VX) (f : VRFields) (s : State) : Out := vrPlain x f (compareElem .un) s
/-- FRCP. -/
def vrFrcp (x : VX) (f : VRFields) (s : State) : Out := vrArith x f (fun _ a _ _ => rcpVal a) s
/-- FRSQ. -/
def vrFrsq (x : VX) (f : VRFields) (s : State) : Out := vrArith x f (fun _ a _ _ => rsqVal a) s
/-- FSQRT. -/
def vrFsqrt (x : VX) (f : VRFields) (s : State) : Out := vrArith x f (fun _ a _ _ => sqrtVal a) s
/-- FEXP2. -/
def vrFexp2 (x : VX) (f : VRFields) (s : State) : Out := vrArith x f (fun _ a _ _ => fexp2Val a) s
/-- FLOG2. -/
def vrFlog2 (x : VX) (f : VRFields) (s : State) : Out := vrArith x f (fun _ a _ _ => flog2Val a) s
/-- FSIN. -/
def vrFsin (x : VX) (f : VRFields) (s : State) : Out := vrArith x f (fun _ a _ _ => fsinVal a) s
/-- FCOS. -/
def vrFcos (x : VX) (f : VRFields) (s : State) : Out := vrArith x f (fun _ a _ _ => fcosVal a) s
/-- FTANH. -/
def vrFtanh (x : VX) (f : VRFields) (s : State) : Out := vrArith x f (fun _ a _ _ => ftanhVal a) s
/-- FROUND (R189). -/
def vrFround (x : VX) (f : VRFields) (s : State) : Out :=
  let t := floatType f.t
  vrFloat x f t.width (immFloat t) t.width (64 / t.width)
    (fun cb a _ _ _ j mode =>
      let (i, fl) := toIntFlags mode (-(2 ^ (t.width - 1) : Int)) (2 ^ (t.width - 1) - 1) (dec t cb (subElem a t.width j))
      (truncZ i t.width, fl)) s
/-- FSCALE (R190). -/
def vrFscale (x : VX) (f : VRFields) (s : State) : Out := vrArith x f (fun _ a b _ => scaleVal a b) s
/-- FCLASS (R191). -/
def vrFclass (x : VX) (f : VRFields) (s : State) : Out := vrPlain x f (fun t cb a _ => (classOf (workFmt t) (dec t cb a), 0)) s
/-- Infinities of both signs among some terms (R192). -/
def bothInfinities (l : List FVal) : Bool := l.contains (.inf false) && l.contains (.inf true)

/-- FDOT2 (R192): infinities of both signs raise NV whatever the other terms are. An exactly zero sum is −0 if every term is, or, of terms
of both signs, under rdn; else it is +0 (log 60). -/
def vrFdot2 (x : VX) (f : VRFields) (s : State) : Out :=
  let t := floatType f.t
  vrFloat x f 16 (immFloat t) 32 2
    (fun cb a b c _ j mode =>
      let (p0, f0) := (dec t cb (subElem a 16 (2 * j))).mul (dec t cb (subElem b 16 (2 * j)))
      let (p1, f1) := (dec t cb (subElem a 16 (2 * j + 1))).mul (dec t cb (subElem b 16 (2 * j + 1)))
      let c := ffF32.decode (subElem c 32 j)
      let (u, f2) := FVal.add (isRdn mode) c p0
      let (v, f3) := FVal.add (isRdn mode) u p1
      let (r, f4) := enc .f32 cb mode x.p.sat v
      (r, f0 ||| f1 ||| f2 ||| f3 ||| f4 ||| Flags.when (bothInfinities [c, p0, p1]) Flags.nv)) s
/-- CVT (R193). -/
def vrCvt (x : VX) (f : VRFields) (s : State) : Out :=
  let t := floatType f.t
  let src := (Fmt.ofCode (f.b.toNat % 32)).getD .f32
  vrFloat x { f with b := 0 } t.width (immFloat t) t.width (min (64 / src.width) (64 / t.width))
    (fun cb a _ _ _ j mode => enc t cb mode x.p.sat (dec src cb (subElem a src.width j))) s

/-- CBLD (R195): the codebooks of the home gangs take the entries of the active lanes, the highest lane's standing. -/
def vrCbld (x : VX) (f : VRFields) (s : State) : Out :=
  s.issue x.issue fun t who s =>
    s.withRegs t [f.a.toNat] <|
      let m := s.activeMask t who.tick x.p
      let a := s.rows t who.tick f.a.toNat
      .done <| t.homes.foldl (fun s h => s.updGang t.launch h fun g =>
        let ls := (List.range 32).filter fun l => (m &&& lanesOf (t.slotsOf h)).getLsbD l
        if ls.isEmpty then g
        else
          let cb := ls.foldl (fun (cb : Codebook) l =>
            (List.range 4).foldl (fun cb j => vset cb (4 * (l % 4) + j) (BitVec.ofNat 16 (subElem (lane a l) 16 j))) cb) g.codebook
          { (g.noteRace who .codebook allRows (.codebook cb)).log who .codebook with codebook := cb }) s

/-- CBST (R195): each active lane receives four entries of its home gang's table. -/
def vrCbst (x : VX) (f : VRFields) (s : State) : Out :=
  s.issue x.issue fun t who s =>
    s.withRegs t [f.d.toNat] <|
      let m := s.activeMask t who.tick x.p
      if m = 0 then .done s
      else .done <| t.homes.foldl (fun s h => s.updGang t.launch h fun g =>
        let val := byLane fun l =>
          if m.getLsbD l then
            packElems 16 ((List.range 4).map fun j => (vget (g.readCb who.sid who.tick (64 * l + j)) (4 * (l % 4) + j) 0).toNat)
          else 0
        let wm := (if x.p.z then t.active else m) &&& lanesOf (t.slotsOf h)
        if wm = 0 then g else g.putV who true 16 f.d.toNat wm val) s

/-- FADD (R183, R185). -/
def execFadd (f : VRFields) (s : State) : Out := vrFadd (VX.word f) f s

/-- FSUB (R183, R185). -/
def execFsub (f : VRFields) (s : State) : Out := vrFsub (VX.word f) f s

/-- FMUL (R183, R185). -/
def execFmul (f : VRFields) (s : State) : Out := vrFmul (VX.word f) f s

/-- FFMA (R183, R185). -/
def execFfma (f : VRFields) (s : State) : Out := vrFfma (VX.word f) f s

/-- FMIN (R183, R185). -/
def execFmin (f : VRFields) (s : State) : Out := vrFmin (VX.word f) f s

/-- FMAX (R183, R185). -/
def execFmax (f : VRFields) (s : State) : Out := vrFmax (VX.word f) f s

/-- FABS (R183, R185). -/
def execFabs (f : VRFields) (s : State) : Out := vrFabs (VX.word f) f s

/-- FNEG (R183, R185). -/
def execFneg (f : VRFields) (s : State) : Out := vrFneg (VX.word f) f s

/-- FCMPEQ (R183, R185). -/
def execFcmpeq (f : VRFields) (s : State) : Out := vrFcmpeq (VX.word f) f s

/-- FCMPLT (R183, R185). -/
def execFcmplt (f : VRFields) (s : State) : Out := vrFcmplt (VX.word f) f s

/-- FCMPLE (R183, R185). -/
def execFcmple (f : VRFields) (s : State) : Out := vrFcmple (VX.word f) f s

/-- FCMPUN (R183, R185). -/
def execFcmpun (f : VRFields) (s : State) : Out := vrFcmpun (VX.word f) f s

/-- FRCP (R183, R185). -/
def execFrcp (f : VRFields) (s : State) : Out := vrFrcp (VX.word f) f s

/-- FRSQ (R183, R185). -/
def execFrsq (f : VRFields) (s : State) : Out := vrFrsq (VX.word f) f s

/-- FSQRT (R183, R185). -/
def execFsqrt (f : VRFields) (s : State) : Out := vrFsqrt (VX.word f) f s

/-- FEXP2 (R183, R185). -/
def execFexp2 (f : VRFields) (s : State) : Out := vrFexp2 (VX.word f) f s

/-- FLOG2 (R183, R185). -/
def execFlog2 (f : VRFields) (s : State) : Out := vrFlog2 (VX.word f) f s

/-- FSIN (R183, R185). -/
def execFsin (f : VRFields) (s : State) : Out := vrFsin (VX.word f) f s

/-- FCOS (R183, R185). -/
def execFcos (f : VRFields) (s : State) : Out := vrFcos (VX.word f) f s

/-- FTANH (R183, R185). -/
def execFtanh (f : VRFields) (s : State) : Out := vrFtanh (VX.word f) f s

/-- FROUND (R183, R189). -/
def execFround (f : VRFields) (s : State) : Out := vrFround (VX.word f) f s

/-- FSCALE (R183, R190). -/
def execFscale (f : VRFields) (s : State) : Out := vrFscale (VX.word f) f s

/-- FCLASS (R183, R191). -/
def execFclass (f : VRFields) (s : State) : Out := vrFclass (VX.word f) f s

/-- FDOT2 (R183, R192). -/
def execFdot2 (f : VRFields) (s : State) : Out := vrFdot2 (VX.word f) f s

/-- CVT (R183, R193). -/
def execCvt (f : VRFields) (s : State) : Out := vrCvt (VX.word f) f s

/-- CBLD (R183, R195). -/
def execCbld (f : VRFields) (s : State) : Out := vrCbld (VX.word f) f s

/-- CBST (R183, R195). -/
def execCbst (f : VRFields) (s : State) : Out := vrCbst (VX.word f) f s

/-- The 16-bit form of FADD (R196). -/
def execFadd16 (f : HalfFields) (s : State) : Out := vrFadd (VX.half f) (halfBinary f 1) s

/-- The 16-bit form of FSUB (R196). -/
def execFsub16 (f : HalfFields) (s : State) : Out := vrFsub (VX.half f) (halfBinary f 1) s

/-- The 16-bit form of FMUL (R196). -/
def execFmul16 (f : HalfFields) (s : State) : Out := vrFmul (VX.half f) (halfBinary f 1) s

/-- The 16-bit form of FMAX (R196). -/
def execFmax16 (f : HalfFields) (s : State) : Out := vrFmax (VX.half f) (halfBinary f 1) s

end Sys2Proof.Machine
end

