-- ==== Sys2Proof/Machine/CrossLane.lean ====
section
/-! DEFINITION. Cross-lane instructions, OP 0x40 to 0x4B (R198 to R206), and the prefixed pair (R41). -/

namespace Sys2Proof.Machine

/-- Element p of a register at width w (R198). -/
def elemAt (x : VReg) (w p : Nat) : Nat := subElem (lane x (p / (64 / w))) w (p % (64 / w))

/-- The common effect of the moves: `val` gives a lane of D from the sources by position. -/
def clMove (x : VX) (f : VRFields) (long : Bool) (w : Nat) (regs : List Nat) (val : VReg → VReg → Nat → Word)
    (srcA srcB : State → Stream → Nat → VReg) (s : State) : Out :=
  s.issue x.issue fun t who s =>
    s.withRegs t regs <|
      let m := s.activeMask t who.tick x.p
      let a := srcA s t who.tick
      let b := srcB s t who.tick
      .done (s.writeResult t who long w x.p f.d.toNat m (byLane fun l => val a b l))

/-- A vector register as a source, in positions of `w` bits (R199). -/
def srcV (r : BitVec 6) (w : Nat := 64) : State → Stream → Nat → VReg := fun s t tick => s.rows t tick r.toNat w

/-- A scalar register as a source. -/
def srcS (r : BitVec 6) : State → Stream → Nat → VReg := fun s t tick => s.scalarRows t tick r.toNat

/-- A constant as a source. -/
def srcC (n : Word) : State → Stream → Nat → VReg := fun _ _ _ => byLane fun _ => n

/-- The position operand of BCAST and MOVVS: sB, or B as an unsigned constant (R200). -/
def srcPos (f : VRFields) : State → Stream → Nat → VReg := if f.x = 1 then srcS f.b else srcC (f.b.setWidth 64)

/-- SHFL (R202). -/
def vrShfl (x : VX) (f : VRFields) (s : State) : Out :=
  clMove x f true 64 ([f.d.toNat, f.a.toNat] ++ if f.x = 0 then [f.b.toNat] else [])
    (fun a b l =>
      let n : Int := f.b.toNat
      let q : Int := match f.x.toNat with
        | 0 => ((lane b l).toNat % 32 : Nat)
        | 1 => l - n
        | 2 => l + n
        | _ => (l ^^^ f.b.toNat : Nat)
      if 0 ≤ q ∧ q ≤ 31 then lane a q.toNat else lane a l)
    (srcV f.a) (if f.x = 0 then srcV f.b else srcC 0) s

/-- BCAST (R202). -/
def vrBcast (x : VX) (f : VRFields) (s : State) : Out :=
  let w := intWidth f.t
  clMove x f true w [f.d.toNat, f.a.toNat] (fun a b l => splat w (elemAt a w ((lane b l).toNat % (32 * (64 / w))))) (srcV f.a w)
    (srcPos f) s

/-- PERM (R202). -/
def vrPerm (x : VX) (f : VRFields) (s : State) : Out :=
  let w := intWidth f.t
  clMove x f true w [f.d.toNat, f.a.toNat, f.b.toNat]
    (fun a b l => packElems w ((List.range (64 / w)).map fun j => elemAt a w (subElem (lane b l) w j % (32 * (64 / w)))))
    (srcV f.a w) (srcV f.b) s

/-- MOVSV (R202). -/
def vrMovsv (x : VX) (f : VRFields) (s : State) : Out :=
  let w := intWidth f.t
  clMove x f false w [f.d.toNat] (fun a _ l => splat w ((lane a l).toNat % 2 ^ w)) (srcS f.a) (srcC 0) s

/-- IOTA (R202). -/
def vrIota (x : VX) (f : VRFields) (s : State) : Out :=
  let w := intWidth f.t
  let n := 64 / w
  clMove x f true w [f.d.toNat]
    (fun _ b l => packElems w ((List.range n).map fun j => ((lane b l).toNat + n * l + j) % 2 ^ w))
    (srcC 0) (match f.x.toNat with | 0 => srcC 0 | 1 => srcS f.b | _ => srcC (BitVec.ofInt 64 (imm6 f.b))) s

/-- MOVVS (R202): written whatever the mask. -/
def vrMovvs (x : VX) (f : VRFields) (s : State) : Out :=
  let w := intWidth f.t
  s.issue x.issue fun t who s =>
    s.withRegs t [f.a.toNat] <|
      let a := s.rows t who.tick f.a.toNat w
      .done <| t.homes.foldl (fun s k =>
        let q := if f.x = 1 then (s.gangS t.launch k t.sid who.tick f.b.toNat).toNat else f.b.toNat
        s.updGang t.launch k fun g => g.putS who true f.d.toNat (BitVec.ofInt 64 (sextN (elemAt a w (q % (32 * (64 / w)))) w))) s

/-- Bits of a mask register written in the active lanes, cleared in the stream's other lanes under Z; an empty mask changes
nothing (R203, R199). -/
def State.writeMask (s : State) (t : Stream) (w : Who) (long : Bool) (p : Prefix) (d : Nat) (m x : Mask) : State :=
  if m = 0 then s
  else
    t.homes.foldl (fun s k => s.updGang t.launch k fun g =>
      let cover := (if p.z then t.active else m) &&& lanesOf (t.slotsOf k)
      if cover = 0 then g else g.putM w long d cover (x &&& m)) s

/-- BALLOT (R203). -/
def vrBallot (x : VX) (f : VRFields) (s : State) : Out :=
  s.issue x.issue fun t who s =>
    s.withRegs t [f.a.toNat] <|
      let a := s.rows t who.tick f.a.toNat
      .done (s.writeMask t who true x.p f.d.toNat (s.activeMask t who.tick x.p) (maskOf fun l => lane a l != 0))

/-- MSET (R203). -/
def vrMset (x : VX) (f : VRFields) (s : State) : Out :=
  s.issue x.issue fun t who s =>
    let a := s.scalarRows t who.tick f.a.toNat
    .done (s.writeMask t who false x.p f.d.toNat (s.activeMask t who.tick x.p) (maskOf fun l => (lane a l).getLsbD l))

/-- The lowest lane of a mask, or 32. -/
def lowestLane (m : Mask) : Nat := ((List.range 32).find? fun l => m.getLsbD l).getD 32

/-- FIRST (R204). -/
def vrFirst (x : VX) (f : VRFields) (s : State) : Out :=
  s.issue x.issue fun t who s =>
    let m := s.activeMask t who.tick x.p &&& s.maskRows t who.tick (f.a.toNat % 16)
    .done (s.writeScalars t who true f.d.toNat (toWord (lowestLane m)))

/-! Reductions. -/

/-- The operation selector of RED, SCAN and MRED (R201), with the type and SAT. -/
structure Reducer where
  float : Bool
  opr : Nat
  ty : Fmt
  w : Nat
  sat : Bool
  deriving DecidableEq, Repr

/-- The selector of a word (R201). -/
def reducerOf (p : Prefix) (f : VRFields) : Reducer :=
  let fl := f.b.getLsbD 3
  { float := fl, opr := f.b.toNat % 8, ty := floatType f.t, w := if fl then (floatType f.t).width else intWidth f.t, sat := p.sat }

/-- A value on its way through the tree: an exact integer, or a float of the working format with the flags so far. -/
inductive RVal where
  | int (i : Int)
  | flt (v : FVal) (f : Flags)
  deriving DecidableEq, Repr

/-- The working format of a float reduction (R67). -/
def Reducer.work (r : Reducer) : FloatFmt := match r.ty with | .f64 => ffF64 | _ => ffF32

/-- widen of R67. -/
def Reducer.widen (r : Reducer) (cb : Codebook) (x : Nat) : RVal :=
  if r.float then .flt (dec r.ty cb x) 0 else if r.opr < 3 then .int (sextN x r.w) else .int x

/-- combine of R67 on two elements. -/
def Reducer.combine (r : Reducer) (a b : RVal) : RVal :=
  match a, b with
  | .flt x fx, .flt y fy =>
    if r.opr = 0 then
      let (s, f1) := FVal.add false x y
      let (v, f2) := r.work.rne s
      .flt v (fx ||| fy ||| f1 ||| f2)
    else
      let (v, f) := FVal.minMax (r.opr == 2) x y
      .flt v (fx ||| fy ||| f)
  | .int x, .int y =>
    .int (match r.opr with
      | 0 => x + y
      | 1 => min x y
      | 2 => max x y
      | 3 => ((x.toNat &&& y.toNat : Nat) : Int)
      | 4 => ((x.toNat ||| y.toNat : Nat) : Int)
      | _ => ((x.toNat ^^^ y.toNat : Nat) : Int))
  | x, _ => x

/-- narrow of R67. -/
def Reducer.narrow (r : Reducer) (cb : Codebook) : RVal → Nat × Flags
  | .int i => (narrowInt r.sat r.w i, 0)
  | .flt v f => let (x, g) := enc r.ty cb .rne false v; (x, f ||| g)

/-- The identity of R69; at .cb4 a float identity is the index that its value encodes to, without flags (log 60). -/
def Reducer.identity (r : Reducer) (cb : Codebook) : Nat :=
  if r.float then
    (enc r.ty cb .rne false (if r.opr = 0 then .fin false 0 0 else .nan false)).1
  else match r.opr with
    | 1 => 2 ^ (r.w - 1) - 1
    | 2 => 2 ^ (r.w - 1)
    | 3 => 2 ^ r.w - 1
    | _ => 0

/-- The codebook that element j takes of the slice at each lane (R63, R195). -/
def State.codebooks (s : State) (t : Stream) (tick : Nat) (l j : Nat) : Codebook :=
  match s.gang? t.launch ((vget t.slots (l / 4) none).getD (t.homes.headD 0)) with
  | some g => g.readCb t.sid tick (64 * l + j)
  | none => Vector.replicate 16 0

/-- The elements by position of the lanes of a mask (R67). -/
def Reducer.elems (r : Reducer) (cbs : Nat → Nat → Codebook) (a : VReg) (m : Mask) : List (Option RVal) :=
  (List.range 32).flatMap fun l => (List.range (64 / r.w)).map fun j =>
    if m.getLsbD l then some (r.widen (cbs l j) (subElem (lane a l) r.w j)) else none

/-- The tree of R67 over the lanes of a mask. -/
def Reducer.tree (r : Reducer) (cbs : Nat → Nat → Codebook) (a : VReg) (m : Mask) : Option RVal :=
  treeReduce r.combine (Nat.log2 (32 * (64 / r.w))) (r.elems cbs a m)

/-- The flags of every value a reduction leaves, a narrowing with another home gang's codebook included, into each home gang that has an
active lane: in a packed stream the spec does not say which gang takes which (log 43). -/
def State.raiseAll (s : State) (t : Stream) (w : Who) (m : Mask) (f : Flags) : State :=
  t.homes.foldl (fun s k => if m &&& lanesOf (t.slotsOf k) = 0 then s else s.updGang t.launch k fun g => g.raise w f) s

/-- RED (R205). -/
def vrRed (x : VX) (f : VRFields) (s : State) : Out :=
  let r := reducerOf x.p f
  s.issue x.issue fun t who s =>
    s.withRegs t ([f.a.toNat] ++ if f.x = 0 then [f.d.toNat] else []) <| s.withNet t who <|
      let m := s.activeMask t who.tick x.p
      let a := s.rows t who.tick f.a.toNat
      let cbs := s.codebooks t who.tick
      let v := r.tree cbs a m
      let out := fun cb => match v with
        | some v => r.narrow cb v
        | none => (r.identity cb, (0 : Flags))
      let fl := t.homes.foldl (fun acc k => acc ||| (out (cbs (4 * t.lowSlot k) 0)).2) (0 : Flags)
      let s0 := s
      let s :=
        if f.x = 0 then
          s.writeResult t who true r.w x.p f.d.toNat m (byLane fun l => splat r.w (out (cbs l 0)).1)
        else
          t.homes.foldl (fun s k => s.updGang t.launch k fun g =>
            let n := (out (cbs (4 * t.lowSlot k) 0)).1
            g.putS who true f.d.toNat (if r.float then toWord n else BitVec.ofInt 64 (sextN n r.w))) s
      .done ((if m = 0 then s else s.raiseAll t who m fl).holdNet s0 t)

/-- The running results of R68: outputs by position, with flags. -/
def Reducer.scanFrom (r : Reducer) (excl : Bool) (cbs : Nat → Nat → Codebook) : Nat → Option RVal → List (Option RVal) → List (Nat × Flags)
  | _, _, [] => []
  | p, acc, none :: rest => (0, 0) :: r.scanFrom excl cbs (p + 1) acc rest
  | p, acc, some v :: rest =>
    let cb := cbs (p / (64 / r.w)) (p % (64 / r.w))
    let acc' := match acc with
      | some a => r.combine a v
      | none => v
    let out := if excl then (match acc with
        | some a => r.narrow cb a
        | none => (r.identity cb, 0)) else r.narrow cb acc'
    out :: r.scanFrom excl cbs (p + 1) (some acc') rest

/-- The flags of the running combinations of R68, the last one included. -/
def Reducer.runFlags (r : Reducer) (l : List (Option RVal)) : Flags :=
  match l.foldl (fun (acc o : Option RVal) => match acc, o with
      | none, o => o
      | some a, some v => some (r.combine a v)
      | acc, none => acc) none with
  | some (.flt _ f) => f
  | _ => 0

/-- SCAN (R68, R205). -/
def vrScan (x : VX) (f : VRFields) (s : State) : Out :=
  let r := reducerOf x.p f
  s.issue x.issue fun t who s =>
    s.withRegs t [f.a.toNat, f.d.toNat] <| s.withNet t who <|
      let m := s.activeMask t who.tick x.p
      let a := s.rows t who.tick f.a.toNat
      let cbs := s.codebooks t who.tick
      let out := (r.scanFrom (f.x = 1) cbs 0 none (r.elems cbs a m)).toArray
      let n := 64 / r.w
      let val := byLane fun l => packElems r.w ((List.range n).map fun j => (out.getD (n * l + j) (0, 0)).1)
      let fl := out.foldl (fun acc y => acc ||| y.2) (r.runFlags (r.elems cbs a m))
      .done (((s.writeResult t who true r.w x.p f.d.toNat m val).raiseAll t who m fl).holdNet s t)

/-- MRED (R205). -/
def vrMred (x : VX) (f : VRFields) (s : State) : Out :=
  let r := reducerOf x.p f
  s.issue x.issue fun t who s =>
    s.withRegs t [f.a.toNat, f.d.toNat] <| s.withNet t who <|
      let m := s.activeMask t who.tick x.p
      let a := s.rows t who.tick f.a.toNat
      let keys := s.rows t who.tick f.d.toNat
      let cbs := s.codebooks t who.tick
      let groupOf := fun l => maskOf fun q => m.getLsbD q && lane keys q == lane keys l
      let res := vtab 32 fun l => if m.getLsbD l then (match r.tree cbs a (groupOf l) with
        | some v => r.narrow (cbs l 0) v
        | none => (0, 0)) else (0, (0 : Flags))
      let leaders := maskOf fun l => m.getLsbD l && lowestLane (groupOf l) == l
      let fl := res.toList.foldl (fun acc y => acc ||| y.2) (0 : Flags)
      let s0 := s
      let s := s.writeResult t who true r.w x.p f.d.toNat m (byLane fun l => splat r.w (vget res l (0, 0)).1)
      let s := t.homes.foldl (fun s k => s.updGang t.launch k fun g => g.putM who true 15 (lanesOf (t.slotsOf k)) leaders) s
      .done ((s.raiseAll t who m fl).holdNet s0 t)

/-- SHFL (R202). -/
def execShfl (f : VRFields) (s : State) : Out := vrShfl (VX.word f) f s

/-- BCAST (R202). -/
def execBcast (f : VRFields) (s : State) : Out := vrBcast (VX.word f) f s

/-- PERM (R202). -/
def execPerm (f : VRFields) (s : State) : Out := vrPerm (VX.word f) f s

/-- MRED (R205). -/
def execMred (f : VRFields) (s : State) : Out := vrMred (VX.word f) f s

/-- SCAN (R68). -/
def execScan (f : VRFields) (s : State) : Out := vrScan (VX.word f) f s

/-- RED (R205). -/
def execRed (f : VRFields) (s : State) : Out := vrRed (VX.word f) f s

/-- BALLOT (R203). -/
def execBallot (f : VRFields) (s : State) : Out := vrBallot (VX.word f) f s

/-- MSET (R203). -/
def execMset (f : VRFields) (s : State) : Out := vrMset (VX.word f) f s

/-- MOVSV (R202). -/
def execMovsv (f : VRFields) (s : State) : Out := vrMovsv (VX.word f) f s

/-- MOVVS (R202). -/
def execMovvs (f : VRFields) (s : State) : Out := vrMovvs (VX.word f) f s

/-- FIRST (R204). -/
def execFirst (f : VRFields) (s : State) : Out := vrFirst (VX.word f) f s

/-- IOTA (R202). -/
def execIota (f : VRFields) (s : State) : Out := vrIota (VX.word f) f s

/-- A prefixed pair: the base instruction with the prefix's mask, zeroing, saturation, rounding and fourth operand (R40,
R41). -/
def execPrefixedInstruction (p : Prefix) (op : VROp) (f : VRFields) (s : State) : Out :=
  let x := VX.pair p f
  match op with
  | .iadd => vrIadd x f s
  | .isub => vrIsub x f s
  | .iadds => vrIadds x f s
  | .isubs => vrIsubs x f s
  | .imul => vrImul x f s
  | .imulh => vrImulh x f s
  | .umulh => vrUmulh x f s
  | .imad => vrImad x f s
  | .imin => vrImin x f s
  | .imax => vrImax x f s
  | .umin => vrUmin x f s
  | .umax => vrUmax x f s
  | .iabs => vrIabs x f s
  | .shl => vrShl x f s
  | .shr => vrShr x f s
  | .sar => vrSar x f s
  | .and => vrAnd x f s
  | .or => vrOr x f s
  | .xor => vrXor x f s
  | .andn => vrAndn x f s
  | .popc => vrPopc x f s
  | .clz => vrClz x f s
  | .brev => vrBrev x f s
  | .bfx => vrBfx x f s
  | .bfi => vrBfi x f s
  | .lea => vrLea x f s
  | .icmpeq => vrIcmpeq x f s
  | .icmplt => vrIcmplt x f s
  | .icmpltu => vrIcmpltu x f s
  | .sel => vrSel x f s
  | .mov => vrMov x f s
  | .fadd => vrFadd x f s
  | .fsub => vrFsub x f s
  | .fmul => vrFmul x f s
  | .ffma => vrFfma x f s
  | .fmin => vrFmin x f s
  | .fmax => vrFmax x f s
  | .fabs => vrFabs x f s
  | .fneg => vrFneg x f s
  | .fcmpeq => vrFcmpeq x f s
  | .fcmplt => vrFcmplt x f s
  | .fcmple => vrFcmple x f s
  | .fcmpun => vrFcmpun x f s
  | .frcp => vrFrcp x f s
  | .frsq => vrFrsq x f s
  | .fsqrt => vrFsqrt x f s
  | .fexp2 => vrFexp2 x f s
  | .flog2 => vrFlog2 x f s
  | .fsin => vrFsin x f s
  | .fcos => vrFcos x f s
  | .ftanh => vrFtanh x f s
  | .fround => vrFround x f s
  | .fscale => vrFscale x f s
  | .fclass => vrFclass x f s
  | .fdot2 => vrFdot2 x f s
  | .cvt => vrCvt x f s
  | .cbld => vrCbld x f s
  | .cbst => vrCbst x f s
  | .shfl => vrShfl x f s
  | .bcast => vrBcast x f s
  | .perm => vrPerm x f s
  | .mred => vrMred x f s
  | .scan => vrScan x f s
  | .red => vrRed x f s
  | .ballot => vrBallot x f s
  | .mset => vrMset x f s
  | .movsv => vrMovsv x f s
  | .movvs => vrMovvs x f s
  | .first => vrFirst x f s
  | .iota => vrIota x f s

end Sys2Proof.Machine
end

