-- ==== Sys2Proof/Machine/Halyard.lean ====
section
/-! DEFINITION. Halyard: plans, triggers, rounds, reductions, completion, deadlines (R236 to R245, R337, R338), HFIRE and
HSTAT (R240). -/

namespace Sys2Proof.Machine

/-- A plan that is neither freed nor unknown, of a PASID (R239). -/
def State.livePlan (s : State) (pasid h : Nat) : Option Plan :=
  (s.plan? h).bind fun p => if p.pasid == pasid && !p.freed then some p else none

/-- Bucket n of a plan. -/
def Plan.bucket? (p : Plan) (n : Nat) : Option Bucket := p.buckets.find? (·.n == n)

/-- The named buffer of a bucket (R237). -/
def State.bufferOf (s : State) (p : Plan) (n : Nat) : Option HalyardBuffer :=
  s.buffers.find? fun b => b.pasid == p.pasid && b.n == p.bufs.getD n 4096

/-- The format of a buffer. -/
def HalyardBuffer.format (b : HalyardBuffer) : Fmt := (Fmt.ofCode b.fmt).getD .f32

/-- This device's rank in a plan (R237). -/
def Plan.rank (p : Plan) : Nat := p.ranks.idxOf Config.deviceId.toNat

/-- What became of an engine's access, with the state that it leaves: `denied` by permission, memory kind or a full region (R241, R314);
`bad`: a line in error (R327); `held`: a line is held (R108, R317), and nothing more happens yet. -/
inductive EngineRes (α : Type) where
  | ok (s : State) (x : α)
  | fault (s : State) (va : Word) (reason acc : Nat)
  | denied (s : State)
  | bad (s : State) (line : Nat)
  | held (s : State)

/-- The next part of an engine's work, once the part before it is done. -/
def EngineRes.bind (r : EngineRes α) (go : State → α → EngineRes β) : EngineRes β :=
  match r with
  | .ok s x => go s x
  | .fault s va reason acc => .fault s va reason acc
  | .denied s => .denied s
  | .bad s line => .bad s line
  | .held s => .held s

/-- The state that an engine's access leaves. -/
def EngineRes.state : EngineRes α → State
  | .ok s _ | .fault s _ _ _ | .denied s | .bad s _ | .held s => s

/-- An engine's access to a line of coherent memory through a PASID: its PA (R78, R241). A and D are set once the access is permitted. -/
def State.engineLine (s : State) (die : Option Nat) (pasid : Nat) (va : Word) (acc : Access) : EngineRes Nat :=
  match s.engineAccess pasid va acc die with
  | .error (.fault r) => .fault s va r (if acc.writes then 1 else 0)
  | .error .wait => .held s
  | .error _ => .denied s
  | .ok (s', x) =>
    if 2 ≤ x.kind then .denied s
    else if acc.writes && s.lineBusy x.pa || s.guest.owned.contains (lineOf x.pa) then .held s
    else .ok s' x.pa

/-- An engine reads bytes line by line through a PASID, of coherent-device or host-coherent memory (R108, R241). -/
def State.engineRead (s : State) (pasid : Nat) (a : Word) (n : Nat) : EngineRes (List Byte) :=
  (byLine (cellsOf a.toNat (List.replicate n 0))).foldl (fun acc g => acc.bind fun s bs => match g with
    | [] => .ok s bs
    | (va, _) :: _ => (s.engineLine none pasid (toWord va) .load).bind fun s pa =>
      if s.badLines.contains (lineOf pa) then .bad s (lineOf pa) else .ok s (bs ++ s.mem.read pa g.length)) (.ok s [])

/-- One engine write of bytes of one line, by VA: logged where a region asks for it (R313, R314). -/
def State.engineWriteLine (s : State) (die : Option Nat) (pasid : Nat) (g : List Host.Cell) : EngineRes Unit :=
  match g with
  | [] => .ok s ()
  | (va, _) :: _ => (s.engineLine die pasid (toWord va) .store).bind fun s pa =>
    match s.storeLogged (die.map fun d => ⟨d, pasid⟩) pa (g.map (·.2)) with
    | .ok s => .ok s ()
    | .refused s _ _ => .denied s

/-- An engine writes bytes line by line (R108). -/
def State.engineWrite (s : State) (pasid : Nat) (a : Word) (bytes : List Byte) : EngineRes Unit :=
  (byLine (cellsOf a.toNat bytes)).foldl (fun acc g => acc.bind fun s () => s.engineWriteLine none pasid g) (.ok s ())

/-- A class-1 fault record of a Halyard engine holds the bucket (R241). -/
def State.parkBucket (s : State) (h n pasid : Nat) (va : Word) (reason acc : Nat) : State :=
  (s.addRecord { addr := va, src := toWord (h * 2 ^ 32 + n), pasid := pasid, reason := reason, acc := acc, skind := .halyard, cls := 1 }
    (.bucket h n)).updBucket h n fun b => { b with parked := true }

/-- The bucket ends with status error and a reason, and the plan enters error (R241, R245). -/
def State.failBucket (s : State) (h n reason : Nat) : State :=
  (s.updBucket h n fun b => { b with reason := if b.reason = 0 then reason else b.reason, parked := false }).updPlan h
    fun p => { p with err := true }

/-- The elements of a slice from its bytes. -/
def elemsOf (w : Nat) (bs : List Byte) : List Nat :=
  (List.range (bs.length / w)).map fun i => leNat ((bs.drop (w * i)).take w)

/-- The device of the next rank, to which this one sends (R242). -/
def Plan.next (p : Plan) : Nat := p.ranks.getD ((p.rank + 1) % p.ranks.length) 0

/-- A contribution sent to the next rank, unless it is that rank's own (R242; log 22). -/
def State.sendNext (s : State) (p : Plan) (q : HalyardPacket) : State :=
  if q.rank == (p.rank + 1) % p.ranks.length then s else { s with halyardOut := s.halyardOut ++ [(p.next, q)] }

/-- This device's contribution to a slice, none if EMPTY: taken into the round, and sent on. -/
def State.contribute (s : State) (p : Plan) (b : HalyardBuffer) (k : Bucket) (slice : Nat) (elems : Option (List Nat)) : State :=
  (s.updBucket p.handle k.n fun k => { k with contribs := k.contribs ++ [{ rank := p.rank, slice := slice, elems := elems }] }).sendNext p
    { handle := p.handle, bucket := k.n, round := k.fires % 256, rank := p.rank, slice := slice, fmt := b.fmt, len := b.len, elems := elems }

/-- A rank's contribution to a slice has come, or been given (R242). -/
def Bucket.gave (b : Bucket) (rank slice : Nat) : Bool := b.contribs.any fun c => c.rank == rank && c.slice == slice

/-- The base dies read this device's contribution, each line once (R241). A line in error ends the bucket with reason 6 and posts a class-5
record (R234, R327). -/
def State.readOwn (s : State) (h n : Nat) : State :=
  match s.plan? h with
  | none => s
  | some p =>
    match s.bufferOf p n with
    | none => s.failBucket h n 5
    | some b =>
      let w := b.format.width / 8
      (List.range 8).foldl (fun s i =>
        match (s.plan? h).bind (·.bucket? n) with
        | none => s
        | some k =>
          if k.parked || k.reason != 0 || k.gave p.rank i then s
          else match s.engineRead p.pasid (toWord (b.slices.getD i 0)) (b.len * w) with
            | .fault s va r acc => s.parkBucket h n p.pasid va r acc
            | .denied s => s.failBucket h n 5
            | .bad s line => (s.lineError
                { addr := 0, src := toWord (h * 2 ^ 32 + n), pasid := p.pasid, reason := 0, acc := 0, skind := .halyard, cls := 5 }
                line).failBucket h n 6
            | .held s => s
            | .ok s bs => s.contribute p b k i (some (elemsOf w bs))) s

/-- What this device still owes to the other ranks of a bucket goes out as EMPTY, with its buffer's format and length. -/
def State.sendRest (s : State) (p : Plan) (b : HalyardBuffer) (n : Nat) : State :=
  (List.range 8).foldl (fun s i => match (s.plan? p.handle).bind (·.bucket? n) with
    | some k => if k.gave p.rank i then s else s.contribute p b k i none
    | none => s) s

/-- A packet of the round under way is reduced and passed on; a buffer whose format or length differs ends the bucket, here and, by this
device's own packets, at the other ranks (R237, R242, R337). -/
def State.takePacket (s : State) (q : HalyardPacket) : State :=
  match s.plan? q.handle with
  | none => s.countHub
  | some p =>
    match s.bufferOf p q.bucket, p.bucket? q.bucket with
    | some b, some k =>
      if k.gave q.rank q.slice then s
      else
        let s := s.sendNext p q
        if q.fmt != b.fmt || q.len != b.len then (s.failBucket q.handle q.bucket 21).sendRest p b q.bucket
        else s.updBucket q.handle q.bucket fun k =>
          { k with contribs := k.contribs ++ [{ rank := q.rank, slice := q.slice, elems := q.elems }] }
    | _, _ => s.countHub

/-- A round of a bucket starts on this device, by its trigger or by a deadline (R241, R245, R337): its contribution is read if it is
triggered, and packets held for the round are reduced. -/
def State.startRound (s : State) (h n : Nat) (own intr : Bool) : State :=
  let held := (((s.plan? h).bind (·.bucket? n)).map (·.held)).getD []
  let s := s.updBucket h n fun b =>
    { b with
      fires := b.fires + 1, inFlight := true, order := s.seq, intr := intr, own := own, owed := if own then b.owed else b.owed + 1, contribs := []
      late := 0, reason := 0, parked := false, held := b.held.filter fun q => q.round != (b.fires + 1) % 256
      expired := [], written := [], recorded := false }
  let s := { s with seq := s.seq + 1 }
  let cur := ((((s.plan? h).bind (·.bucket? n)).map (·.fires)).getD 0) % 256
  let s := if own then s.readOwn h n else s
  (held.filter fun q => q.round == cur).foldl State.takePacket s

/-- The LATE field of the record in memory raised by what is due (R338); what it waits for comes later, and a record that cannot be
written stays as it is. -/
def State.rewriteLate (s : State) (h n : Nat) : State :=
  match (s.plan? h).bind fun p => (p.bucket? n).map fun b => (p, b) with
  | none => s
  | some (p, b) =>
    let a := p.recVa + toWord (64 * n + 28)
    let settled := fun (s : State) => s.updBucket h n fun b => { b with lateDue := 0 }
    let r := (s.engineRead p.pasid a 4).bind fun s bs => s.engineWrite p.pasid a (leBytes 4 ((leNat bs + b.lateDue) % 2 ^ 32))
    if b.lateDue = 0 || b.parked then s
    else match r with
      | .ok s () => settled s
      | .fault s va r acc => s.parkBucket h n p.pasid va r acc
      | .denied s => settled s
      | .bad s _ => settled s
      | .held s => s

/-- Bytes of a mask: bit r for rank r, 64 ranks to a word (R244). -/
def rankMask (ranks : List Nat) (words : Nat) : List Byte :=
  leBytes (8 * words) (ranks.foldl (fun m r => if m / 2 ^ r % 2 = 0 then m + 2 ^ r else m) 0)

/-- A trigger owed to the oldest of the rounds that a deadline began: it starts no round (R245, R338). Where that round is under way, the
base dies that still wait for this device read its contribution; what came too late is counted in LATE, in the record if it is written. -/
def State.lateTrigger (s : State) (h n : Nat) (b : Bucket) : State :=
  let now := b.inFlight && !b.own && b.owed == 1
  let s := s.updBucket h n fun b =>
    { b with
      owed := b.owed - 1, own := b.own || now
      late := if now && !b.recorded then b.late + 1 else b.late
      lateDue := if now && !b.recorded then b.lateDue else b.lateDue + 1 }
  if now && !b.recorded then s.readOwn h n else s.rewriteLate h n

/-- A trigger's fate: refused with the lowest of the reasons 16 to 20, or fired (R239, R240). One owed to a round that a deadline began
starts none (R245, R338). -/
def State.fireBucket (s : State) (pasid : Nat) (v : Word) : Except Nat State :=
  let h := bits v 63 32
  let n := bits v 31 16
  match s.livePlan pasid h with
  | none => .error 16
  | some p =>
    match p.bucket? n with
    | none => .error 17
    | some b =>
      if b.inFlight && b.owed == 0 then .error 18
      else if bits v 15 1 != 0 then .error 19
      else if p.err then .error 20
      else if 0 < b.owed then .ok (s.lateTrigger h n b)
      else .ok (s.startRound h n true (v.getLsbD 0))

/-- The working format of a reduction (R242). -/
def halyardReducer (p : Plan) (f : Fmt) : Reducer :=
  { float := f != .i32, opr := p.opr, ty := f, w := f.width, sat := false }

/-- A codebook of zeros: no Halyard format uses one. -/
def noCodebook : Codebook := Vector.replicate 16 0

/-- The chunk that element i of L belongs to among N (R242). -/
def chunkOf (N L i : Nat) : Nat :=
  ((List.range N).find? fun c => decide (c * L / N ≤ i) && decide (i < (c + 1) * L / N)).getD 0

/-- The smallest k with N ≤ 2^k. -/
def log2Ceil (N : Nat) : Nat := if N ≤ 1 then 0 else Nat.log2 (N - 1) + 1

/-- The narrowing of a result saturated or encoded a NaN (R57). -/
def Reducer.counted (r : Reducer) : RVal → Bool
  | .int _ => false
  | .flt v _ => (workFmt r.ty).counted v ((workFmt r.ty).encode .rne v).2

/-- The result of one element of a slice, none where this device's element stays, and whether it is counted (R57, R242, R243, R245).
`x r` is rank r's element, none where its contribution is empty. -/
def Plan.result (p : Plan) (f : Fmt) (L i : Nat) (x : Nat → Option Nat) : Option (Nat × Bool) :=
  let N := p.ranks.length
  let c := chunkOf N L i
  let r := halyardReducer p f
  let wide := fun k => (x k).map (r.widen noCodebook)
  let join := fun (a b : Option RVal) => match a, b with
    | some a, some b => some (r.combine a b)
    | some a, none => some a
    | none, b => b
  let ring := (List.range N).foldl (fun acc t => join acc (wide ((c + 1 + t) % N))) none
  let tree := treeReduce r.combine (log2Ceil N) ((List.range (2 ^ log2Ceil N)).map fun k => if k < N then wide k else none)
  let narrow := fun (v : Option RVal) => v.map fun v => ((r.narrow noCodebook v).1, r.counted v)
  let copy := fun (v : Option Nat) => v.map fun v => (v, false)
  match p.coll with
  | 0 => narrow (if p.alg = 1 then tree else ring)
  | 1 => copy (x c)
  | 2 => if c = p.rank then narrow ring else none
  | _ => copy (x p.root)

/-- Every contribution has come (R242, R245, R337). -/
def Plan.ready (p : Plan) (b : Bucket) : Bool :=
  (List.range p.ranks.length).all fun r => (List.range 8).all fun i => b.gave r i

/-- The ranks whose contribution is in every element (R244): none of it is EMPTY, of a broadcast too (log 22). -/
def Plan.present (p : Plan) (b : Bucket) : List Nat :=
  (List.range p.ranks.length).filter fun r => (List.range 8).all fun i =>
    ((b.contribs.find? fun c => c.rank == r && c.slice == i).bind (·.elems)).isSome

/-- The results of slice i of a bucket: the cells by VA, and the VAs of the elements that are counted (R57, R242). -/
def sliceResults (p : Plan) (b : Bucket) (buf : HalyardBuffer) (i : Nat) : List Host.Cell × List Nat :=
  let f := buf.format
  let w := f.width / 8
  let at_ := fun r e => (((b.contribs.find? fun c => c.rank == r && c.slice == i).bind (·.elems)).bind (·[e]?))
  (List.range buf.len).foldl (fun acc e =>
    let va := buf.slices.getD i 0 + w * e
    match p.result f buf.len e (fun r => at_ r e) with
    | some (v, counted) => (acc.1 ++ cellsOf va (leBytes w v), if counted then acc.2 ++ [va] else acc.2)
    | none => acc) ([], [])

/-- The result lines of a bucket not yet written, slice by slice, each whole and once (R108, R241 to R244; log 48); with a line its
saturations are counted (R57). -/
def State.writeResults (s : State) (p : Plan) (b : Bucket) (buf : HalyardBuffer) : EngineRes Unit :=
  (List.range 8).foldl (fun acc i => acc.bind fun s () =>
    let (cells, hits) := sliceResults p b buf i
    ((byLine cells).filter fun g => !g.any fun c => b.written.contains (lineOf c.1)).foldl (fun acc g => acc.bind fun s () =>
      (s.engineWriteLine none p.pasid g).bind fun s () =>
        let line := (g.head?.map fun c => lineOf c.1).toList
        let n := (hits.filter fun va => line.contains (lineOf va)).length
        let s := if n = 0 then s else s.count (384 + i) 0x20 p.pasid n
        .ok (s.updBucket p.handle b.n fun b => { b with written := b.written ++ line }) ()) (.ok s ())) (.ok s ())

/-- The completion record (R244). -/
def completionRecord (p : Plan) (b : Bucket) (clock : Word) (late : Bool) : List Byte :=
  let err := b.reason != 0
  let ranks := if err then [] else p.present b
  let status := if err then 8 else 1 + (if ranks.length < p.ranks.length then 2 else 0) + (if late then 4 else 0)
  leBytes 2 0 ++ leBytes 2 b.n ++ leBytes 2 status ++ leBytes 2 b.reason ++ leBytes 8 (b.fires % 256) ++ wordBytes clock ++
    leBytes 4 ranks.length ++ leBytes 4 b.late ++ rankMask (ranks.filter (· < 256)) 4

/-- A bucket is done with: interrupt, INFL and DONE (R240, R244). -/
def State.closeBucket (s : State) (h n : Nat) : State :=
  let intr := ((s.plan? h).bind (·.bucket? n)).any (·.intr)
  let pasid := ((s.plan? h).map (·.pasid)).getD 0
  let s := if intr then s.interrupt (s.vectorOf pasid) (.bucketDone h n) else s
  (s.updBucket h n fun b => { b with inFlight := false, parked := false }).updPlan h fun p => { p with done := (p.done + 1) % 2 ^ 32 }

/-- The knot arrival of a bucket whose record is written, and then its end (R244). A refused one puts the plan in error. -/
def State.arriveBucket (s : State) (h n : Nat) : State :=
  match s.plan? h with
  | none => s
  | some p => match s.engineArrive p.pasid p.knot with
    | .done s => s.closeBucket h n
    | .refused s => (s.updPlan h fun p => { p with err := true }).closeBucket h n
    | .held => s
    | .fault reason => s.parkBucket h n p.pasid p.knot reason 2

/-- The end of a bucket on this device: record and mask area, then knot arrival and interrupt (R244). What it waits for comes later; a
record that is refused leaves the plan in error, and the arrival follows (log 22). -/
def State.endBucket (s : State) (h n : Nat) : State :=
  match (s.plan? h).bind fun p => (p.bucket? n).map fun b => (p, b) with
  | none => s
  | some (p, b) =>
    if b.recorded then s.arriveBucket h n
    else
      let words := (p.ranks.length + 63) / 64
      let recorded := fun (s : State) => (s.updBucket h n fun b => { b with recorded := true }).arriveBucket h n
      let err := fun (s : State) => s.updPlan h fun p => { p with err := true }
      let park := fun (s : State) va r acc => s.parkBucket h n p.pasid va r acc
      let mask := fun (s : State) =>
        if p.maskVa = 0 then recorded s
        else match s.engineWrite p.pasid (p.maskVa + toWord (8 * words * n)) (rankMask (if b.reason != 0 then [] else p.present b) words) with
          | .ok s () => recorded s
          | .fault s va r acc => park s va r acc
          | .denied s => recorded (err s)
          | .bad s _ => recorded (err s)
          | .held s => s
      match s.engineWrite p.pasid (p.recVa + toWord (64 * n)) (completionRecord p b s.clock (!b.expired.isEmpty)) with
      | .ok s () => mask s
      | .fault s va r acc => park s va r acc
      | .denied s => mask (err s)
      | .bad s _ => mask (err s)
      | .held s => s

/-- This device's own contribution is read as far as it was not yet (R241). -/
def State.resumeOwn (s : State) (h n : Nat) : State :=
  match (s.plan? h).bind fun p => p.bucket? n with
  | some b => if b.inFlight && b.own && !b.parked && b.reason = 0 then s.readOwn h n else s
  | none => s

/-- HALYARD_BUCKET_COMPLETE (R244): in trigger order, once every contribution has come or the bucket has failed, and the LATE of the record
before has been raised. -/
def execHalyardBucketComplete (h n : Nat) (s : State) : Out :=
  let s := (s.resumeOwn h n).rewriteLate h n
  match (s.plan? h).bind fun p => (p.bucket? n).map fun b => (p, b) with
  | none => .next s
  | some (p, b) =>
    if b.parked || !b.inFlight || b.lateDue != 0 then .next s
    else if p.buckets.any fun k => k.inFlight && decide (k.order < b.order) then .next s
    else if b.reason != 0 || b.recorded then .next (s.endBucket h n)
    else if !p.ready b then .next s
    else
      match s.bufferOf p n with
      | none => .next (s.failBucket h n 5)
      | some buf =>
        match s.writeResults p b buf with
        | .ok s () => .next (s.endBucket h n)
        | .fault s va r acc => .next (s.parkBucket h n p.pasid va r acc)
        | .denied s => .next (s.failBucket h n 5)
        | .bad s _ => .next (s.failBucket h n 6)
        | .held s => .next s

/-- HALYARD_PACKET_ARRIVAL (R238, R337): reduced, held for a later round, or dropped as late. -/
def execHalyardPacketArrival (q : HalyardPacket) (s : State) : Out :=
  match (s.plan? q.handle).bind fun p => p.bucket? q.bucket with
  | none => .next s.countHub
  | some b =>
    let diff := (q.round + 256 - b.fires % 256) % 256
    if diff = 0 && b.inFlight then .next (s.takePacket q)
    else if diff = 0 || 128 ≤ diff then .next (s.countHub.updBucket q.handle q.bucket fun b => { b with late := b.late + 1 })
    else .next (s.updBucket q.handle q.bucket fun b => { b with held := b.held ++ [q] })

/-- The timer of a stack's base die for a bucket has started, and this device's contribution to its slice is owed (R245): a packet of the
slice is held for the next round, or taken in one that another die's deadline began. -/
def Bucket.timed (b : Bucket) (rank slice : Nat) : Bool :=
  if b.inFlight then !b.own && b.reason == 0 && (b.contribs.any fun c => c.slice == slice) && !b.gave rank slice
  else b.held.any fun q => q.round == (b.fires + 1) % 256 && q.slice == slice

/-- HALYARD_DEADLINE_EXPIRY (R245): the base die of a stack goes on with a round begun elsewhere, without the contribution of this device,
which has not triggered it, and passes that on as EMPTY. -/
def execHalyardDeadlineExpiry (h : Nat) (a : DueBucket) (s : State) : Out :=
  match (s.plan? h).bind fun p => (p.bucket? a.bucket).map fun b => (p, b) with
  | none => .next s
  | some (p, b) =>
    if p.deadline = 0 || p.freed || !b.timed p.rank a.stack then .next s
    else
      let s := if b.inFlight then s else s.startRound h a.bucket false false
      match s.bufferOf p a.bucket, (s.plan? h).bind (·.bucket? a.bucket) with
      | some buf, some b => .next ((s.contribute p buf b a.stack none).updBucket h a.bucket fun b => { b with expired := b.expired ++ [a.stack] })
      | _, _ => .next s

/-- The buckets of a freed plan end, in trigger order (R238, R111); one that has to wait keeps those after it. -/
def State.drainPlan (s : State) (h : Nat) (bs : List Bucket) : State :=
  (sortBy (fun (a b : Bucket) => decide (a.order ≤ b.order)) bs).foldl (fun s b => match s.plan? h with
    | some p => if p.buckets.any fun k => k.inFlight && decide (k.order < b.order) then s else s.endBucket h b.n
    | none => s) s

/-- PLAN_FREE_DRAIN_EXPIRY (R238): the buckets still in flight of a freed plan end with status error and REASON 16. -/
def execPlanFreeDrainExpiry (h : Nat) (s : State) : Out :=
  match s.plan? h with
  | none => .next s
  | some p =>
    if !p.freed then .next s
    else
      let flying := p.buckets.filter (·.inFlight)
      let s := flying.foldl (fun s b => s.updBucket h b.n fun b =>
        { b with reason := if b.reason = 0 && !b.recorded then 16 else b.reason, parked := if b.recorded then b.parked else false }) s
      .next (s.drainPlan h flying)

/-- PLAN_INDEX_QUARANTINE_END (R238, R239): the index is free for its next generation; the PASID's page is unbound when no
plan of it is left. -/
def execPlanIndexQuarantineEnd (index : Nat) (s : State) : Out :=
  match s.plans.find? fun p => p.index == index && p.freed && !(p.buckets.any (·.inFlight)) with
  | none => .next s
  | some p =>
    let plans := s.plans.filter fun q => !(q.index == index)
    .next
      { s with
        plans := plans
        quarantine := (index, p.gen) :: s.quarantine.filter (·.1 != index)
        pages := if plans.any (·.pasid == p.pasid) then s.pages else s.pages.filter (·.2 != p.pasid) }

/-- HFIRE (R240): fires as the trigger store does; a refused trigger raises 0x0E with the reason. -/
def execHfire (f : KFields) (s : State) : Out :=
  s.issueParts { len := 4, hold := f.h, irrevocable := true, spinOk := false } fun p who s =>
    match s.fireBucket (s.pasidOf p.launch) (s.partS p who.tick f.a) with
    | .error r => .trap 0x0E (toWord r) [p.gang]
    | .ok s => .done s

/-- HSTAT (R240). -/
def execHstat (f : KFields) (s : State) : Out :=
  s.issueParts { len := 4, hold := f.h, irrevocable := true, spinOk := false } fun p who s =>
    let v := match s.livePlan (s.pasidOf p.launch) (bits (s.partS p who.tick f.a) 31 0) with
      | none => 0
      | some q => toWord (2 ^ 63 + (if q.err then 2 ^ 62 else 0) + (q.buckets.filter (·.inFlight)).length * 2 ^ 32 + q.done)
    .done (s.setS p who true f.d v)

/-- HALYARD_DOORBELL_STORE (R239): a trigger store of 8 bytes at offset 0 by the PASID the page is bound to; a refused one,
or any other store to the page, is ignored and counted. -/
def State.halyardStore (s : State) (page off width pasid : Nat) (v : Word) : State :=
  if off != 0 || width != 8 || !(s.pages.any fun x => x.1 == page && x.2 == pasid) then s.countHub pasid
  else match s.fireBucket pasid v with
    | .ok s => s
    | .error _ => s.countHub pasid

/-- HALYARD_DOORBELL_STORE (R239). -/
def execHalyardDoorbellStore (page off width pasid : Nat) (v : Word) (s : State) : Out := .next (s.halyardStore page off width pasid v)

end Sys2Proof.Machine
end

