-- ==== Sys2Proof/Machine/Io.lean ====
section
/-! DEFINITION. The I/O range: its registers, doorbells and pages (R70, R94, R379), what a load returns and what a store
by an agent other than firmware does (R139, R239, R350, R364, R366). -/

namespace Sys2Proof.Machine

/-- The registers of the I/O range (R72, R91, R95, R226, R246, R286, R295, R301, R324, R351, R362, R366, R367, R369). -/
inductive IoReg where
  | memcarve
  | l2mrg (die : Nat)
  | fwEnc (n : Nat) | fwScale (n : Nat) | fwAlias (n : Nat) | fwCtl (n : Nat)
  | harb (stack : Nat)
  | ruq (die : Nat)
  | schctl (die : Nat)
  | hqctl (die : Nat)
  | fqbase | fqctl | fqtail | fresume | ctxbase
  | wdctl (die : Nat)
  | gsctl
  | gpas (n : Nat)
  | snapctl
  | partcfg (p : Nat)
  | powctl
  | qpool (core : Nat)
  | control (bank n : Nat)
  | value (bank n : Nat)
  | snapshot (bank n : Nat)
  deriving DecidableEq, Repr

/-- Counters of a bank (R362). -/
def bankSize (b : Nat) : Nat := if b < 256 then 8 else if b < 384 then 4 else if b < 392 then 8 else if b = 392 then 16 else 0

/-- The register of 8 bytes at an offset in the I/O range, a multiple of 8. -/
def ioReg (o : Nat) : Option IoReg :=
  if o = 0x1000 then some .memcarve
  else if o = 0x1010 then some (.l2mrg 0)
  else if o = 0x1018 then some (.l2mrg 1)
  else if 0x2000 ≤ o ∧ o < 0x2200 then
    some (match (o - 0x2000) % 0x20 / 8 with
      | 0 => .fwEnc ((o - 0x2000) / 0x20)
      | 1 => .fwScale ((o - 0x2000) / 0x20)
      | 2 => .fwAlias ((o - 0x2000) / 0x20)
      | _ => .fwCtl ((o - 0x2000) / 0x20))
  else if 0x3000 ≤ o ∧ o < 0x3040 then some (.harb ((o - 0x3000) / 8))
  else if 0x4000 ≤ o ∧ o < 0x4010 then some (.ruq ((o - 0x4000) / 8))
  else if 0x5000 ≤ o ∧ o < 0x5010 then some (.schctl ((o - 0x5000) / 8))
  else if 0x5010 ≤ o ∧ o < 0x5020 then some (.hqctl ((o - 0x5010) / 8))
  else if o = 0x6000 then some .fqbase
  else if o = 0x6008 then some .fqctl
  else if o = 0x6010 then some .fqtail
  else if o = 0x6018 then some .fresume
  else if o = 0x6028 then some .ctxbase
  else if 0x6030 ≤ o ∧ o < 0x6040 then some (.wdctl ((o - 0x6030) / 8))
  else if o = 0x7000 then some .gsctl
  else if 0x7100 ≤ o ∧ o < 0x7300 then some (.gpas ((o - 0x7100) / 8))
  else if o = 0x9000 then some .snapctl
  else if 0x9100 ≤ o ∧ o < 0x9180 then some (.partcfg ((o - 0x9100) / 8))
  else if o = 0x9200 then some .powctl
  else if 0x100000 ≤ o ∧ o < 0x100800 then some (.qpool ((o - 0x100000) / 8))
  else if 0x200000 ≤ o ∧ o < 0x200000 + 0x1000 * 393 then
    let b := (o - 0x200000) / 0x1000
    let r := (o - 0x200000) % 0x1000
    if r < 16 * bankSize b then some (if r % 16 = 0 then .control b (r / 16) else .value b (r / 16))
    else if 0x800 ≤ r ∧ r < 0x800 + 8 * bankSize b then some (.snapshot b ((r - 0x800) / 8))
    else none
  else none

/-- What lies at an address of the I/O range. -/
inductive IoPlace where
  | reg (r : IoReg)
  | doorbell (off : Nat)
  | halyard (page off : Nat)
  | guest
  | hole
  deriving DecidableEq, Repr

/-- The first address of the I/O range (R70). -/
def ioBase : Nat := 0x3000_0000_0000

/-- What lies at a PA of the I/O range. -/
def ioPlace (pa : Nat) : IoPlace :=
  let o := pa - ioBase
  if 0x4000_0000 ≤ o ∧ o < 0x8000_0000 then .doorbell (o - 0x4000_0000)
  else if 0x8000_0000 ≤ o ∧ o < 0x9000_0000 then .guest
  else if 0xC000_0000 ≤ o then .halyard ((o - 0xC000_0000) / 65536) ((o - 0xC000_0000) % 65536)
  else match ioReg (o / 8 * 8) with
    | some r => .reg r
    | none => .hole

/-- The PASID under which an agent's access runs; firmware is 0 (R362). -/
def ioPasid : IoAgent → Nat
  | .firmware => 0
  | .gang p => p
  | .engine p => p
  | .host p => p
  | .guest => 0

/-- A counter, zero if nothing has set it. -/
def State.counter (s : State) (bank n : Nat) : Counter :=
  (s.counters.find? fun c => c.bank == bank && c.n == n).getD
    { bank := bank, n := n, control := 0, value := 0, snap := 0, saveVa := 0 }

/-- A counter replaced. -/
def State.setCounter (s : State) (c : Counter) : State :=
  { s with counters := c :: s.counters.filter fun x => !(x.bank == c.bank && x.n == c.n) }

/-- GSCTL as it reads (R351). -/
def State.gsctl (s : State) : Word :=
  toWord ((if s.io.gsEn then 2 ^ 63 else 0) + (if s.io.gsFenced then 2 ^ 62 else 0) + s.io.gsCause.toNat * 2 ^ 56)

/-- The register's value as a load by an agent under a PASID receives it; of a counter's value and snapshot registers,
0 to any but the owner (R364, R366). -/
def State.ioRegValue (s : State) (pasid : Nat) : IoReg → Word
  | .memcarve => s.io.memcarve
  | .l2mrg d => (vget s.io.l2mrg d 0).setWidth 64
  | .fwEnc n => (vget s.io.fw n FormatWindow.zero).enc
  | .fwScale n => (vget s.io.fw n FormatWindow.zero).scale
  | .fwAlias n => (vget s.io.fw n FormatWindow.zero).aliasBase
  | .fwCtl n => (vget s.io.fw n FormatWindow.zero).ctl
  | .harb n => (vget s.io.harb n 0).setWidth 64
  | .ruq d => (vget s.io.ruq d 0).setWidth 64
  | .schctl d => vget s.io.schctl d 0
  | .hqctl d => vget s.io.hqctl d 0
  | .fqbase => s.io.fqbase
  | .fqctl => s.io.fqctl
  | .fqtail => s.io.fqtail.setWidth 64
  | .fresume => s.io.fresume
  | .ctxbase => s.io.ctxbase
  | .wdctl d => (vget s.io.wdctl d 0).setWidth 64
  | .gsctl => s.gsctl
  | .gpas n => vget s.io.gpas n 0
  | .snapctl => toWord ((if s.io.snapArm then 2 ^ 63 else 0) + s.io.snapSrc.toNat * 2 ^ 32)
  | .partcfg p => vget s.io.partcfg p 0
  | .powctl => s.io.powctl
  | .qpool c => s.qpool c
  | .control b n => (s.counter b n).control
  | .value b n => if bits (s.counter b n).control 51 32 == pasid then (s.counter b n).value else 0
  | .snapshot b n => if bits (s.counter b n).control 51 32 == pasid then (s.counter b n).snap else 0

/-- The queue bound to a doorbell (R139). -/
def State.doorbellQueue (s : State) (off : Nat) : Option MemQueue := s.queues.find? fun q => q.bound && q.dboff == off

/-- n bytes from a byte offset of a word. -/
def wordPart (w : Word) (off n : Nat) : List Byte := leBytes n (w.toNat / 2 ^ (8 * off))

/-- A load from the I/O range outside guest register space (R379). A doorbell bound to no queue reads as 0 (log 10). -/
def State.ioLoad (s : State) (ag : IoAgent) (pa n : Nat) : State × List Byte :=
  match ioPlace pa with
  | .reg r => (s, wordPart (s.ioRegValue (ioPasid ag) r) (pa % 8) n)
  | .doorbell off => (s, wordPart (((s.doorbellQueue (off / 8 * 8)).map (·.db)).getD 0) (pa % 8) n)
  | .halyard _ _ => (s, List.replicate n 0)
  | .guest | .hole => (s.countHub (ioPasid ag), List.replicate n 0xFF#8)

/-- A store to a doorbell (R139): db moves forward by less than 2^31, or the store is ignored and counted. The value is forwarded
to the guest, whose queue it is (R352); a compute die whose engine it is wakes (R369). -/
def State.doorbellWrite (s : State) (off width pasid : Nat) (v : Word) : State :=
  match s.doorbellQueue off with
  | none => s.countHub pasid
  | some q =>
    let d := (v - q.db).toNat
    if width == 8 && q.pasid == pasid && decide (0 < d) && decide (d < 2 ^ 31) then
      let s := s.updQueue q.pasid q.hdr fun q => { q with db := v }
      match q.engine with
      | .bulk d _ => s.wakeDie d
      | .guest => if s.io.gsFenced then s else { s with guest := { s.guest with messages := s.guest.messages ++ [.doorbell off v] } }
      | .launch => s
    else s.countHub pasid

/-- A store to a counter's value register (R364): by the owner it sets COUNT, and clears OV if CLR is set; any other is
ignored and counted with OWNER 0. -/
def State.counterStore (s : State) (pasid bank n width : Nat) (v : Word) : State :=
  let c := s.counter bank n
  if width == 8 && bits c.control 51 32 == pasid && decide (n < bankSize bank) then
    s.setCounter
      { c with
        value := toWord (bits v 47 0)
        control := if v.getLsbD 63 then c.control &&& ~~~0x2000_0000_0000_0000#64 else c.control }
  else s.countHub

/-- A store to the I/O range by an agent other than firmware, outside guest register space (R379). A snapshot register takes none, counted
with OWNER 0 (R364, R366). -/
def State.ioStore (s : State) (pasid pa : Nat) (bytes : List Byte) : State :=
  let v := toWord (leNat bytes)
  match ioPlace pa with
  | .doorbell off => s.doorbellWrite off bytes.length pasid v
  | .halyard page off => s.halyardStore page off bytes.length pasid v
  | .reg (.value b n) => s.counterStore pasid b n (if pa % 8 = 0 then bytes.length else 0) v
  | .reg (.snapshot _ _) => s.countHub
  | _ => s.countHub pasid

/-- A guest is there to answer an access to guest register space (R350). -/
def State.guestOn (s : State) : Bool := s.io.gsEn && !s.io.gsFenced

end Sys2Proof.Machine
end

