-- ==== Sys2Proof/Machine/MemInstr.lean ====
section
/-! DEFINITION. Memory instructions, OP 0x5C to 0x67 (R117 to R134), and the events of loads, stores, commit and fetch
(R21, R76, R87, R93, R97, R98, R161, R305, R307). -/

namespace Sys2Proof.Machine

/-! Addresses and checks. -/

/-- The operation size of a load's or store's W (R119). -/
def accessSize (w : BitVec 3) : Nat := match w.toNat with
  | 0 => 1 | 1 => 2 | 2 => 4 | 3 => 8 | 4 => 16 | 5 => 1 | 6 => 2 | _ => 4

/-- The address of R119 from its mode, base, index register value, immediate and lane. -/
def memAddress (mode : BitVec 2) (base index : Word) (imm : BitVec 6) (z l : Nat) : Word :=
  match mode.toNat with
  | 0 => base + index
  | 1 => base + index * toWord z
  | 2 => base + imm.signExtend 64 * toWord z + toWord (l * z)
  | _ => index

/-- One access of an instruction: a number for it, its lane and home gang, its address, and the bytes it stores. -/
structure Site where
  key : Nat
  lane : Nat
  gang : Nat
  addr : Word
  data : List Byte
  deriving DecidableEq, Repr

/-- A site with its translation. -/
structure Reach where
  site : Site
  x : Xlat
  deriving DecidableEq, Repr

/-- The gang whose slice holds a lane. -/
def Stream.gangAt (t : Stream) (l : Nat) : Nat := (vget t.slots (l / 4) none).getD 0

/-- The accesses of a vector instruction, by active lane ascending (R119, R122). -/
def State.vectorSites (s : State) (t : Stream) (tick : Nat) (f : MFields) (z : Nat) (data : Nat → List Byte) : List Site :=
  let base := s.scalarRows t tick f.a.toNat
  let index := s.rows t tick f.b.toNat
  ((List.range 32).filter fun l => t.active.getLsbD l).map fun l =>
    { key := l, lane := l, gang := t.gangAt l, addr := memAddress f.mode (lane base l) (lane index l) f.b z l, data := data l }

/-- The access of a scalar form (R119, R122), numbered by the lowest lane of its part. -/
def State.scalarSite (s : State) (p : Part) (tick : Nat) (f : MFields) (z : Nat) (data : List Byte) : Site :=
  { key := 4 * p.slots.headD 0, lane := 0, gang := p.gang, addr := memAddress f.mode (s.partS p tick f.a) (s.partS p tick f.b) f.b z 0
    data := data }

/-- ACC of sr_trapinfo (R123). -/
def Access.trapCode : Access → Nat
  | .load | .fetch => 0 | .store => 1 | .atomic => 2 | .zero => 3

/-- Every line an access of z bytes covers lies in an enabled window (R97). -/
def State.aliasCovered (s : State) (pa z : Nat) : Bool := (List.range (max 1 (z / 64))).all fun i => (s.aliasAt (pa + 64 * i)).isSome

/-- Why an access does not pass its checks: a trap's cause, a translation fault's reason, or a walk to wait for. -/
inductive SiteFail where
  | trap (cause : Nat)
  | fault (reason : Nat)
  | wait
  deriving DecidableEq, Repr

/-- The checks of one access (R120, R123). -/
def State.checkSite (s : State) (core : Option Nat) (pasid z : Nat) (acc : Access) (a : Word) : Except SiteFail Xlat :=
  if a.toNat % z != 0 then .error (.trap 6)
  else if !canonical a then .error (.trap 5)
  else match s.translate core pasid (vaOf a) acc with
    | .error (.fault r) => .error (.fault r)
    | .error .wait => .error .wait
    | .error _ => .error (.trap 5)
    | .ok x =>
      if x.kind == 3 && z == 16 || x.kind == 4 && !s.aliasCovered x.pa z then .error (.trap 5) else .ok x

/-- Every access checked before any is performed: the first cause in the lowest lane is raised (R123). Accesses that miss in the TLBs wait
for their walks, and a lane above them raises nothing before (R82). -/
def State.checkSites (s : State) (t : Stream) (z : Nat) (acc : Access) : List Site → List (Word × Access × Nat) → Except Res (List Reach)
  | [], [] => .ok []
  | [], missed => .error (.miss s missed)
  | p :: rest, missed =>
    let info := memInfo p.lane acc.trapCode false false p.addr.toNat
    let stop := fun (r : Res) => if missed.isEmpty then r else .miss s missed
    match s.checkSite (s.coreOf t.launch p.gang) (s.pasidOf t.launch) z acc p.addr with
    | .error (.trap c) => .error (stop (.trap c info [p.gang]))
    | .error (.fault r) => .error (stop (.fault p.addr r acc.code p.gang info))
    | .error .wait => s.checkSites t z acc rest (missed ++ [(p.addr, acc, p.gang)])
    | .ok x => match s.checkSites t z acc rest missed with
      | .error r => .error r
      | .ok rs => .ok ({ site := p, x := x } :: rs)

/-- The accesses of an instruction, checked; those that its cluster's TLB translates bring the entry into the core's (R81). -/
def State.reach (s : State) (t : Stream) (z : Nat) (acc : Access) (sites : List Site) : Except Res (State × List Reach) :=
  match s.checkSites t z acc sites [] with
  | .error r => .error r
  | .ok rs => .ok (rs.foldl (fun s r => s.touchTlb (s.coreOf t.launch r.site.gang) (s.pasidOf t.launch) (vaOf r.site.addr) acc) s, rs)

/-! Data errors. -/

/-- The page of an erroneous line retired, and a class-5 record (R134, R327). -/
def State.dataError (s : State) (l k pa acc : Nat) : State :=
  s.lineError { addr := 0, src := gangSrc l k, pasid := s.pasidOf l, reason := 0, acc := acc, skind := .gang, cls := 5 } pa

/-- A scratchpad block in error: a class-5 record with the block's offset; no page of memory is retired (R327; log 45). -/
def State.blockError (s : State) (l k off : Nat) : State :=
  s.addRecord
    { addr := toWord off, src := gangSrc l k, pasid := s.pasidOf l, reason := 0, acc := 0, skind := .gang, cls := 5 } .nothing

/-- The lines that a read of an address takes: its own, or those of the encoded block behind an alias (R97). -/
def State.readLines (s : State) (x : Xlat) : List Nat :=
  if x.kind = 4 then match s.aliasAt x.pa with
    | some (w, k) => w.linesOf k
    | none => []
  else [lineOf x.pa]

/-- The erroneous line a read meets, if any. -/
def State.readError (s : State) (x : Xlat) : Option Nat := (s.readLines x).find? fun a => s.badLines.contains a

/-! Bytes. -/

/-- A stream's own buffered stores, oldest first (R86, R90). -/
def State.ownStores (s : State) (t : Stream) : List StoreEntry :=
  sortBy (fun (a b : StoreEntry) => decide (a.seq ≤ b.seq)) ((s.storesOf t).map (·.2))

/-- The byte a stream's own buffered stores give at an offset of a place, else another (R86). -/
def forward (own : List StoreEntry) (hit : LinePlace → Bool) (off : Nat) (base : Byte) : Byte :=
  own.foldl (fun b e => if hit e.place then ((e.bytes.find? (·.1 == off)).map (·.2)).getD b else b) base

/-- n bytes of coherent or alias memory as a stream's load receives them (R88, R97, R124). -/
def State.loadBytes (s : State) (own : List StoreEntry) (kind pa n : Nat) : List Byte :=
  (List.range n).map fun i =>
    forward own (LinePlace.isLine (lineOf (pa + i))) ((pa + i) % 64)
      (if kind = 4 then s.aliasRead (pa + i) else s.mem.get (pa + i))

/-- Lines that a speculative load adds to the signatures of the stream's gangs (R89); the instruction is then an uncommitted load (R90). -/
def State.sign (s : State) (t : Stream) (lines : List LinePlace) : State :=
  (t.homes.foldl (fun s k => s.updGang t.launch k fun g => { g with sig := lines.filter (fun p => !g.sig.contains p) ++ g.sig }) s).updStream
    t.sid fun u => { u with loading := true }

/-- A load noted by the spin detector, with the value that each active lane receives (R282). -/
def State.noteLoad (s : State) (t : Stream) (ok : Bool) (lines : List LinePlace) (got : List (Nat × List Byte)) : State :=
  s.updStream t.sid fun u =>
    { u with spin := { u.spin with
        ok := u.spin.ok && ok, lines := (u.spin.lines ++ lines).eraseDups
        loads := u.spin.loads ++ got.map fun g => (t.pc, [g.1, leNat g.2]) } }

/-- An older store of the stream writes what the access reads by another way than the access, so that nothing can be forwarded: through a
format window, or through this device's own fabric window (R98, R103, R115). -/
def State.hidden (s : State) (own : List StoreEntry) (x : Xlat) : Bool :=
  own.any fun e => match e.place with
    | .scratch _ => false
    | .mem pa _ => !(s.plainPa pa && decide (x.kind < 2)) &&
      (s.linesWritten e).any fun a => (s.readLines x).any fun b => lineOf a == lineOf b

/-- Another stream of one of the stream's gangs has something uncommitted (R94). -/
def State.siblingRuns (s : State) (t : Stream) : Bool :=
  t.homes.any fun k => (s.streamsOf t.launch k).any fun u => u.sid != t.sid && !u.unc.isEmpty

/-- The word of a list of bytes, as a 64-bit value. -/
def bytesWord (bs : List Byte) : Word := toWord (leNat bs)

/-! Accesses performed one after another: remote, I/O, atomics, ZERO (R92, R94, R106, R129, R130). -/

/-- What performing one access gives: done with the bytes read, a request to a device or the guest, or an end. -/
inductive Served where
  | done (s : State) (bytes : List Byte)
  | ask (s : State) (q : OutRequest)
  | stop (r : Res)

/-- The end of an access that a fabric target refuses: of a store, whose other lanes are lost, a deferred report; of a load or an atomic a
precise trap 0x0E (R133). -/
def refusedLane (t : Stream) (acc : Access) (r : Reach) (s : State) : Res :=
  let info := fun (deferred : Bool) => memInfo r.site.lane acc.trapCode false deferred r.site.addr.toNat
  if acc = .store then .io (s.dropStores t r.site.gang 0x0E (info true)) else .raise s 0x0E (info false) [r.site.gang]

/-- The end of an access whose line a full region refuses: of a store a deferred report, else a precise trap 0x0D (R314). -/
def refusedLine (t : Stream) (acc : Access) (r : Reach) (n va : Nat) (s : State) : Res :=
  if acc = .store then .io (s.dropStores t r.site.gang 0x0D (logInfo r.site.lane 1 true va n))
  else .raise s 0x0D (logInfo r.site.lane acc.trapCode false va n) [r.site.gang]

/-- The accesses in ascending order, each once; what has been performed stays in the stream's answers while it waits. -/
def serve (t : Stream) (acc : Access) (act : Reach → State → Served) (fin : State → List (Nat × List Byte) → Res) :
    List Reach → List (Nat × Option (List Byte)) → State → Res
  | [], ans, s => fin s (ans.filterMap fun a => a.2.map fun b => (a.1, b))
  | r :: rest, ans, s =>
    let keep := fun (s : State) => s.updStream t.sid fun u => { u with answers := ans }
    match ans.find? (·.1 == r.site.key) with
    | some (_, some _) => serve t acc act fin rest ans s
    | some (_, none) => refusedLane t acc r (keep s)
    | none =>
      match act r s with
      | .done s b => serve t acc act fin rest (ans ++ [(r.site.key, some b)]) s
      | .ask s q => .again { keep s with out := s.out ++ [q], seq := s.seq + 1 } .answer
      | .stop (.raise s c i g) => .raise (keep s) c i g
      | .stop r => r

/-- The request of an access to another device (R92), or of one to guest register space (R350). -/
def State.request (s : State) (t : Stream) (r : Reach) (op : FabricOp) (guest : Bool) : OutRequest :=
  { tag := s.seq, peer := if guest then 0 else fabricDevice r.x.pa, pasid := s.pasidOf t.launch, type := .physical
    addr := if guest then r.x.pa else fabricOffset r.x.pa, op := op, src := .lane t.sid r.site.key r.site.addr, guest := guest }

/-- A refusal of an access made to this very device through the fabric window (R73), counted as at any target (R230). -/
def refuseOwn (s : State) (t : Stream) (acc : Access) (r : Reach) : Served :=
  .stop (refusedLane t acc r (s.countHub (s.pasidOf t.launch)))

/-- Where a coherent access of a lane is performed: its PA, or the offset of this device's own fabric window. -/
def State.localPa (s : State) (x : Xlat) : Option Nat :=
  if x.kind < 2 then some x.pa else if x.kind = 2 && isOwnFabric x.pa && s.ownOffset x.pa then some (fabricOffset x.pa) else none

/-- One access of a load. -/
def serveLoad (t : Stream) (z : Nat) (r : Reach) (s : State) : Served :=
  let bad := fun (line : Nat) => Served.stop (.raise (s.dataError t.launch r.site.gang line 0) 0x11
    (memInfo r.site.lane 0 false false r.site.addr.toNat) [r.site.gang])
  let pasid := s.pasidOf t.launch
  let fill := fun (s : State) (pa : Nat) => match s.coreOf t.launch r.site.gang with
    | some c => s.fillLine c pasid pa
    | none => s
  match s.localPa r.x with
  | some pa =>
    if s.badLines.contains (lineOf pa) then bad (lineOf pa)
    else .done (if r.x.kind < 2 then fill s pa else s) (s.mem.read pa z)
  | none =>
    if r.x.kind = 2 then
      if isOwnFabric r.x.pa then refuseOwn s t .load r else .ask s (s.request t r (.read z) false)
    else if r.x.kind = 4 then match s.readError r.x with
      | some line => bad line
      | none =>
        let s := fill s r.x.pa
        .done s ((List.range z).map fun i => s.aliasRead (r.x.pa + i))
    else if ioPlace r.x.pa = .guest && s.guestOn then .ask s (s.request t r (.read z) true)
    else let (s, b) := s.ioLoad (.gang pasid) r.x.pa z
      .done s b

/-- Bytes written by a lane at its visibility point: logged where a region asks (R313, R314). -/
def serveWrite (t : Stream) (acc : Access) (whole : Bool) (r : Reach) (pa : Nat) (data old : List Byte) (s : State) : Served :=
  let by' := (s.coreOf t.launch r.site.gang).map fun c => Filler.mk (dieOf c) (s.pasidOf t.launch)
  match s.logLine pa with
  | .refused s n va => .stop (refusedLine t acc r n va s)
  | .ok s => .done
    ((s.storeLine (some (t.launch, r.site.gang, t.sid)) by' whole (cellsOf pa data)).spoil (s.pasidOf t.launch) (vaOf r.site.addr)) old

/-- One access of a store with an I/O lane, or of a ZERO; an alias block is written once, at its lowest lane (R94, R98). -/
def serveStore (t : Stream) (acc : Access) (all : List Reach) (r : Reach) (s : State) : Served :=
  let pasid := s.pasidOf t.launch
  match s.localPa r.x with
  | some pa => serveWrite t acc (r.site.data.length == 64) r pa r.site.data [] s
  | none =>
    if r.x.kind = 2 then
      if isOwnFabric r.x.pa then refuseOwn s t acc r else .ask s (s.request t r (.write r.site.data) false)
    else if r.x.kind = 4 then
      match s.aliasAt r.x.pa with
      | none => .done s []
      | some (w, k) =>
        let mine := all.filter fun q => q.x.kind == 4 && s.aliasAt q.x.pa == some (w, k)
        if mine.any fun q => q.site.key < r.site.key then .done s []
        else match s.aliasStore (some (t.launch, r.site.gang, t.sid)) pasid w k (mine.flatMap fun q => cellsOf q.x.pa q.site.data) with
          | .ok s => .done s []
          | .refused s n va => .stop (refusedLine t acc r n va s)
    else if ioPlace r.x.pa = .guest && s.guestOn then .ask s (s.request t r (.write r.site.data) true)
    else .done (s.ioStore pasid r.x.pa r.site.data) []

/-- The lines that a write of an access takes here: its own, or those of the encoded block behind an alias line. -/
def State.reachLines (s : State) (r : Reach) : List Nat := match s.localPa r.x with
  | some pa => [pa]
  | none => if r.x.kind = 4 then s.readLines r.x else []

/-- A lane's write would meet a line that is held: a rolling region (R317) or a guest's line (R108). -/
def State.reachBusy (s : State) (r : Reach) : Bool := (s.reachLines r).any s.lineBusy

/-- A lane's read would meet a line that the guest owns (R97, R108). -/
def State.reachOwned (s : State) (r : Reach) : Bool := match s.localPa r.x with
  | some pa => s.guest.owned.contains (lineOf pa)
  | none => r.x.kind == 4 && !s.aliasLines.any (·.1 == lineOf r.x.pa) && s.blockOwned r.x.pa

/-- The accesses of an instruction that are still to be performed. -/
def Stream.left (t : Stream) (rs : List Reach) : List Reach := rs.filter fun r => !t.answers.any (·.1 == r.site.key)

/-- The logs' answer to the lines of an instruction's accesses, checked together in lane order (R314): refused with the access, the region
and the VA. -/
def State.logReaches (s : State) (rs : List Reach) : State ⊕ (State × Reach × Nat × Nat) :=
  rs.foldl (fun acc r => (s.reachLines r).foldl (fun (acc : State ⊕ (State × Reach × Nat × Nat)) pa => match acc with
    | .inl s => match s.logLine pa with
      | .ok s => .inl s
      | .refused s n va => .inr (s, r, n, va)
    | e => e) acc) (.inl s)

/-! LD, SLD, LDS. -/

/-- The value a load's W makes of its bytes: low and high word (R121). -/
def loadValue (w : BitVec 3) (bs : List Byte) : Word × Word :=
  let n := leNat bs
  match w.toNat with
  | 4 => (toWord n, toWord (n / 2 ^ 64))
  | 5 | 6 | 7 => (BitVec.ofInt 64 (sextN n (8 * accessSize w)), 0)
  | _ => (toWord n, 0)

/-- A load of virtual memory at its sites (R124); `fin` writes the destination. The local lanes are performed in one step (log 8). -/
def loadOp (w : BitVec 3) (t : Stream) (who : Who) (sites : List Site) (fin : State → List (Nat × List Byte) → State)
    (s : State) : Res :=
  let z := accessSize w
  match s.reach t z .load sites with
  | .error r => r
  | .ok (s, rs) =>
    let io := rs.any fun r => r.x.kind == 3
    if io || rs.any fun r => r.x.kind == 2 then
      if who.spec then .drain
      else if io && s.siblingRuns t then .again s .none
      else if rs.any s.reachOwned then .again s .line
      else serve t .load (serveLoad t z)
        (fun s b => let s := (fin s b).noteLoad t false [] b; if io then .io s else .done s) rs t.answers s
    else
      let own := s.ownStores t
      if rs.any fun r => s.hidden own r.x then .drain
      else if rs.any s.reachOwned then .again s .line
      else match rs.findSome? fun r => (s.readError r.x).map fun a => (r, a) with
        | some (r, a) => .raise (s.dataError t.launch r.site.gang a 0) 0x11 (memInfo r.site.lane 0 false false r.site.addr.toNat) [r.site.gang]
        | none =>
          let s := rs.foldl (fun s r => match s.coreOf t.launch r.site.gang with
            | some c => s.fillLine c (s.pasidOf t.launch) r.x.pa
            | none => s) s
          let got := rs.map fun r => (r.site.key, s.loadBytes own r.x.kind r.x.pa z)
          let lines := (rs.map fun r => LinePlace.mem (lineOf r.x.pa) (lineOf (vaOf r.site.addr))).eraseDups
          let s := if who.spec then s.sign t lines else s
          let s := s.noteLoad t (rs.all fun r => decide (r.x.kind < 2)) lines got
          .done (fin s got)

/-- The destination of a vector load: vD, and vD+1 for .128 (R121, R124). -/
def finVector (f : MFields) (t : Stream) (who : Who) (s : State) (got : List (Nat × List Byte)) : State :=
  let m := maskOf fun l => got.any (·.1 == l)
  let at_ := fun l => ((got.find? (·.1 == l)).map fun g => loadValue f.w g.2).getD (0, 0)
  let s := s.writeRows t who true 64 f.d.toNat m (byLane fun l => (at_ l).1)
  if f.w = 4 then s.writeRows t who true 64 (f.d.toNat + 1) m (byLane fun l => (at_ l).2) else s

/-- The bytes that the access of a part has read. -/
def gotOf (p : Part) (got : List (Nat × List Byte)) : List Byte := ((got.find? (·.1 == 4 * p.slots.headD 0)).map (·.2)).getD []

/-- The destination of a scalar load. -/
def finScalar (f : MFields) (p : Part) (who : Who) (s : State) (got : List (Nat × List Byte)) : State :=
  let v := loadValue f.w (gotOf p got)
  let s := s.setS p who true f.d v.1
  if f.w = 4 then s.setS p who true (f.d + 1) v.2 else s

/-- The vector registers a memory instruction names (R159). -/
def memRegs (f : MFields) (pair : Bool) : List Nat :=
  [f.d.toNat] ++ (if pair then [f.d.toNat + 1] else []) ++ (if f.mode = 2 then [] else [f.b.toNat])

/-- LD (R124). -/
def execLd (f : MFields) (s : State) : Out :=
  s.issue (word f.h) fun t who s => s.withRegs t (memRegs f (f.w = 4)) <|
    loadOp f.w t who (s.vectorSites t who.tick f (accessSize f.w) fun _ => []) (finVector f t who) s

/-- SLD (R124). -/
def execSld (f : MFields) (s : State) : Out :=
  s.issue (word f.h) fun t who s =>
    onParts (word f.h) (fun p who s =>
      loadOp f.w t who [s.scalarSite p who.tick f (accessSize f.w) []] (finScalar f p who) s) t who s

/-- The first scratchpad access that fails its checks (R120, R123, R127). -/
def scratchFault (size z acc : Nat) (sites : List Site) : Option Res :=
  sites.findSome? fun p =>
    let info := memInfo p.lane acc true false p.addr.toNat
    if p.addr.toNat % z != 0 then some (.trap 6 info [p.gang])
    else if size < p.addr.toNat + z then some (.trap 0x0A info [p.gang])
    else none

/-- LDS (R127). -/
def execLds (f : MFields) (s : State) : Out :=
  s.issue (word f.h) fun t who s => s.withRegs t (memRegs f (f.w = 4)) <|
    let z := accessSize f.w
    let sites := s.vectorSites t who.tick f z fun _ => []
    match s.splice? t.launch t.splice with
    | none => .done s
    | some sp =>
      match scratchFault sp.size z 0 sites with
      | some r => r
      | none =>
        if sites.any fun p => s.rowLocked t.launch t.splice (p.addr.toNat / 64) false then .again s .rowLock
        else match sites.find? fun p => sp.badBlocks.contains (p.addr.toNat / 64) with
          | some p => .raise (s.blockError t.launch p.gang (p.addr.toNat / 64 * 64)) 0x11
              (memInfo p.lane 0 true false p.addr.toNat) [p.gang]
          | none =>
            let own := s.ownStores t
            let got := sites.map fun p => (p.key, (List.range z).map fun i =>
              let a := p.addr.toNat + i
              forward own (· == .scratch (a / 64)) (a % 64) (sp.scratch.get a))
            let lines := (sites.map fun p => LinePlace.scratch (p.addr.toNat / 64)).eraseDups
            let s := if who.spec then s.sign t lines else s
            .done (finVector f t who (s.noteLoad t true lines got) got)

/-! ST, SST, STS. -/

/-- Bytes put over the bytes of an entry. -/
def overlay (old new : List (Nat × Byte)) : List (Nat × Byte) := old.filter (fun b => !new.any fun c => c.1 == b.1) ++ new

/-- The same line of memory, whatever VA reached it, or the same block. -/
def LinePlace.same : LinePlace → LinePlace → Bool
  | .mem pa _, .mem pb _ => pa == pb
  | .scratch a, .scratch b => a == b
  | _, _ => false

/-- An access joined to an instruction's store-buffer entries: one to each line or block, the highest lane's bytes standing
(R106, R126). Remote accesses keep one each, to be sent in lane order. -/
def addEntry (e : StoreEntry) (merge : Bool) : List (Nat × StoreEntry) → Nat → List (Nat × StoreEntry)
  | [], k => [(k, e)]
  | (j, d) :: rest, k =>
    if merge && d.place.same e.place then (j, { d with bytes := overlay d.bytes e.bytes }) :: rest
    else (j, d) :: addEntry e merge rest k

/-- Entries put into the store buffers of their gangs. -/
def State.buffer (s : State) (l : Nat) (es : List (Nat × StoreEntry)) : State :=
  es.foldl (fun s x => s.updGang l x.1 fun g => { g with sb := g.sb ++ [x.2] }) s

/-- Bytes as (offset in a line, byte). -/
def lineBytes (a : Nat) (bs : List Byte) : List (Nat × Byte) := (cellsOf (a % 64) bs)

/-- A store of virtual memory at its sites (R125, R126). With an I/O lane it is irrevocable, and its lanes are performed one after another
(R94, R308); those still to be performed after an answer are checked for refusal again (R314; log 8). Lanes in one line make one entry,
unless another lane goes elsewhere than to memory, since lanes become visible in order (R106). -/
def storeOp (z : Nat) (t : Stream) (who : Who) (sites : List Site) (s : State) : Res :=
  match s.reach t z .store sites with
  | .error r => r
  | .ok (s, rs) =>
    if rs.any fun r => r.x.kind == 3 then
      if who.spec then .drain
      else if s.siblingRuns t then .again s .none
      else if (t.left rs).any s.reachBusy then .again s .line
      else
        match s.logReaches (t.left rs) with
        | .inr (s, r, n, va) => refusedLine t .store r n va s
        | .inl s => serve t .store (serveStore t .store rs) (fun s _ => .io s) rs t.answers s
    else
      let merge := rs.all fun r => decide (r.x.kind < 2)
      let es := rs.foldl (fun es r =>
        addEntry
          { sid := t.sid, seq := who.seq, committed := false, lane := r.site.lane
            place := .mem (lineOf r.x.pa) (lineOf (vaOf r.site.addr)), bytes := lineBytes r.x.pa r.site.data, waiting := false }
          merge es r.site.gang) []
      .done (s.buffer t.launch es)

/-- The bytes a store of width z takes from a slot and its neighbour (R121). -/
def storeBytes (w : BitVec 3) (lo hi : Word) : List Byte :=
  if w = 4 then wordBytes lo ++ wordBytes hi else leBytes (accessSize w) lo.toNat

/-- A store word's issue. -/
def storeWord (h : Bool) : Issue := { len := 4, hold := h, spinOk := false }

/-- ST (R125). -/
def execSt (f : MFields) (s : State) : Out :=
  s.issue (storeWord f.h) fun t who s => s.withRegs t (memRegs f (f.w = 4)) <|
    let lo := s.rows t who.tick f.d.toNat
    let hi := s.rows t who.tick (f.d.toNat + 1)
    storeOp (accessSize f.w) t who
      (s.vectorSites t who.tick f (accessSize f.w) fun l => storeBytes f.w (lane lo l) (lane hi l)) s

/-- SST (R125). -/
def execSst (f : MFields) (s : State) : Out :=
  s.issue (storeWord f.h) fun t who s =>
    onParts (storeWord f.h) (fun p who s =>
      storeOp (accessSize f.w) t who
        [s.scalarSite p who.tick f (accessSize f.w) (storeBytes f.w (s.partS p who.tick f.d) (s.partS p who.tick (f.d + 1)))] s) t who s

/-- STS (R127). -/
def execSts (f : MFields) (s : State) : Out :=
  s.issue (storeWord f.h) fun t who s => s.withRegs t (memRegs f (f.w = 4)) <|
    let z := accessSize f.w
    let lo := s.rows t who.tick f.d.toNat
    let hi := s.rows t who.tick (f.d.toNat + 1)
    let sites := s.vectorSites t who.tick f z fun l => storeBytes f.w (lane lo l) (lane hi l)
    match s.splice? t.launch t.splice with
    | none => .done s
    | some sp =>
      match scratchFault sp.size z 1 sites with
      | some r => r
      | none =>
        .done (s.buffer t.launch (sites.foldl (fun es p =>
          addEntry
            { sid := t.sid, seq := who.seq, committed := false, lane := p.lane, place := .scratch (p.addr.toNat / 64)
              bytes := lineBytes p.addr.toNat p.data, waiting := false } true es p.gang) []))

/-! Atomics and ZERO. -/

/-- The new value of an atomic of n bits (R129). -/
def atomicNew (op n old x y : Nat) : Nat :=
  (match op with
    | 0 => old + x
    | 1 => old &&& x
    | 2 => old ||| x
    | 3 => old ^^^ x
    | 4 => if sextN x n < sextN old n then x else old
    | 5 => if sextN old n < sextN x n then x else old
    | 6 => x
    | _ => if old = x then y else old) % 2 ^ n

/-- One access of an atomic (R129): the old value is the answer. -/
def serveAtomic (t : Stream) (op z : Nat) (xy : Nat → Word × Word) (r : Reach) (s : State) : Served :=
  let x := (xy r.site.key).1
  let y := (xy r.site.key).2
  match s.localPa r.x with
  | some pa =>
    let old := s.mem.nat pa z
    serveWrite t .atomic false r pa (leBytes z (atomicNew op (8 * z) old (x.toNat % 2 ^ (8 * z)) (y.toNat % 2 ^ (8 * z))))
      (leBytes z old) s
  | none =>
    if isOwnFabric r.x.pa then refuseOwn s t .atomic r
    else .ask s (s.request t r (.atomic op z x y) false)

/-- An atomic at its sites (R129). A line in error and a full region end it before any of the lanes still to be performed is (R134, R314;
log 8). -/
def atomicOp (op z : Nat) (t : Stream) (sites : List Site) (xy : Nat → Word × Word) (fin : State → List (Nat × List Byte) → State)
    (s : State) : Res :=
  match s.reach t z .atomic sites with
  | .error r => r
  | .ok (s, rs) =>
    let left := t.left rs
    if left.any s.reachBusy then .again s .line
    else
      match left.find? fun r => (s.reachLines r).any fun a => s.badLines.contains (lineOf a) with
      | some r => .raise (s.dataError t.launch r.site.gang (lineOf ((s.reachLines r).headD 0)) 2) 0x11
          (memInfo r.site.lane 2 false false r.site.addr.toNat) [r.site.gang]
      | none =>
        match s.logReaches left with
        | .inr (s, r, n, va) => refusedLine t .atomic r n va s
        | .inl s => serve t .atomic (serveAtomic t op z xy) (fun s b => .done (fin s b)) rs t.answers s

/-- The issue of an irrevocable memory word. -/
def irrevocableWord (h : Bool) : Issue := { len := 4, hold := h, irrevocable := true, spinOk := false }

/-- A vector atomic of z bytes. -/
def vectorAtomic (z : Nat) (f : MFields) (s : State) : Out :=
  s.issue (irrevocableWord f.h) fun t who s => s.withRegs t (memRegs f (f.w = 7)) <|
    let x := s.rows t who.tick f.d.toNat
    let y := s.rows t who.tick (f.d.toNat + 1)
    atomicOp f.w.toNat z t (s.vectorSites t who.tick f z fun _ => []) (fun l => (lane x l, lane y l))
      (fun s got => s.writeRows t who true 64 f.d.toNat (maskOf fun l => got.any (·.1 == l))
        (byLane fun l => bytesWord (((got.find? (·.1 == l)).map (·.2)).getD []))) s

/-- ATOM (R129). -/
def execAtom (f : MFields) (s : State) : Out := vectorAtomic 4 f s
/-- ATOMX (R129). -/
def execAtomx (f : MFields) (s : State) : Out := vectorAtomic 8 f s

/-- SATOM (R129). -/
def execSatom (f : MFields) (s : State) : Out :=
  s.issue (irrevocableWord f.h) fun t who s =>
    onParts (irrevocableWord f.h) (fun p who s =>
      atomicOp f.w.toNat 8 t [s.scalarSite p who.tick f 8 []] (fun _ => (s.partS p who.tick f.d, s.partS p who.tick (f.d + 1)))
        (fun s got => s.setS p who true f.d (bytesWord (gotOf p got))) s) t who s

/-- The lines of a ZERO lane, each an access of its own (R130). -/
def zeroLines (n : Nat) (r : Reach) : List Reach :=
  (List.range n).map fun i =>
    { site := { r.site with key := 128 * r.site.lane + i, addr := r.site.addr + toWord (64 * i), data := List.replicate 64 0 }
      x := { r.x with pa := r.x.pa + 64 * i } }

/-- ZERO (R130): a block behind alias lines is merged with all their zeros and encoded once (R98). -/
def execZero (f : MFields) (s : State) : Out :=
  s.issue (irrevocableWord f.h) fun t who s => s.withRegs t (if f.mode = 2 then [] else [f.b.toNat]) <|
    let n := 2 ^ f.w.toNat
    match s.reach t (64 * n) .zero (s.vectorSites t who.tick f (64 * n) fun _ => []) with
    | .error r => r
    | .ok (s, rs) =>
      let lines := rs.flatMap (zeroLines n)
      if (t.left lines).any s.reachBusy then .again s .line
      else serve t .zero (serveStore t .zero lines) (fun s _ => .done s) lines t.answers s

/-! PREF and COMMIT. -/

/-- The line of memory that a prefetch of an address brings in, none if the lane is dropped (R131). Where the TLBs miss, the tables are
walked without setting A and without keeping the translation (log 61). -/
def State.prefLine (s : State) (core pasid : Nat) (a : Word) : Option Nat :=
  if !canonical a then none
  else
    let x := match s.translate (some core) pasid (vaOf a) .load with
      | .error .wait => match s.walkFor (some (dieOf core)) pasid (vaOf a) with
        | .ok x => some x
        | .error _ => none
      | .ok x => some x
      | .error _ => none
    x.bind fun x =>
      if x.kind == 2 || x.kind == 3 || s.guest.owned.contains (lineOf x.pa) then none
      else if x.kind == 4 && ((s.aliasAt x.pa).isNone || s.blockOwned x.pa) then none
      else some (lineOf x.pa)

/-- PREF (R131): 2^W lines from each lane's come into the L2 and the L1; no value changes and nothing traps. -/
def execPref (f : MFields) (s : State) : Out :=
  s.issue (word f.h) fun t who s =>
    if (s.notHeld t (if f.mode = 2 then [] else [f.b.toNat])).isSome then .done s
    else
      let n := 2 ^ f.w.toNat
      let lines := (s.vectorSites t who.tick f 64 fun _ => []).flatMap fun p =>
        (List.range n).map fun i => (p, toWord (lineOf p.addr.toNat) + toWord (64 * i))
      .done (lines.foldl (fun s x => match s.coreOf t.launch x.1.gang with
        | none => s
        | some c => match s.prefLine c (s.pasidOf t.launch) x.2 with
          | some pa => s.fillLine c (s.pasidOf t.launch) pa
          | none => s) s)

/-- COMMIT (R132): first every older access is performed; then the stream has nothing uncommitted. -/
def execCommit (f : MFields) (s : State) : Out :=
  s.issue (word f.h) fun _ who s => if who.spec then .drain else .done s

/-! Fetch (R21). -/

/-- A line of code as the core's instruction buffer holds it for a launch. -/
def State.fetched (s : State) (core launch line : Nat) : Option (List Byte) :=
  (s.ibuf.find? fun x => x.core == core && x.launch == launch && x.va == line).map (·.bytes)

/-- Bytes from an address on that the core's buffer holds: at most eight, of one line or of two that follow each other. -/
def State.codeBytes (s : State) (t : Stream) (core : Nat) (pc : Word) : List Byte :=
  let a := vaOf pc
  match s.fetched core t.launch (lineOf a) with
  | none => []
  | some bs =>
    let head := bs.drop (a % 64)
    if 8 ≤ head.length then head
    else head ++ ((s.fetched core t.launch (lineOf (vaOf (pc + toWord head.length)))).getD [])

/-- The end of a fetch: the line is in the buffer, or the stream has trapped, waits, or comes to a commit point first. -/
inductive Fetch where
  | line (s : State)
  | ended (s : State)

/-- A stream's fetch ends in a precise trap, once nothing of it is uncommitted. -/
def State.fetchTrap (s : State) (t : Stream) (cause : Nat) (info : Word) (s' : State) : Fetch :=
  .ended (if t.unc.isEmpty then s.raiseWhenFlushed s' t t.homes cause info else s.drainStep t)

/-- Fetch the line of a word at `pc` (R21, R77, R82, R326, R327). -/
def State.fetchLine (s : State) (t : Stream) (core line : Nat) (pc : Word) : Fetch :=
  let pasid := s.pasidOf t.launch
  let k := t.homes.headD 0
  let info := memInfo 0 0 false false pc.toNat
  if !canonical pc then s.fetchTrap t 5 info s
  else match s.translate (some core) pasid line .fetch with
    | .ok x =>
      if s.badLines.contains (lineOf x.pa) then s.fetchTrap t 0x11 info (s.dataError t.launch k (lineOf x.pa) 3)
      else if s.guest.owned.contains (lineOf x.pa) then .ended (s.updStream t.sid fun u => { u with wait := .line })
      else
        let s := (s.touchTlb (some core) pasid line .fetch).readL2 (dieOf core) pasid (lineOf x.pa)
        .line { s with
          ibuf := { core := core, launch := t.launch, va := line, bytes := s.mem.read (lineOf x.pa) 64 } ::
            s.ibuf.filter fun y => !(y.core == core && y.launch == t.launch && y.va == line) }
    | .error .wait => .ended (s.joinMisses t [(toWord line, .fetch, k)])
    | .error (.fault r) =>
      if !t.unc.isEmpty then .ended (s.drainStep t)
      else
        let n := s.seq
        match s.faulting t k with
        | (s, some u) => .ended ((s.addRecord
            { addr := pc, src := gangSrc t.launch k, pasid := pasid, reason := r, acc := 3, skind := .gang, cls := 1 }
            (.stream u.sid info)).updStream u.sid fun u => { u with wait := .fault n, walkFails := [], spin := Spin.empty })
        | (s, none) => .ended s
    | .error _ => s.fetchTrap t 5 info s

/-- INSTRUCTION_FETCH (R21): a line is fetched into the core's buffer for the stream's launch. -/
def execInstructionFetch (sid line : Nat) (s : State) : Out :=
  match s.stream? sid with
  | none => .next s
  | some t => match s.streamCore t with
    | none => .next s
    | some c => if t.wait != .none || t.stopped then .next s
      else match s.fetchLine t c (lineOf (line % 2 ^ 55)) (if lineOf (vaOf t.pc) = lineOf (line % 2 ^ 55) then t.pc else toWord (lineOf line)) with
        | .line s => .next s
        | .ended s => .next s

/-! Events. -/

/-- INSTRUCTION_COMMIT (R305). -/
def execInstructionCommit (sid : Nat) (s : State) : Out :=
  match s.stream? sid with
  | some t => .next (s.commitStep t)
  | none => .next s

/-- REGISTER_RESULT_RETURN (R161, R163): the n-th pending result of a gang returns; a stale one is dropped and counted. -/
def execRegisterResultReturn (l k n : Nat) (s : State) : Out :=
  match s.gang? l k with
  | none => .next s
  | some g =>
    let s := if g.pending[n]?.any g.stale then s.countCore g.core 4 (s.pasidOf l) 1 else s
    .next (s.updGang l k fun g => { g with pending := g.pending.eraseIdx n })

/-- STORE_VISIBILITY (R87, R105). -/
def execStoreVisibility (sid : Nat) (s : State) : Out :=
  match s.stream? sid with
  | some t => .next (s.storeStep t)
  | none => .next s

/-- ROLLBACK (R89, R307): a signature hit, true or false, rolls back the gang's streams. -/
def execRollback (l k : Nat) (s : State) : Out := .next (s.rollbackGang l k)

/-- What a walk gives one access that waited for it: its failure, or none. -/
def walkResult (r : Except XFail Xlat) (acc : Access) : Option XFail :=
  match r with
  | .error e => some e
  | .ok x => if permits acc x.kind x.w x.x then none else some .denied

/-- A miss has ended: its waiters take its failure, if any, and the streams that wait for walks of the die try again (R82). -/
def State.endMiss (s : State) (m : TlbMiss) (r : Except XFail Xlat) : State :=
  { s with
    misses := s.misses.filter (· != m)
    streams := s.streams.map fun t =>
      let fails := m.waiters.filterMap fun w =>
        if w.1 = t.sid then (walkResult r w.2).map fun e => (m.page, w.2, e) else none
      { t with
        walkFails := t.walkFails ++ fails
        wait := if t.wait = .walk && (s.streamCore t).any fun c => dieOf c == m.die then .none else t.wait } }

/-- A walker ends its walk of an outstanding miss (R76 to R79, R82): A, and D for a write, are set in the leaf for accesses that pass its
checks, and the translation goes into the TLBs of their cores. A hint that does not hold is counted by the first of those cores
(log 46). Nothing happens yet while the guest holds a line of the tables. -/
def State.walkMiss (s : State) (m : TlbMiss) : State :=
  let va := m.page * 65536
  match s.walkFor (some m.die) m.pasid va with
  | .error .wait => s
  | .error e => s.endMiss m (.error e)
  | .ok x =>
    let passed := m.waiters.filter fun w => (walkResult (.ok x) w.2).isNone
    let cores := (passed.filterMap fun w => (s.stream? w.1).bind s.streamCore).eraseDups
    let s := passed.foldl (fun s w => s.markLeaf x w.2) s
    let s := s.cacheWalk (some m.die) m.pasid (s.context m.pasid).root va
    let s := if x.leaf.getLsbD 5 && x.pages == 1 then s.countCore cores.head? 0x30 m.pasid 1 else s
    let dirty := x.leaf.getLsbD 10 || passed.any fun w => w.2.writes
    (cores.foldl (fun s c => s.installTlb c (x.entry c m.pasid dirty)) s).endMiss m (.ok x)

/-- The misses that a die's 32 walkers serve: the first to arrive (R81, R82). -/
def State.walking (s : State) (die : Nat) : List TlbMiss := (s.misses.filter (·.die == die)).take 32

/-- PAGE_WALK (R76 to R79, R81, R82): the walk ends for a miss that an access of the stream waits for, a write or not. -/
def execPageWalk (sid : Nat) (va : Word) (write : Bool) (s : State) : Out :=
  let page := vaOf va / 65536
  match (s.walking 0 ++ s.walking 1).find? fun m => m.page == page && m.waiters.any fun w => w.1 == sid && w.2.writes == write with
  | some m => .next (s.walkMiss m)
  | none => .next s

/-- ALIAS_READ_DECODE (R97): a die's L2 asks for an alias line, which its block gives decoded. It waits for a line that the guest owns. -/
def execAliasReadDecode (a : AliasAsk) (s : State) : Out :=
  if (s.aliasAt a.pa).isNone || s.blockOwned a.pa then .next s else .next (s.fillAlias a.die 0 a.pa)

/-- ALIAS_WRITE_BACK (R98): a stream's oldest committed store, if it is to an alias block, is merged and re-encoded. -/
def execAliasWriteBack (sid : Nat) (s : State) : Out :=
  match s.stream? sid with
  | none => .next s
  | some t => match oldest (s.storesOf t) with
    | some (_, e) => match e.place with
      | .mem pa _ => if paRange s.memMap pa = .aliases then .next (s.storeStep t) else .next s
      | .scratch _ => .next s
    | none => .next s

/-- HOST_SNOOP (R93): the host takes the line's newest data, which leaves every cache here; read signatures are tested. What it then
writes is in its memory. A line that the guest owns is recalled first (R108). -/
def execHostSnoop (a : Snoop) (s : State) : Out :=
  let line := lineOf a.pa
  if s.guest.owned.contains line then .next s
  else
    let s := (s.dropL2 0 line).dropL2 1 line
    let s := { s with guest := { s.guest with shared := s.guest.shared.filter (· != line) } }
    let s := if isHostPa a.pa then { s with mem := s.mem.write line (a.data.take 64) } else s
    .next ((s.touchWatch none fun _ p => p.isLine line).testSignatures none fun _ p => p.isLine line)

end Sys2Proof.Machine
end

