-- ==== Sys2Proof/Machine/Knots.lean ====
section
/-! DEFINITION. The knot instructions, OP 0x7C (R272 to R277), and engine arrivals (R271). -/

namespace Sys2Proof.Machine

/-- A knot fault (R275). -/
def knotTrap (reason : Nat) (h : Word) (k : Nat) : Res := .trap 0x0B (toWord (reason * 2 ^ 58 + h.toNat % 2 ^ 55)) [k]

/-- A handle that cannot be used raises its trap or its fault (R272, R302, R383). -/
def HandleFail.res (e : HandleFail) (s : State) (acc : Nat) (h : Word) (k : Nat) : Res :=
  match e with
  | .wait => .miss s [(h, .store, k)]
  | .misaligned => .trap 6 (memInfo 0 acc false false h.toNat) [k]
  | .denied => .trap 5 (memInfo 0 acc false false h.toNat) [k]
  | .fault r => .fault h r acc k (memInfo 0 acc false false h.toNat)

/-- The issue of a knot word: irrevocable, waiting first as if H were set (R272). -/
def knotIssue (h : Bool) : Issue := { len := 4, hold := h, irrevocable := true, settleFirst := true, spinOk := false }

/-- The knot cache of a part's core (R268). -/
def State.cacheOf (s : State) (p : Part) (pa : Nat) : Filler := s.knotCache (s.coreOf p.launch p.gang) (s.pasidOf p.launch) pa

/-- A knot word: the checks on its handle, then its effect from the handle, the record's PA and the record, whose line the die takes
(R268, R272). -/
def knotWord (f : KFields) (eff : Part → Who → Word → Nat → Knot → State → Res) (s : State) : Out :=
  s.issueParts (knotIssue f.h) fun p who s =>
    let h := s.partS p who.tick f.a
    match s.handleAccess (s.coreOf p.launch p.gang) (s.pasidOf p.launch) h 32 with
    | .error e => e.res s 2 h p.gang
    | .ok (s, pa) =>
      if s.lineBusy pa then .again s .line
      else eff p who h pa (s.knot pa) (s.takeLine (some (p.launch, p.gang, p.sid)) (s.cacheOf p pa) pa)

/-- The knot checks of R275 before an effect. -/
def State.withKnot (s : State) (p : Part) (h : Word) (k : Knot) (eff : Res) : Res :=
  match k.refusal h (s.pasidOf p.launch) with
  | some r => knotTrap r h p.gang
  | none => eff

/-- A record written, and the phase completed where the step ends it; the continuation learns whether it did. -/
def State.leaveKnotAs (s : State) (p : Part) (h : Word) (pa : Nat) (k : Knot) (go : State → Bool → Res) : Res :=
  if s.knotHeld (s.pasidOf p.launch) pa k then .again s .line
  else match s.settleKnot (some (p.launch, p.gang, p.sid)) (s.cacheOf p pa) h pa k with
  | (.ok s, b) => go s b
  | (.refused s n va, _) => .raise s 0x0D (logInfo 0 2 false va n) [p.gang]

/-- A record written with no phase to complete (KNEW, KFREE). -/
def State.writeKnotAs (s : State) (p : Part) (pa : Nat) (k : Knot) : Res :=
  match s.putKnot (some (p.launch, p.gang, p.sid)) (s.cacheOf p pa) pa k with
  | .ok s => .done s
  | .refused s n va => .raise s 0x0D (logInfo 0 2 false va n) [p.gang]

/-- Change a gang's membership entry i. -/
def State.setMember (s : State) (p : Part) (i : Nat) (m : Member) : State :=
  s.updGang p.launch p.gang fun g => { g with members := vset g.members i m }

/-- The membership entry of a knot in a part's gang (R270). -/
def State.memberOf (s : State) (p : Part) (h : Word) : Option (Nat × Member) := (s.gang? p.launch p.gang).bind fun g => g.member? h

/-- The lowest empty membership entry (R330). -/
def State.freeMember (s : State) (p : Part) : Option Nat :=
  (s.gang? p.launch p.gang).bind fun g => (List.range 16).find? fun i => (vget g.members i Member.empty).handle == 0

/-- KNEW (R274). -/
def execKnew (f : KFields) (s : State) : Out :=
  knotWord f (fun p who h pa k s =>
    let b := s.partS p who.tick f.b
    if k.flags % 2 = 1 && k.check == knotCheck h then knotTrap 3 h p.gang
    else if bits b 63 33 != 0 then knotTrap 8 h p.gang
    else s.writeKnotAs p pa
      { exp := bits b 31 0, arr := 0, gen := 0, flags := 1 + 2 * bits b 32 32, head := 0, owner := s.pasidOf p.launch
        check := knotCheck h }) s

/-- KJOIN (R274). -/
def execKjoin (f : KFields) (s : State) : Out :=
  knotWord f (fun p who h pa k s => s.withKnot p h k <|
    if (s.memberOf p h).isSome then knotTrap 5 h p.gang
    else match s.freeMember p with
      | none => knotTrap 4 h p.gang
      | some i =>
        if k.exp = 2 ^ 32 - 1 then knotTrap 4 h p.gang
        else match s.writeKnotAs p pa { k with exp := k.exp + 1 } with
          | .done s => .done ((s.setMember p i { handle := h, av := false, agen := 0 }).setS p who true f.d (toWord k.gen))
          | r => r) s

/-- KLEAVE (R270, R274). -/
def execKleave (f : KFields) (s : State) : Out :=
  knotWord f (fun p _ h pa k s => s.withKnot p h k <|
    match s.memberOf p h with
    | none => knotTrap 5 h p.gang
    | some (i, m) => s.leaveKnotAs p h pa (k.leave m) fun s _ => .done (s.setMember p i Member.empty)) s

/-- An arrival (R270, R274): the generation read goes to sD and into the arrival mark. -/
def arriveOp (f : KFields) (after : Part → Word → Nat → Knot → State → Bool → Res) (p : Part) (who : Who) (h : Word) (pa : Nat)
    (k : Knot) (s : State) : Res :=
  s.withKnot p h k <|
    if k.exp = 0 then knotTrap 6 h p.gang
    else s.leaveKnotAs p h pa { k with arr := k.arr + 1 } fun s b =>
      let s := s.setS p who true f.d (toWord k.gen)
      let s := match s.memberOf p h with
        | some (i, m) => s.setMember p i { m with av := true, agen := BitVec.ofNat 32 k.gen }
        | none => s
      after p h pa k s b

/-- KARRIVE (R274). -/
def execKarrive (f : KFields) (s : State) : Out := knotWord f (arriveOp f fun _ _ _ _ s _ => .done s) s

/-- The VA of a part's waiter entry (R277). -/
def State.waiterOf (s : State) (p : Part) : Option Word :=
  (s.gang? p.launch p.gang).map fun g => waiterVa (s.context (s.pasidOf p.launch)) g.record (p.slots.headD 0)

/-- The waiter entry cannot be written yet: its line, or one of the tables', is held. -/
def State.waiterHeld (s : State) (p : Part) : Bool :=
  (s.waiterOf p).any fun va => match s.engineAccess (s.pasidOf p.launch) va .store with
    | .ok (s, x) => s.lineBusy x.pa
    | .error e => e == .wait

/-- The stream's waiter entry pushed at the record's HEAD; the stream waits past a generation (R277). An entry that cannot
be written ends the launch as a failed save does (R332, log 11). -/
def State.waitOn (s : State) (p : Part) (h : Word) (pa : Nat) (gen : Nat) : Res :=
  match s.waiterOf p with
  | none => .done s
  | some va =>
    match s.engineAccess (s.pasidOf p.launch) va .store with
    | .error _ => .moved (s.abortLaunch p.launch p.gang 5 (((s.stream? p.sid).map (·.pc)).getD 0))
    | .ok (s, x) =>
      let k := s.knot pa
      let s := s.storeHw (s.pasidOf p.launch) x.pa (wordBytes k.head ++ leBytes 4 gen)
      match s.writeKnotAs p pa { k with head := va } with
      | .done s => .park s (.knot h (BitVec.ofNat 32 gen))
      | r => r

/-- KWAIT (R274). -/
def execKwait (f : KFields) (s : State) : Out :=
  knotWord f (fun p who h pa k s => s.withKnot p h k <|
    let g := bits (s.partS p who.tick f.b) 31 0
    if k.gen != g then .done s
    else if s.waiterHeld p then .again s .line
    else s.waitOn p h pa g) s

/-- KARRW (R274): the stream waits unless its arrival completed the phase. -/
def execKarrw (f : KFields) (s : State) : Out :=
  knotWord f (fun p who h pa k s =>
    if s.waiterHeld p then .again s .line
    else arriveOp f (fun p h pa k s b => if b then .done s else s.waitOn p h pa k.gen) p who h pa k s) s

/-- KFREE (R274). -/
def execKfree (f : KFields) (s : State) : Out :=
  knotWord f (fun p _ h pa k s => s.withKnot p h k <|
    if k.head != 0 then knotTrap 7 h p.gang else s.writeKnotAs p pa { k with flags := 0, check := 0 }) s

/-- KQUERY (R274). -/
def execKquery (f : KFields) (s : State) : Out :=
  knotWord f (fun p who h _ k s => s.withKnot p h k (.done (s.setS p who true f.d (toWord (k.gen * 2 ^ 32 + k.arr))))) s

/-- An engine arrives; a translation fault posts a class-1 record and the arrival waits (R271). -/
def State.arriveFor (s : State) (kind : EngineKind) (pasid : Nat) (va : Word) : State :=
  match s.engineArrive pasid va with
  | .done s => s
  | .refused s => s
  | .held => s
  | .fault r => s.addRecord { addr := va, src := Config.recordSrc s.seq va.toNat, pasid := pasid, reason := r, acc := 2, skind := kind, cls := 1 } (.arrival kind pasid va)

/-- The payload of every command of a PASID that an engine of this kind has begun is visible (R112; log 47). -/
def State.payloadsDone (s : State) (kind : EngineKind) (pasid : Nat) : Bool :=
  match kind with
  | .bulkCopy => s.queues.all fun q => q.pasid != pasid || q.begun.all (·.done)
  | .halyard => s.plans.all fun p => p.pasid != pasid || p.buckets.all fun b => !b.inFlight || b.recorded
  | .coreCopy => s.coreCmds.all fun c => c.pasid != pasid || c.work.progress == 0 || c.work.done
  | .rollback => s.launches.all fun x => x.pasid != pasid ||
    (List.range 16).all fun i => (x.region i).state != .rolling || (x.region i).restored
  | _ => true

/-- ENGINE_KNOT_ARRIVAL (R112, R271). -/
def execEngineKnotArrival (kind : EngineKind) (pasid : Nat) (va : Word) (s : State) : Out :=
  if s.payloadsDone kind pasid then .next (s.arriveFor kind pasid va) else .next s

end Sys2Proof.Machine
end

