-- ==== Sys2Proof/Machine/Scratch.lean ====
section
/-! DEFINITION. RESIZE, RACQ and RREL (R156, R158, R160), and the grant of extended blocks. -/

namespace Sys2Proof.Machine

/-- Streams whose wait is of a kind become ready, to execute their instruction again or go on. -/
def State.wake (s : State) (p : Stream → Bool) : State :=
  { s with streams := s.streams.map fun t => if p t then { t with wait := .none } else t }

/-- Streams that wait for a row lock or a held line try again (R109, R317). -/
def State.wakeHeld (s : State) : State := s.wake fun t => t.wait == .rowLock || t.wait == .line

/-- Earlier core-queue commands or stores of a splice that reach an offset or beyond (R156): a lock or a buffered store
lies there, or a copy command of the splice is unfinished. -/
def State.splicePending (s : State) (l sp off : Nat) (sid : Nat) : Bool :=
  (s.coreCmds.any fun c => c.launch == l && c.splice == sp && bits (vget c.work.words 0 0) 17 16 != 0) ||
    (s.locks.any fun k => k.launch == l && k.splice == sp && decide (off < 256 * (k.row + 1))) ||
    (s.gangs.any fun g => g.launch == l && s.spliceOf l g.idx == sp && g.sb.any fun e => e.sid != sid &&
      match e.place with
        | .scratch b => decide (off < 64 * (b + 1))
        | _ => false)

/-- The blocks from an offset to another: watchers look again, and the signatures are tested as by a store (R89, R156, R285). -/
def State.touchScratch (s : State) (l sp lo hi : Nat) : State :=
  let hit := fun (p : LinePlace) => match p with
    | .scratch b => decide (lo < 64 * (b + 1)) && decide (64 * b < hi)
    | .mem _ _ => false
  (s.touchWatch none fun t p => t.launch == l && t.splice == sp && hit p).testSignatures none
    fun g p => g.launch == l && s.spliceOf l g.idx == sp && hit p

/-- The streams whose RESIZE waits for nothing any more try again. -/
def State.wakeResize (s : State) : State :=
  s.wake fun t => match t.wait with
    | .resize off => !s.splicePending t.launch t.splice off t.sid
    | _ => false

/-- RESIZE in one part (R156): ways of the array that become scratchpad leave the L1 (R154). -/
def resizeOp (f : KFields) (p : Part) (who : Who) (s : State) : Res :=
  let sp := s.spliceOf p.launch p.gang
  match s.splice? p.launch sp, s.coreOf p.launch p.gang with
  | some x, some core =>
    let n := ((s.partS p who.tick f.a).toNat + 255) / 256 * 256
    if 737280 < n || 737280 < s.scratchUse core - x.size + n then .done (s.setS p who true f.d (toWord x.size))
    else if n = x.size then .done (s.setS p who true f.d (toWord n))
    else if s.splicePending p.launch sp (min x.size n) p.sid then .again s (.resize (min x.size n))
    else
      let s := s.updSplice p.launch sp fun x =>
        { x with
          size := n
          scratch := x.scratch.filter fun (c : Host.Cell) => decide (c.1 < min x.size n)
          badBlocks := x.badBlocks.filter fun b => decide (64 * b < min x.size n) }
      .done (((s.touchScratch p.launch sp (min x.size n) (max x.size n)).trimL1 core).setS p who true f.d (toWord n))
  | _, _ => .done s

/-- RESIZE (R156). -/
def execResize (f : KFields) (s : State) : Out := s.issueParts (irrevocableWord f.h) (resizeOp f)

/-- Extended blocks in use on a core: held there, or granted to an absent gang that returns there (R158, R276). -/
def State.blocksUsed (s : State) (core : Nat) : Nat :=
  (s.gangs.filter fun g => g.core == some core && g.xb || g.place.isNone && g.blockCore == some core).length

/-- Vector registers v32 to v63 at zero. -/
def clearExtended (v : Vector VReg 64) : Vector VReg 64 := vtab 64 fun i => if i < 32 then vget v i zeroV else zeroV

/-- The gang holds an extended block of a core, zero in every register (R158). -/
def State.giveBlock (s : State) (core l k : Nat) : State :=
  s.updGang l k fun g => { g with xb := true, blockCore := if g.place.isNone then some core else none, v := clearExtended g.v }

/-- A core that a launch's partition may use (R367, R368), on a die that works (R348). -/
def State.coreAllowed (s : State) (l core : Nat) : Bool :=
  let part := (s.context (s.pasidOf l)).part
  (if s.fw.reduced then dieOf core == s.fw.serviceDie else s.fw.dieOk.getLsbD (dieOf core)) &&
    if s.isStrict part then (s.partcfg part).getLsbD (core / 8)
    else (List.range 16).all fun p => !(s.isStrict p && (s.partcfg p).getLsbD (core / 8))

/-- The gangs of a splice may return to a core together: no other core has granted one of them a block (R160, R276). -/
def State.backAllowed (s : State) (l sp core : Nat) : Bool :=
  s.gangs.all fun g => !(g.launch == l && s.spliceOf l g.idx == sp) || g.blockCore.isNone || g.blockCore == some core

/-- A gang may hold a block of the core: it is there, or absent with its splice on that core, or on none and allowed there (R160,
R276). -/
def State.mayHold (s : State) (core l k : Nat) : Bool :=
  match s.coreOf l k with
  | some c => c == core
  | none => match (s.splice? l (s.spliceOf l k)).bind (·.core) with
    | some c => c == core
    | none => s.coreAllowed l core && s.backAllowed l (s.spliceOf l k) core

/-- The gangs that wait for a block of the core: priority, launch, gang (R158). Of a packed stream it is the gang whose RACQ waits
(R249). -/
def State.blockWaiters (s : State) (core : Nat) : List (Nat × Nat × Nat) :=
  (s.streams.filter fun t => t.wait == .racq).flatMap fun t =>
    (t.current.toList.filter fun k => s.mayHold core t.launch k && !(s.gang? t.launch k).any (·.xb)).map fun k => (((s.launch? t.launch).map (·.prio)).getD 0, t.launch, k)

/-- RACQ (R160): the gang holds a block already or one is free, or the stream waits. -/
def execRacq (f : KFields) (s : State) : Out :=
  s.issueParts (irrevocableWord f.h) fun p _ s =>
    match s.gang? p.launch p.gang with
    | none => .done s
    | some g =>
      if g.xb then .done s
      else match g.core with
        | some c =>
          if s.blocksUsed c < 8 && (s.blockWaiters c).isEmpty then .done (s.giveBlock c p.launch p.gang) else .again s .racq
        | none => .again s .racq

/-- RREL (R160): it waits for results of the gang that target v32 to v63, then gives the block back; a stale one is dropped and counted
(R161). -/
def execRrel (f : KFields) (s : State) : Out :=
  s.issueParts (irrevocableWord f.h) fun p _ s =>
    match s.gang? p.launch p.gang with
    | none => .done s
    | some g =>
      if !g.xb then .done s
      else
        let high := fun (q : Pending) => match q.reg with | .v r => decide (32 ≤ r) | _ => false
        let lost := (g.pending.filter fun q => high q && g.stale q).length
        let s := if lost = 0 then s else s.countCore g.core 4 (s.pasidOf p.launch) lost
        .done (s.updGang p.launch p.gang fun g =>
          { g with xb := false, v := clearExtended g.v, pending := g.pending.filter fun q => !high q })

/-- EXTENDED_BLOCK_GRANT (R158): a free block goes to the waiting stream of the highest priority, then lowest gang index
and launch. -/
def execExtendedBlockGrant (core : Nat) (s : State) : Out :=
  if 8 ≤ s.blocksUsed core then .next s
  else
    match (s.blockWaiters core).foldl (fun (best : Option (Nat × Nat × Nat)) x => match best with
        | none => some x
        | some y =>
          if y.1 < x.1 || y.1 == x.1 && (decide (x.2.2 < y.2.2) || x.2.2 == y.2.2 && decide (x.2.1 < y.2.1)) then some x else best) none with
    | none => .next s
    | some (_, l, k) => .next ((s.giveBlock core l k).wake fun t => t.launch == l && t.current == some k && t.wait == .racq)

end Sys2Proof.Machine
end

