-- ==== Sys2Proof/Machine/Copy.lean ====
section
/-! DEFINITION. Packets (R140 to R142), the work of the copy classes (R144 to R149, R380): source lines are read whole, destination bytes
are made from them, and each destination line is written once (R108); and row locks of copies (R109). -/

namespace Sys2Proof.Machine

/-! The packet (R140, R141). -/

/-- The eight words of a packet. -/
abbrev Packet := Vector Word 8

/-- Word i of a packet. -/
def pktWord (p : Packet) (i : Nat) : Word := vget p i 0
/-- CLASS. -/
def pktClass (p : Packet) : Nat := bits (pktWord p 0) 7 0
/-- FLG. -/
def pktFlags (p : Packet) : Nat := bits (pktWord p 0) 15 8
/-- ASP. -/
def pktAsp (p : Packet) : Nat := bits (pktWord p 0) 23 16
/-- LEN. -/
def pktLen (p : Packet) : Nat := bits (pktWord p 0) 63 32
/-- SADR. -/
def pktSadr (p : Packet) : Word := pktWord p 1
/-- SVAL. -/
def pktSval (p : Packet) : Word := pktWord p 2
/-- SRC. -/
def pktSrc (p : Packet) : Word := pktWord p 3
/-- DST. -/
def pktDst (p : Packet) : Word := pktWord p 4
/-- ROWS. -/
def pktRows (p : Packet) : Nat := bits (pktWord p 5) 31 0
/-- FA. -/
def pktFa (p : Packet) : Nat := bits (pktWord p 5) 39 32
/-- FB. -/
def pktFb (p : Packet) : Nat := bits (pktWord p 5) 47 40
/-- OPB. -/
def pktOpb (p : Packet) : Nat := bits (pktWord p 5) 55 48
/-- SPITCH. -/
def pktSpitch (p : Packet) : Nat := bits (pktWord p 6) 31 0
/-- DPITCH. -/
def pktDpitch (p : Packet) : Nat := bits (pktWord p 6) 63 32
/-- SCL. -/
def pktScl (p : Packet) : Word := pktWord p 7

/-- A packet of bytes. -/
def packetOf (bs : List Byte) : Packet := vtab 8 fun i => toWord (leNat ((bs.drop (8 * i)).take 8))

/-- The bytes of a packet. -/
def packetBytes (p : Packet) : List Byte := (List.range 8).flatMap fun i => wordBytes (pktWord p i)

/-- A format code as the destination of a copy-quantize or the source of a copy-decode (R145, R146). -/
def narrowCode (c : Nat) : Bool := (2 ≤ c && c ≤ 8) || c == 0x0C || c == 0x0E || c == 0x0F || (0x11 ≤ c && c ≤ 0x17)
/-- f32, bf16 or f16. -/
def wideCode (c : Nat) : Bool := 1 ≤ c && c ≤ 3
/-- An element format of a reduce-copy (R147). -/
def reduceCode (c : Nat) : Bool := wideCode c || (9 ≤ c && c ≤ 0x0C)

/-- A format by its code. -/
def fmtOf (c : Nat) : Fmt := (Fmt.ofCode c).getD .i8

/-- Formats of a packet's source and destination elements; bytes are i8 (R141). -/
def pktFormats (p : Packet) : Fmt × Fmt :=
  match pktClass p with
  | 2 => (fmtOf (pktFb p), fmtOf (pktFa p))
  | 3 => (fmtOf (pktFa p), fmtOf (pktFb p))
  | 4 => (fmtOf (pktFa p), fmtOf (pktFa p))
  | _ => (.i8, .i8)

/-- Bytes of a source row. -/
def srcRowBytes (p : Packet) : Nat := pktLen p * (pktFormats p).1.width / 8
/-- Bytes of a destination row. -/
def dstRowBytes (p : Packet) : Nat := pktLen p * (pktFormats p).2.width / 8

/-- The fields of a copy class that must be zero (R141). -/
def copyFieldsBad (p : Packet) : Bool :=
  let z := fun (n : Nat) => n != 0
  bits (pktWord p 5) 63 56 != 0 || match pktClass p with
    | 1 => z (pktFa p) || z (pktFb p) || z (pktOpb p) || pktScl p != 0
    | 2 | 3 => z (pktOpb p)
    | 4 => z (pktFb p) || pktScl p != 0 || z (field (pktOpb p) 6 2) || pktOpb p % 4 == 3
    | _ => z (pktFa p) || z (pktFb p) || z (pktOpb p) || pktScl p != 0 || z (pktSpitch p)

/-- The formats are not allowed for the class (R145 to R147). -/
def copyFormatsBad (p : Packet) : Bool :=
  match pktClass p with
  | 2 => !wideCode (pktFb p) || !narrowCode (pktFa p)
  | 3 => !narrowCode (pktFa p) || !wideCode (pktFb p)
  | 4 => !reduceCode (pktFa p) || (pktOpb p / 128 == 1 && (fmtOf (pktFa p)).float.isSome)
  | _ => false

/-- A row base and pitch aligned to an element size (R142). -/
def rowsAligned (base : Word) (pitch rows w : Nat) : Bool :=
  base.toNat % w == 0 && (rows ≤ 1 || pitch % w == 0)

/-- The checks of R142 on a packet of a copy class, but for its class: reason 5, or reason 6 for a scratchpad address in a
memory queue (R151). -/
def copyReason (core : Bool) (p : Packet) : Option Nat :=
  let (sf, df) := pktFormats p
  if !core && pktAsp p != 0 then some 6
  else if bits (pktWord p 0) 31 24 != 0 || field (pktFlags p) 6 2 != 0 || field (pktAsp p) 7 2 != 0 || copyFieldsBad p ||
      copyFormatsBad p ||
      ((sf.scaled || df.scaled) && pktLen p % 128 != 0) ||
      pktLen p * sf.width % 8 != 0 || pktLen p * df.width % 8 != 0 ||
      (pktClass p != 5 && !rowsAligned (pktSrc p) (pktSpitch p) (pktRows p) (max 1 (sf.width / 8))) ||
      !rowsAligned (pktDst p) (pktDpitch p) (pktRows p) (max 1 (df.width / 8)) ||
      (pktSadr p).toNat % 8 != 0 then some 5
  else none

/-! Rows of a packet, ranges and row locks (R109). -/

/-- Scratchpad rows touched by bytes [a, a + n). -/
def rowsIn (a n : Nat) : List Nat := if n = 0 then [] else (List.range ((a + n - 1) / 256 + 1 - a / 256)).map (a / 256 + ·)

/-- The row and the place in it that a progress stands for. -/
def rowPlace (p : Packet) (progress : Nat) : Nat × Nat :=
  let per := max 1 (if pktClass p = 2 then pktLen p else dstRowBytes p)
  (progress / per, progress % per)

/-- Progress of a whole payload: destination bytes, or elements of a copy-quantize. -/
def pktTotal (p : Packet) : Nat := pktRows p * (if pktClass p = 2 then pktLen p else dstRowBytes p)

/-- Blocks of a row (R60). -/
def rowBlocks (p : Packet) : Nat := pktLen p / 128

/-- The destination bytes of a row that a place in it stands for. -/
def dstOffset (p : Packet) (o : Nat) : Nat := if pktClass p = 2 then o * (pktFormats p).2.width / 8 else o

/-- Where row r of the source starts (R141). -/
def srcAt (p : Packet) (r : Nat) : Nat := (pktSrc p).toNat + r * pktSpitch p
/-- Where row r of the destination starts (R141). -/
def dstAt (p : Packet) (r : Nat) : Nat := (pktDst p).toNat + r * pktDpitch p
/-- The scale byte of block b of row r (R141). -/
def scaleAt (p : Packet) (r b : Nat) : Nat := (pktScl p).toNat + r * rowBlocks p + b

/-- The source is in scratchpad, and with it the scale bytes of a copy-decode (log 49). -/
def srcScratch (p : Packet) : Bool := pktAsp p % 2 == 1
/-- The destination is in scratchpad, and with it the scale bytes of a copy-quantize (log 49). -/
def dstScratch (p : Packet) : Bool := pktAsp p / 2 % 2 == 1

/-- Scratchpad rows that the rest of a payload writes: what is made and not yet written, and what is still to be made. -/
def dstRowsLeft (p : Packet) (progress : Nat) (out : List Host.Cell) : List Nat :=
  if !dstScratch p then []
  else
    let (r0, o) := rowPlace p progress
    (out.map (fun (c : Host.Cell) => c.1 / 256) ++ (List.range (pktRows p - r0)).flatMap fun i =>
      let r := r0 + i
      let skip := if i = 0 then dstOffset p o else 0
      rowsIn (dstAt p r + skip) (dstRowBytes p - skip) ++
        (if (pktFormats p).2.scaled then rowsIn (scaleAt p r 0) (rowBlocks p) else [])).eraseDups

/-- Scratchpad rows that the rest of a payload reads. -/
def srcRowsLeft (p : Packet) (progress : Nat) : List Nat :=
  if !srcScratch p || pktClass p = 5 || pktTotal p ≤ progress then []
  else
    let (r0, _) := rowPlace p progress
    ((List.range (pktRows p - r0)).flatMap fun i =>
      rowsIn (srcAt p (r0 + i)) (srcRowBytes p) ++
        (if (pktFormats p).1.scaled then rowsIn (scaleAt p (r0 + i) 0) (rowBlocks p) else [])).eraseDups

/-- The locks that a core command holds for the rest of its payload. -/
def State.lockCopy (s : State) (l sp seq : Nat) (p : Packet) (progress : Nat) (out : List Host.Cell) : State :=
  { s with
    locks := s.locks.filter (·.seq != seq) ++
      (dstRowsLeft p progress out).map (fun r => { launch := l, splice := sp, row := r, excl := true, seq := seq }) ++
      (srcRowsLeft p progress).map (fun r => { launch := l, splice := sp, row := r, excl := false, seq := seq }) }

/-- An earlier command of the core holds a row that this one would touch (R109). -/
def State.rowHeld (s : State) (l sp seq : Nat) (write : Bool) (rows : List Nat) : Bool :=
  s.locks.any fun k => k.launch == l && k.splice == sp && decide (k.seq < seq) && rows.contains k.row && (k.excl || write)

/-- A scratchpad range outside the splice (R151): the address of the first that is, and whether it is written (log 50). -/
def scratchRangeBad (size : Nat) (p : Packet) : Option (Word × Bool) :=
  let empty := pktLen p = 0 || pktRows p = 0
  let bad := fun (last n : Nat) (scaled : Bool) =>
    size = 0 || (!empty && (size < last + n || (scaled && size < scaleAt p (pktRows p) 0)))
  let last := pktRows p - 1
  if srcScratch p && pktClass p != 5 && bad (srcAt p last) (srcRowBytes p) (pktFormats p).1.scaled then some (pktSrc p, false)
  else if srcScratch p && pktClass p == 5 && size = 0 then some (pktSrc p, false)
  else if dstScratch p && bad (dstAt p last) (dstRowBytes p) (pktFormats p).2.scaled then some (pktDst p, true)
  else none

/-- An address lies in one of the packet's rows of n bytes from a base on. -/
def inRows (p : Packet) (base : Word) (pitch n a : Nat) : Bool :=
  let d := a - base.toNat
  let r := if pitch = 0 then 0 else min (pktRows p - 1) (d / pitch)
  decide (0 < pktRows p) && decide (base.toNat ≤ a) && decide (d < r * pitch + n)

/-- A row's destination from a byte on reaches a line. -/
def rowNames (p : Packet) (r skip line : Nat) : Bool :=
  decide (r < pktRows p) && decide (skip < dstRowBytes p) && decide (dstAt p r + skip < line + 64) && decide (line < dstAt p r + dstRowBytes p)

/-- What is still to be made of the packet has a byte in a line: the rest of the row, the first later row that could reach it, or a scale
byte (R108). -/
def namedLater (p : Packet) (progress line : Nat) : Bool :=
  let (r, o) := rowPlace p progress
  let gap := line + 1 - (dstAt p 0 + dstRowBytes p)
  let next := if pktDpitch p = 0 then r + 1 else max (r + 1) ((gap + pktDpitch p - 1) / pktDpitch p)
  rowNames p r (dstOffset p o) line || rowNames p next 0 line ||
    ((pktFormats p).2.scaled && decide (scaleAt p r (o / 128) < line + 64) && decide (line < scaleAt p (pktRows p) 0) &&
      decide (r < pktRows p))

/-! The engine's work. -/

/-- The engine of a memory queue as fault records name it (R323). -/
def QueueEngine.kind : QueueEngine → EngineKind
  | .bulk _ _ => .bulkCopy
  | .guest => .guest
  | .launch => .launch

/-- The compute die of a memory queue's engine (R9). -/
def QueueEngine.die : QueueEngine → Option Nat
  | .bulk d _ => some d
  | _ => none

/-- A core command by its core and number. -/
def State.coreCmd? (s : State) (core seq : Nat) : Option CoreCmd := s.coreCmds.find? fun c => c.core == core && c.seq == seq

/-- Change a core command. -/
def State.updCoreCmd (s : State) (seq : Nat) (f : CoreCmd → CoreCmd) : State :=
  { s with coreCmds := updFirst (fun c => c.seq == seq) f s.coreCmds }

/-- Change the work on a slot of a queue. -/
def MemQueue.updWork (q : MemQueue) (slot : Nat) (f : PacketWork → PacketWork) : MemQueue :=
  { q with begun := updFirst (fun w => w.slot == slot) f q.begun }

/-- Change the work on a packet. -/
def State.updWork (s : State) (e : EngineRef) (slot : Nat) (f : PacketWork → PacketWork) : State :=
  match e with
  | .core _ => s.updCoreCmd slot fun c => { c with work := f c.work }
  | .queue pasid hdr => s.updQueue pasid hdr fun q => q.updWork slot f

/-- The works of an engine that stand before a slot, in its order, and the work itself. -/
def State.worksTo (s : State) (e : EngineRef) (slot : Nat) : List PacketWork × Option PacketWork :=
  let ws : List PacketWork := match e with
    | .core c => (s.coreCmds.filter (·.core == c)).map (·.work)
    | .queue pasid hdr => ((s.queue? pasid hdr).map (·.begun)).getD []
  (ws.takeWhile (·.slot != slot), ws.find? (·.slot == slot))

/-- Work on a packet that has just begun. -/
def PacketWork.fresh (slot : Nat) (p : Packet) : PacketWork :=
  { slot := slot, words := p, progress := 0, staged := [], out := [], before := [], done := pktTotal p == 0, stamped := false, lost := false
    parked := false, rejected := none }

/-- For whom an engine works on a packet: the engine and the slot, the PASID, the splice its scratchpad addresses mean, the number of
the command, its core and die, and how its records name it (R149, R323). -/
structure EngineCtx where
  eng : EngineRef
  slot : Nat
  pasid : Nat
  launch : Nat
  splice : Nat
  seq : Nat
  core : Option Nat
  die : Option Nat
  kind : EngineKind
  src : Word
  tick : Nat
  deriving DecidableEq, Repr

/-- For whom an engine works. -/
def State.engineCtx (s : State) (e : EngineRef) (slot : Nat) : EngineCtx :=
  match e with
  | .core c =>
    let k := s.coreCmd? c slot
    { eng := e, slot := slot, pasid := (k.map (·.pasid)).getD 0, launch := (k.map (·.launch)).getD 0, splice := (k.map (·.splice)).getD 0
      seq := slot, core := some c, die := some (dieOf c), kind := .coreCopy, src := (k.map fun k => gangSrc k.launch k.gang).getD 0
      tick := s.ticks }
  | .queue pasid hdr =>
    let q := s.queue? pasid hdr
    { eng := e, slot := slot, pasid := pasid, launch := 0, splice := 0, seq := 0, core := none, die := q.bind (·.engine.die)
      kind := (q.map (·.engine.kind)).getD .bulkCopy, src := toWord slot, tick := s.ticks }

/-- What a class-1 record of the work parks (R325). -/
def EngineCtx.target (c : EngineCtx) : FaultTarget :=
  match c.eng with
  | .core _ => .coreCmd c.slot
  | .queue pasid hdr => .queue pasid hdr c.slot

/-- The work itself. -/
def State.workOf (s : State) (c : EngineCtx) : Option PacketWork := (s.worksTo c.eng c.slot).2

/-- Change it. -/
def State.updOwn (s : State) (c : EngineCtx) (f : PacketWork → PacketWork) : State := s.updWork c.eng c.slot f

/-! Engine accesses (R108, R149, R380). -/

/-- Spans of n bytes from an address, one for each line: address and length. -/
def lineSpans (a n : Nat) : List (Nat × Nat) :=
  (byLine (cellsOf a (List.replicate n 0))).map fun g => ((g.head?.map (·.1)).getD 0, g.length)

/-- An engine's translation: only coherent-device, host-coherent and alias pages (R380). A and D are set once the access is permitted. -/
def State.engineReach (s : State) (c : EngineCtx) (a : Word) (acc : Access) : EngineRes Xlat :=
  match s.engineAccess c.pasid a acc c.die with
  | .error (.fault r) => .fault s a r acc.code
  | .error .wait => .held s
  | .error _ => .denied s
  | .ok (s', x) => if x.kind < 2 || (x.kind = 4 && s.aliasCovered x.pa 64) then .ok s' x else .denied s

/-- A line in error that an engine reads: its page is retired, and a class-5 record posted; the access fails (R149, R327). -/
def State.sourceError (s : State) (c : EngineCtx) (line : Nat) : EngineRes α :=
  .denied (s.lineError { addr := 0, src := c.src, pasid := c.pasid, reason := 0, acc := 0, skind := c.kind, cls := 5 } line)

/-- The line of an address in memory, whole and at one instant (R108); of an alias page decoded, as a load would read it (R380). -/
def State.engineLoadLine (s : State) (c : EngineCtx) (a : Word) : EngineRes (List Byte) :=
  (s.engineReach c a .load).bind fun s x =>
    let line := lineOf x.pa
    if x.kind = 4 then
      let cached := s.aliasLines.any (·.1 == line)
      if !cached && s.blockOwned line then .held s
      else match (if cached then none else s.readError x) with
        | some bad => s.sourceError c bad
        | none =>
          let s := match c.die with
            | some d => s.fillAlias d c.pasid line
            | none => s
          .ok s ((List.range 64).map fun i => s.aliasRead (line + i))
    else if s.guest.owned.contains line then .held s
    else if s.badLines.contains line then s.sourceError c line
    else
      .ok (match c.die with
        | some d => s.readL2 d c.pasid line
        | none => s) (s.mem.read line 64)

/-- A block of the splice's scratchpad. One in error fails the access with a class-5 record (R149, R327; log 45). -/
def State.engineLoadBlock (s : State) (c : EngineCtx) (a : Nat) : EngineRes (List Byte) :=
  if s.rowHeld c.launch c.splice c.seq false [a / 256] then .held s
  else match s.splice? c.launch c.splice with
    | none => .denied s
    | some sp =>
      if sp.badBlocks.contains (a / 64) then
        .denied (s.addRecord
          { addr := toWord (lineOf a), src := c.src, pasid := c.pasid, reason := 0, acc := 0, skind := c.kind, cls := 5 } .nothing)
      else .ok s (sp.scratch.read (lineOf a) 64)

/-- A source line of the packet, staged until the packet has read all of it that it reads in one go. A byte that the packet has
overwritten is read as it was before or after that (R144). -/
def State.sourceLine (s : State) (c : EngineCtx) (p : Packet) (a : Nat) : EngineRes (List Byte) :=
  let line := lineOf a
  match (s.workOf c).bind fun w => w.staged.find? (·.1 == line) with
  | some x => .ok s x.2
  | none =>
    (if srcScratch p then s.engineLoadBlock c a else s.engineLoadLine c (toWord a)).bind fun s bs =>
      let kept := ((s.workOf c).map (·.before)).getD []
      let bs := (List.range 64).map fun i => match kept.find? (·.1 == line + i) with
        | some b => if Config.freeBit c.tick (6000 + c.slot) (line + i) then b.2 else bs.getD i 0
        | none => bs.getD i 0
      .ok (s.updOwn c fun w => { w with staged := (line, bs) :: w.staged }) bs

/-- n bytes of the source from an address on. -/
def State.sourceBytes (s : State) (c : EngineCtx) (p : Packet) (a n : Nat) : EngineRes (List Byte) :=
  (lineSpans a n).foldl (fun acc sp => acc.bind fun s bs => (s.sourceLine c p sp.1).bind fun s l =>
    .ok s (bs ++ (l.drop (sp.1 % 64)).take sp.2)) (.ok s [])

/-! What a unit of a payload makes (R144 to R148). -/

/-- Destination bytes by address, the progress after them, and the ranges of the source that they were made from. -/
structure Made where
  cells : List Host.Cell
  progress : Nat
  from_ : List (Nat × Nat)
  deriving DecidableEq, Repr

/-- Events of an engine's core (R57, R60; log 44: those of a bulk engine, which R363 gives no bank, are not counted). -/
def State.countEngine (s : State) (c : EngineCtx) (ev n : Nat) : State := if n = 0 then s else s.countCore c.core ev c.pasid n

/-- Elements of w bits packed (R51). -/
def packBytes (w : Nat) (es : List Nat) : List Byte :=
  leBytes (w * es.length / 8) (es.foldr (fun x acc => x % 2 ^ w + 2 ^ w * acc) 0)

/-- The bytes of one source line, as they stand, of a copy or a reduce-copy (R144, R147). -/
def State.makeCopy (s : State) (c : EngineCtx) (p : Packet) (progress : Nat) : EngineRes Made :=
  let (r, o) := rowPlace p progress
  let a := srcAt p r + o
  let n := min (64 - a % 64) (dstRowBytes p - o)
  (s.sourceBytes c p a n).bind fun s bs => .ok s { cells := cellsOf (dstAt p r + o) bs, progress := progress + n, from_ := [(a, n)] }

/-- The bytes of one destination line of a fill (R148). -/
def makeFill (p : Packet) (progress : Nat) : Made :=
  let (r, o) := rowPlace p progress
  let a := dstAt p r + o
  let n := min (64 - a % 64) (dstRowBytes p - o)
  { cells := cellsOf a ((List.range n).map fun i => BitVec.ofNat 8 ((pktSrc p).toNat / 2 ^ (8 * ((o + i) % 8))))
    progress := progress + n, from_ := [] }

/-- The encoding of one element of a copy-quantize into an unscaled format, and whether it is counted (R53, R54, R145). -/
def quantElem (d : Fmt) (x : FVal) : Nat × Bool :=
  match d.float with
  | some ff => let (b, f) := ff.encode .rne x; (b, ff.counted x f)
  | none =>
    let (lo, hi) := if d == .tern then (-1, 1) else d.intRange.getD (-1, 1)
    let (v, f) := toIntFlags .rne lo hi x
    ((v % 2 ^ d.width).toNat, f &&& Flags.nv != 0)

/-- One block of a copy-quantize: its elements, and its scale byte (R145). -/
def State.makeQuant (s : State) (c : EngineCtx) (p : Packet) (progress : Nat) : EngineRes Made :=
  let (sf, df) := pktFormats p
  let (r, e) := rowPlace p progress
  let n := min 128 (pktLen p - e)
  let sb := sf.width / 8
  let a := srcAt p r + e * sb
  (s.sourceBytes c p a (n * sb)).bind fun s bs =>
    let vals := (List.range n).map fun i => sf.decode (leNat ((bs.drop (sb * i)).take sb))
    let (scale, elems, sat) :=
      if df.scaled then encodeBlock df vals
      else let q := vals.map (quantElem df); (127, q.map (·.1), (q.filter (·.2)).length)
    .ok (s.countEngine c 0x20 sat)
      { cells := cellsOf (dstAt p r + dstOffset p e) (packBytes df.width elems) ++
          (if df.scaled then [(scaleAt p r (e / 128), BitVec.ofNat 8 scale)] else [])
        progress := progress + n, from_ := [(a, n * sb)] }

/-- The elements of a copy-decode whose last bits lie in one source line (R146). A block with a reserved scale is counted at its first
element (R60; log 44). -/
def State.makeDecode (s : State) (c : EngineCtx) (p : Packet) (progress : Nat) : EngineRes Made :=
  let (sf, df) := pktFormats p
  let (r, o) := rowPlace p progress
  let db := df.width / 8
  let e0 := o / db
  let b0 := e0 * sf.width / 8
  let stop := lineOf (srcAt p r + ((e0 + 1) * sf.width - 1) / 8) + 64 - srcAt p r
  let cnt := min (pktLen p) (8 * stop / sf.width) - e0
  let n := ((e0 + cnt) * sf.width + 7) / 8 - b0
  (s.sourceBytes c p (srcAt p r + b0) n).bind fun s bs =>
    let blk := e0 / 128
    let blks := if sf.scaled then (e0 + cnt - 1) / 128 - blk + 1 else 0
    (s.sourceBytes c p (scaleAt p r blk) blks).bind fun s sc =>
      let scaleOf := fun i => if sf.scaled then (sc.getD ((e0 + i) / 128 - blk) 0).toNat else 127
      let out := (List.range cnt).flatMap fun i =>
        leBytes db (decodeInto df (sf.decodeScaled (leNat bs / 2 ^ ((e0 + i) * sf.width - 8 * b0) % 2 ^ sf.width) (scaleOf i)))
      let bad := ((List.range blks).filter fun i => sc.getD i 0 == 0xFF#8 && decide (e0 ≤ 128 * (blk + i))).length
      .ok (s.countEngine c 0x21 bad)
        { cells := cellsOf (dstAt p r + o) out, progress := progress + cnt * db, from_ := [(srcAt p r + b0, n), (scaleAt p r blk, blks)] }

/-- What the next unit of a payload makes, by its class. -/
def State.make (s : State) (c : EngineCtx) (p : Packet) (progress : Nat) : EngineRes Made :=
  match pktClass p with
  | 1 | 4 => s.makeCopy c p progress
  | 2 => s.makeQuant c p progress
  | 3 => s.makeDecode c p progress
  | _ => .ok s (makeFill p progress)

/-! Destination lines (R108). -/

/-- dst op src of a reduce-copy (R147): op 0 add, 1 min, 2 max; and whether the result is counted (R57). -/
def reduceElem (f : Fmt) (op : Nat) (sat : Bool) (d x : Nat) : Nat × Bool :=
  match f.float with
  | some ff =>
    let v := if op = 0 then (FVal.add false (ff.decode d) (ff.decode x)).1 else (FVal.minMax (op == 2) (ff.decode d) (ff.decode x)).1
    let (b, fl) := ff.encode .rne v
    (b, ff.counted v fl)
  | none =>
    let a := sextN d f.width
    let b := sextN x f.width
    let (lo, hi) := f.intRange.getD (0, 0)
    let v := match op with
      | 0 => if sat then max lo (min hi (a + b)) else a + b
      | 1 => min a b
      | _ => max a b
    (truncZ v f.width, op == 0 && sat && v != a + b)

/-- The bytes of a line, the last one named for each address standing (R141). -/
def lastCells (line : Nat) (cells : List Host.Cell) : List Host.Cell :=
  (List.range 64).filterMap fun i => cells.reverse.find? (·.1 == line + i)

/-- The elements of a line of a reduce-copy, each combined with every source element named for it, row by row, and how many are counted
(R113, R147). -/
def reduceCells (p : Packet) (line : Nat) (old : List Byte) (cells : List Host.Cell) : List Host.Cell × Nat :=
  let f := (pktFormats p).1
  let w := f.width / 8
  (List.range (64 / w)).foldl (fun acc e =>
    let a := line + w * e
    let part := fun (b j : Nat) => (((cells.filter (·.1 == a + b))[j]?).map fun (c : Host.Cell) => c.2).getD 0
    let n := (cells.filter (·.1 == a)).length
    let r := (List.range n).foldl (fun (r : Nat × Nat) j =>
      let (v, counted) := reduceElem f (pktOpb p % 4) (pktOpb p / 128 == 1) r.1 (leNat ((List.range w).map fun b => part b j))
      (v, if counted then r.2 + 1 else r.2)) (leNat ((old.drop (w * e)).take w), 0)
    if n = 0 then acc else (acc.1 ++ cellsOf a (leBytes w r.1), acc.2 + r.2)) ([], 0)

/-- What one write of a destination line writes, from the line's bytes before it. -/
def State.lineCells (s : State) (c : EngineCtx) (p : Packet) (line : Nat) (old : List Byte) (cells : List Host.Cell) :
    State × List Host.Cell :=
  if pktClass p = 4 then
    let (cells, n) := reduceCells p line old cells
    (s.countEngine c 0x20 n, cells)
  else (s, lastCells line cells)

/-- The bytes that a write overwrites in the packet's own source are kept as they were (R144). -/
def State.keepOver (s : State) (c : EngineCtx) (p : Packet) (line : Nat) (old : List Byte) (cells : List Host.Cell) : State :=
  if pktClass p = 5 || srcScratch p != dstScratch p then s
  else
    let mine := cells.filter fun x => inRows p (pktSrc p) (pktSpitch p) (srcRowBytes p) x.1
    if mine.isEmpty then s
    else s.updOwn c fun w => { w with before := mine.map (fun x => (x.1, old.getD (x.1 - line) 0)) ++ w.before }

/-- A destination line written in memory: one write of the bytes named in it, which a reduce-copy reads in the same step; of an alias page
by merge and re-encode (R98, R108, R380). -/
def State.flushLine (s : State) (c : EngineCtx) (p : Packet) (line : Nat) (cells : List Host.Cell) : EngineRes Unit :=
  (s.engineReach c (toWord ((cells.head?.map (·.1)).getD line)) .store).bind fun s x =>
    let pa := lineOf x.pa
    let shift := fun (cs : List Host.Cell) => cs.map fun y => (pa + (y.1 - line), y.2)
    if x.kind = 4 then
      if s.blockBusy pa then .held s
      else match (if pktClass p = 4 then s.readError x else none), s.aliasAt pa with
        | some bad, _ => s.sourceError c bad
        | none, none => .denied s
        | none, some (w, k) =>
          let old := (List.range 64).map fun i => s.aliasRead (pa + i)
          let (s, new) := s.lineCells c p line old cells
          match s.aliasStore none c.pasid w k (shift new) with
          | .ok s => .ok (s.keepOver c p line old new) ()
          | .refused s _ _ => .denied s
    else if s.lineBusy pa then .held s
    else if pktClass p = 4 && s.badLines.contains pa then s.sourceError c pa
    else match s.logLine pa with
      | .refused s _ _ => .denied s
      | .ok s =>
        let old := s.mem.read pa 64
        let (s, new) := s.lineCells c p line old cells
        .ok (((s.storeLine none (c.die.map fun d => ⟨d, c.pasid⟩) (new.length == 64) (shift new)).spoil c.pasid line).keepOver c p line
          old new) ()

/-- A destination block written in the splice's scratchpad. -/
def State.flushBlock (s : State) (c : EngineCtx) (p : Packet) (line : Nat) (cells : List Host.Cell) : EngineRes Unit :=
  if s.rowHeld c.launch c.splice c.seq true [line / 256] then .held s
  else match s.splice? c.launch c.splice with
    | none => .denied s
    | some sp =>
      let old := sp.scratch.read line 64
      if pktClass p = 4 && sp.badBlocks.contains (line / 64) then (s.engineLoadBlock c line).bind fun s _ => .denied s
      else
        let (s, new) := s.lineCells c p line old cells
        .ok ((s.storeScratch c.launch c.splice none (new.length == 64) new).keepOver c p line old new) ()

/-- The PA lines that a packet's source names by base, pitch and row count, as far as they translate (R91). -/
def State.tileLines (s : State) (c : EngineCtx) (p : Packet) : List Nat :=
  if srcScratch p || pktClass p = 5 then []
  else (List.range (pktRows p)).flatMap fun r => (lineSpans (srcAt p r) (srcRowBytes p)).filterMap fun sp =>
    match s.engineAccess c.pasid (toWord sp.1) .load c.die with
    | .ok (_, x) => some (lineOf x.pa)
    | .error _ => none

/-- A core command's read comes to its die's L2 as a tile read, once (R91). -/
def State.askTile (s : State) (c : EngineCtx) (p : Packet) : State :=
  match c.core with
  | none => s
  | some core =>
    if (s.coreCmd? core c.slot).all (·.asked) || vget s.io.l2mrg (dieOf core) 0 == 0 then s
    else (s.tileRead core c.pasid (s.tileLines c p)).updCoreCmd c.slot fun k => { k with asked := true }

/-- The first line made whose every byte is made (R108). -/
def readyLine (p : Packet) (w : PacketWork) : Option Nat :=
  (w.out.find? fun x => !namedLater p w.progress (lineOf x.1)).map fun x => lineOf x.1

/-- The payload is complete: all is made and written. -/
def PacketWork.whole (w : PacketWork) : Bool := decide (pktTotal w.words ≤ w.progress) && w.out.isEmpty

/-- One unit of a payload: a destination line that is ready is written, or else the next bytes are made. -/
def State.payloadUnit (s : State) (c : EngineCtx) (w : PacketWork) : EngineRes Unit :=
  let p := w.words
  match readyLine p w with
  | some line =>
    let cells := w.out.filter fun x => lineOf x.1 == line
    (if dstScratch p then s.flushBlock c p line cells else s.flushLine c p line cells).bind fun s () =>
      .ok (s.updOwn c fun w => { w with out := w.out.filter fun x => lineOf x.1 != line }) ()
  | none => (s.make c p w.progress).bind fun s m =>
    let lines := m.from_.flatMap fun r => (lineSpans r.1 r.2).map fun sp => lineOf sp.1
    .ok (s.updOwn c fun w =>
      { w with progress := m.progress, out := w.out ++ m.cells, staged := w.staged.filter fun x => lines.contains x.1 }) ()

/-- Up to n units; the payload stops at the first that does not complete. -/
def payload (c : EngineCtx) : Nat → State → EngineRes Unit
  | 0, s => .ok s ()
  | n + 1, s => match s.workOf c with
    | none => .ok s ()
    | some w => if w.whole then .ok s () else (s.payloadUnit c w).bind fun s () => payload c n s

end Sys2Proof.Machine
end

