-- ==== Sys2Proof/Machine/Queues.lean ====
section
/-! DEFINITION. Queues: the engines' consumption and completion (R135 to R143, R149, R381, R382), CPY and PKT (R150, R151),
the queue pool (R226, R227), and WARM, WWAIT and WSTAMP with their watches (R152, R283, R285). -/

namespace Sys2Proof.Machine

/-! The engine's work. -/

/-- A translation fault of an engine: a class-1 record, and the packet parks (R149). -/
def State.parkWork (s : State) (c : EngineCtx) (va : Word) (reason acc : Nat) : State :=
  (s.addRecord { addr := va, src := c.src, pasid := c.pasid, reason := reason, acc := acc, skind := c.kind, cls := 1 } c.target).updOwn c
    fun w => { w with parked := true }

/-- A memory queue in error takes no further packet. -/
def State.engineStopped (s : State) (e : EngineRef) : Bool :=
  match e with
  | .core _ => false
  | .queue pasid hdr => ((s.queue? pasid hdr).map (·.err)).getD true

/-- The rows that a core command still needs stay locked; the streams that wait for the others try again (R109). -/
def State.relock (s : State) (c : EngineCtx) : State :=
  match c.eng, s.workOf c with
  | .core _, some w => (s.lockCopy c.launch c.splice c.seq w.words w.progress w.out).wakeHeld
  | _, _ => s

/-- The payload of a packet ends in a failed access (R149): its locks go, and it is rejected with reason 8 at its turn. -/
def State.failWork (s : State) (c : EngineCtx) : State :=
  let s := match c.eng with
    | .core _ => { s with locks := s.locks.filter (·.seq != c.seq) }.wakeHeld
    | .queue _ _ => s
  s.updOwn c fun w => { w with rejected := some 8, parked := false, out := [], staged := [] }

/-- The die whose engine has work is awake (R369). -/
def State.wakeFor (s : State) (die : Option Nat) : State := match die with
  | some d => s.wakeDie d
  | none => s

/-- Up to n units of a packet of a class (R143, R144). The packet's reads follow every write of the engine's earlier packets; while one of
those is parked, on its stamp too, the engine is (R149, R381). -/
def State.workPacket (s : State) (cls : Nat) (e : EngineRef) (slot n : Nat) : State :=
  match s.worksTo e slot with
  | (_, none) => s
  | (earlier, some w) =>
    if pktClass w.words != cls || w.done || w.parked || w.rejected.isSome || s.engineStopped e ||
        earlier.any (fun b => !b.done || b.rejected.isSome || b.parked) then s
    else
      let c := s.engineCtx e slot
      match payload c n ((s.wakeFor c.die).askTile c w.words) with
      | .ok s () => (s.updOwn c fun w => { w with done := w.whole }).relock c
      | .held s => s.relock c
      | .fault s v r k => (s.relock c).parkWork c v r k
      | .denied s => s.failWork c
      | .bad s _ => s.failWork c

/-- COPY_PACKET (R144). -/
def execCopyPacket (e : EngineRef) (slot n : Nat) (s : State) : Out := .next (s.workPacket 1 e slot n)
/-- COPY_QUANTIZE_PACKET (R145). -/
def execCopyQuantizePacket (e : EngineRef) (slot n : Nat) (s : State) : Out := .next (s.workPacket 2 e slot n)
/-- COPY_DECODE_PACKET (R146). -/
def execCopyDecodePacket (e : EngineRef) (slot n : Nat) (s : State) : Out := .next (s.workPacket 3 e slot n)
/-- REDUCE_COPY_PACKET (R147). -/
def execReduceCopyPacket (e : EngineRef) (slot n : Nat) (s : State) : Out := .next (s.workPacket 4 e slot n)
/-- FILL_PACKET (R148). -/
def execFillPacket (e : EngineRef) (slot n : Nat) (s : State) : Out := .next (s.workPacket 5 e slot n)

/-! Stamps (R110, R381). -/

/-- An engine's 8-byte write of a stamp: only to coherent-device or host-coherent memory. -/
def State.stampWrite (s : State) (die : Option Nat) (pasid : Nat) (va val : Word) : EngineRes Unit :=
  if va.toNat % 8 != 0 then .denied s else s.engineWriteLine die pasid (cellsOf va.toNat (wordBytes val))

/-- The report of a stamp that is not written (R381). -/
def State.stampLost (s : State) (src : Word) (kind : EngineKind) (pasid : Nat) (va : Word) : State :=
  (s.addRecord { addr := va, src := src, pasid := pasid, reason := 5, acc := 1, skind := kind, cls := 4 } .nothing).interrupt
    (s.vectorOf pasid) (.stampLost pasid)

/-- The error stamp (R142). -/
def errorStamp : Word := 0xFFFF_FFFF_FFFF_FFFF#64

/-- RIDX of a queue (R136). -/
def ridxOf (err : Bool) (idx : Nat) : Word := toWord (idx % 2 ^ 63 + (if err then 2 ^ 63 else 0))

/-- The VA of a queue's RIDX (R136). -/
def MemQueue.ridxVa (q : MemQueue) : Word := toWord q.hdr + 8#64

/-- The VA of a queue's slot (R136). -/
def MemQueue.slotVa (q : MemQueue) (i : Nat) : Word := toWord (q.hdr + 64 + 64 * (i % 2 ^ q.log))

/-- A write by a queue's engine to its header or slots (R382). -/
def State.queueWrite (s : State) (q : MemQueue) (va : Word) (bytes : List Byte) : EngineRes Unit :=
  s.engineWriteLine q.engine.die q.pasid (cellsOf va.toNat bytes)

/-- The queue is in error at a slot. What has begun of later slots stays as far as it has come (R113). -/
def State.queueStops (s : State) (pasid hdr slot : Nat) : State :=
  s.updQueue pasid hdr fun q => { q with err := true, badSlot := some slot }

/-- The record of a write to the queue's own header or slots that is refused (R382). -/
def State.queueDenied (s : State) (q : MemQueue) (slot : Nat) (va : Word) : State :=
  s.addRecord { addr := va, src := toWord slot, pasid := q.pasid, reason := 5, acc := 1, skind := q.engine.kind, cls := 4 } .nothing

/-- A refused write of a queue's engine to its own header or slots: class-4 record, queue in error, RIDX in memory as it was
(R382). -/
def State.queueRefused (s : State) (q : MemQueue) (slot : Nat) (va : Word) : State :=
  (s.queueDenied q slot va).queueStops q.pasid q.hdr slot

/-- What a guest's own reject code is raised by where a packet's reason keeps it: it is no reason of R151 (R352). -/
def guestReason : Nat := 256

/-- The queue is in error at a packet, ERR stored or refused: of a rejected packet a class-2 record, and the host interrupted (R142). -/
def State.stopAt (s : State) (q : MemQueue) (w : PacketWork) : State :=
  let s := match w.rejected with
    | none => s
    | some reason =>
      (s.addRecord
        { addr := toWord q.hdr, src := toWord w.slot, pasid := q.pasid, reason := reason % guestReason, acc := 0, skind := q.engine.kind
          cls := if guestReason ≤ reason then 6 else 2 } .nothing).interrupt (s.vectorOf q.pasid) (.reject q.pasid)
  s.queueStops q.pasid q.hdr w.slot

/-- A packet that is rejected, or whose stamp is lost, at its turn (R142, R381, R382): ERR is stored, with IDX at the slot. -/
def State.rejectSlot (s : State) (q : MemQueue) (w : PacketWork) : State :=
  match s.queueWrite q q.ridxVa (wordBytes (ridxOf true q.idx)) with
  | .ok s () => s.stopAt q w
  | .held s => s
  | .fault s v r k => s.parkWork (s.engineCtx (.queue q.pasid q.hdr) w.slot) v r k
  | .denied s => (s.queueDenied q w.slot q.ridxVa).stopAt q w
  | .bad s _ => (s.queueDenied q w.slot q.ridxVa).stopAt q w

/-- The slot's valid byte cleared and IDX stored (R143 step 5). A write that is refused, for whatever reason, is reported as R382 says (log
62). -/
def State.retireSlot (s : State) (q : MemQueue) (slot : Nat) : State :=
  let c := s.engineCtx (.queue q.pasid q.hdr) slot
  let clear := q.slotVa slot + 1#64
  match s.queueWrite q clear [0] with
  | .held s => s
  | .fault s v r k => s.parkWork c v r k
  | .denied s => s.queueRefused q slot clear
  | .bad s _ => s.queueRefused q slot clear
  | .ok s () => match s.queueWrite q q.ridxVa (wordBytes (ridxOf false (slot + 1))) with
    | .held s => s
    | .fault s v r k => s.parkWork c v r k
    | .denied s => s.queueRefused q slot q.ridxVa
    | .bad s _ => s.queueRefused q slot q.ridxVa
    | .ok s () =>
      (s.updQueue q.pasid q.hdr fun q => { q with idx := slot + 1, begun := q.begun.filter (·.slot != slot) }).wake
        fun t => t.wait == Wait.memSlot q.hdrPa && s.pasidOf t.launch == q.pasid

/-- A packet whose stamp is written, lost or not enabled: it retires, or the queue enters error. -/
def State.afterStamp (s : State) (q : MemQueue) (w : PacketWork) : State :=
  let s := s.updQueue q.pasid q.hdr fun q => q.updWork w.slot fun _ => w
  if w.rejected.isSome || w.lost then s.rejectSlot q w else s.retireSlot q w.slot

/-- A packet as it stands at its turn: a rejected launch packet whose error stamp would go to a SADR out of bounds ends in a capability
fault, and has no stamp (R344; log 28). -/
def MemQueue.atTurn (q : MemQueue) (w : PacketWork) : PacketWork :=
  let p := w.words
  if q.engine == QueueEngine.launch && w.rejected.isSome && pktFlags p % 2 == 1 && (pktSadr p).toNat % 8 == 0 && !canonical (pktSadr p) then
    { w with rejected := some 14 }
  else w

/-- The oldest packet of a memory queue completes, or is rejected, in slot order (R142, R143, R149, R381). -/
def State.completeSlot (s : State) (q : MemQueue) (slot : Nat) : State :=
  match q.begun with
  | [] => s
  | w :: _ =>
    if w.slot != slot || w.parked || q.err || (!w.done && w.rejected.isNone) then s
    else if w.stamped then s.afterStamp q w
    else
      let w := q.atTurn w
      let p := w.words
      let w' := { w with stamped := true }
      let lost := fun (s : State) =>
        (s.stampLost (toWord slot) q.engine.kind q.pasid (pktSadr p)).afterStamp q { w' with lost := w.rejected.isNone && q.engine != QueueEngine.launch }
      let written := fun (s : State) =>
        (if w.rejected.isNone && pktFlags p / 2 % 2 == 1 then s.interrupt (s.vectorOf q.pasid) (.packet q.pasid q.hdr slot)
          else s).afterStamp q w'
      if pktFlags p % 2 == 1 && ((pktSadr p).toNat % 8 == 0 || w.rejected.isNone) &&
          !(w.rejected == some 14 && q.engine == QueueEngine.launch) then
        match s.stampWrite q.engine.die q.pasid (pktSadr p) (if w.rejected.isSome then errorStamp else pktSval p) with
        | .held s => s
        | .fault s v r k => s.parkWork (s.engineCtx (.queue q.pasid q.hdr) slot) v r k
        | .denied s => lost s
        | .bad s _ => lost s
        | .ok s () => written s
      else written s

/-- The error stamp that a fence gives a slot (R359): one whose SADR does not translate parks, one that is refused is lost (R381). -/
def State.fenceStamp (s : State) (q : MemQueue) (w : PacketWork) : State :=
  let given := fun (s : State) => s.updWork (.queue q.pasid q.hdr) w.slot fun w => { w with stamped := true }
  let lost := fun (s : State) => given (s.stampLost (toWord w.slot) q.engine.kind q.pasid (pktSadr w.words))
  match s.stampWrite q.engine.die q.pasid (pktSadr w.words) errorStamp with
  | .ok s () => given s
  | .held s => s
  | .fault s v r k => s.parkWork (s.engineCtx (.queue q.pasid q.hdr) w.slot) v r k
  | .denied s => lost s
  | .bad s _ => lost s

/-- A slot of a queue in error to which a fence owes its error stamp, not parked on it (R359, R381). -/
def PacketWork.fenced (w : PacketWork) : Bool := w.done && w.rejected.isSome && !w.stamped && !w.parked

/-- What a queue in error still owes: the error stamps of a fence, slot by slot, then ERR in its header (R359, R382). -/
def State.storeErr (s : State) (q : MemQueue) : State :=
  let paid := fun (s : State) => s.updQueue q.pasid q.hdr fun q => { q with errDue := false }
  match q.begun.find? PacketWork.fenced with
  | some w => s.fenceStamp q w
  | none => if !q.errDue then s else match s.queueWrite q q.ridxVa (wordBytes (ridxOf true q.idx)) with
    | .ok s () => paid s
    | .held s => s
    | .fault s _ _ _ => paid (s.queueDenied q q.idx q.ridxVa)
    | .denied s => paid (s.queueDenied q q.idx q.ridxVa)
    | .bad s _ => paid (s.queueDenied q q.idx q.ridxVa)

/-- A core command leaves its queue: its locks go and its pool entry is free. -/
def State.endCoreCmd (s : State) (seq : Nat) : State :=
  { s with coreCmds := s.coreCmds.filter (·.seq != seq), locks := s.locks.filter (·.seq != seq) }.wakeHeld

/-- The end of a core command: a rejected one posts a class-2 record (R149). The splice of an aborted launch goes with its last command
(R322). -/
def State.closeCoreCmd (s : State) (c : CoreCmd) : State :=
  let s := match c.work.rejected with
    | some r =>
      (s.addRecord
        { addr := 0, src := gangSrc c.launch c.gang, pasid := c.pasid, reason := r, acc := 0, skind := .coreCopy, cls := 2 } .nothing).interrupt
        (s.vectorOf c.pasid) (.reject c.pasid)
    | none => if pktFlags c.work.words / 2 % 2 == 1 then s.interrupt (s.vectorOf c.pasid) (.packet c.pasid 0 c.seq) else s
  let s := s.endCoreCmd c.seq
  if (s.launch? c.launch).all (·.aborting) then s.reapLaunch c.launch else s

/-- The oldest command of a core queue completes, or ends after a failed access (R143, R149, R381). -/
def State.completeCore (s : State) (core seq : Nat) : State :=
  match s.coreCmds.find? (·.core == core) with
  | none => s
  | some c =>
    let w := c.work
    let p := w.words
    if c.seq != seq || w.parked || (!w.done && w.rejected.isNone) then s
    else if pktFlags p % 2 == 1 && !w.stamped then
      let lost := fun (s : State) => (s.stampLost (gangSrc c.launch c.gang) .coreCopy c.pasid (pktSadr p)).closeCoreCmd c
      match s.stampWrite (some (dieOf core)) c.pasid (pktSadr p) (if w.rejected.isSome then errorStamp else pktSval p) with
      | .held s => s
      | .fault s v r k => s.parkWork (s.engineCtx (.core core) seq) v r k
      | .denied s => lost s
      | .bad s _ => lost s
      | .ok s () => s.closeCoreCmd c
    else s.closeCoreCmd c

/-- PACKET_COMPLETE (R143): of a guest's queue, once the guest has ended the packet (R352), and not while the guest's work for the PASID is
pre-empted (R357); a launch queue's packets end with their launches. -/
def execPacketComplete (e : EngineRef) (slot : Nat) (s : State) : Out :=
  match e with
  | .core c => .next (s.completeCore c slot)
  | .queue pasid hdr => match s.queue? pasid hdr with
    | some q =>
      .next (if q.err && (q.errDue || q.begun.any PacketWork.fenced) then s.storeErr q
        else if q.engine == QueueEngine.guest && s.guest.paused.contains pasid then s
        else s.completeSlot q slot)
    | none => .next s

/-- A class is admitted by CMASK (R137). -/
def admits (cmask cls : Nat) : Bool :=
  if 1 ≤ cls && cls ≤ 5 then cmask / 2 ^ (cls - 1) % 2 == 1
  else if cls = 0x10 then cmask / 2 ^ 16 % 2 == 1
  else if 0x40 ≤ cls && cls ≤ 0x7F then cmask / 2 ^ 31 % 2 == 1
  else false

/-- The engine reads its next slot once the doorbell covers it and its valid bit is set, and checks it (R142, R143). -/
def State.fetchSlot (s : State) (q : MemQueue) : State :=
  let i := q.next
  let d := (q.db - toWord i).toNat
  if q.err || !q.bound || d = 0 || 2 ^ 31 < d || 8 ≤ q.begun.length || q.begun.any (fun w => w.rejected.isSome || w.parked) then s
  else
    let c := s.engineCtx (.queue q.pasid q.hdr) i
    let s := s.wakeFor c.die
    let add := fun (s : State) (w : PacketWork) => s.updQueue q.pasid q.hdr fun q => { q with next := i + 1, begun := q.begun ++ [w] }
    let fresh := { PacketWork.fresh i (Vector.replicate 8 0) with done := false }
    match s.engineLoadLine c (q.slotVa i) with
    | .held s => s
    | .fault s v r k => (add s fresh).parkWork c v r k
    | .denied s => add s { fresh with rejected := some 8 }
    | .bad s _ => add s { fresh with rejected := some 8 }
    | .ok s bs =>
      let p := packetOf bs
      if pktFlags p / 128 = 0 then s
      else
        let reason :=
          if !admits q.cmask (pktClass p) then some 2
          else match q.engine with
            | .bulk _ _ => copyReason false p
            | _ => none
        let w := PacketWork.fresh i p
        add s { w with rejected := reason, done := reason.isNone && (q.engine matches .bulk _ _) && w.done }

/-- QUEUE_SLOT_FETCH (R143). The guest reads its slots itself (R352). -/
def execQueueSlotFetch (pasid hdr : Nat) (s : State) : Out :=
  match s.queue? pasid hdr with
  | some q => if q.engine = .guest then .next s else .next (s.fetchSlot q)
  | none => .next s

/-- The doorbell offset that a store reaches through a function's BAR2, if it lies in it: the physical function's 1 GiB, or a virtual
function's 64 MiB (R340). -/
def doorbellPlace (a : DoorbellOffset) : Option Nat :=
  match a.vf with
  | none => if a.off < 2 ^ 30 then some a.off else none
  | some v => if v < 16 && a.off < 2 ^ 26 then some (2 ^ 26 * v + a.off) else none

/-- The PASID of a store that carries no PASID prefix: the function's default PASID (R340). -/
def doorbellPasid (a : DoorbellOffset) : Nat := Config.defaultPasid ((a.vf.map (· + 1)).getD 0) % 2 ^ 20

/-- DOORBELL_STORE (R139, R340): a store of the host to a doorbell, under its PASID prefix or the function's default PASID; under a PASID
without a valid context it is ignored and counted (R378). One outside the function's BAR2 does not reach the device. -/
def execDoorbellStore (a : DoorbellOffset) (width : Nat) (named : Option Nat) (v : Word) (s : State) : Out :=
  let pasid := named.getD (doorbellPasid a)
  match doorbellPlace a with
  | none => .next s
  | some off => if (s.context pasid).valid then .next (s.doorbellWrite off width pasid v) else .next (s.countHub pasid)

/-! CPY and PKT (R150, R151). -/

/-- A queue fault (R151). -/
def queueTrap (reason : Nat) (va : Word) (k : Nat) : Res := .trap 0x0C (toWord (reason * 2 ^ 58 + va.toNat % 2 ^ 55)) [k]

/-- The registers that a submission read at its issue, which it keeps while it waits (R150): A and the packet image. -/
def State.operandsOf (s : State) (p : Part) (tick : Nat) (f : KFields) : List Word :=
  match (s.stream? p.sid).map (·.operands) with
  | some (x :: xs) => x :: xs
  | _ =>
    let v := s.gangV p.launch p.gang p.sid tick f.b.toNat
    s.partS p tick f.a :: (List.range 8).map (lane v)

/-- A submission waits, keeping its operands. -/
def State.keepOperands (s : State) (sid : Nat) (ops : List Word) : State := s.updStream sid fun t => { t with operands := ops }

/-- A submission is done: the part's claim, grant and operands are used up. -/
def State.submitted (s : State) (p : Part) (who : Who) (d : BitVec 6) (v : Word) : Res :=
  .done ((s.updStream p.sid fun t => { t with claim := none, grant := none, operands := [] }).setS p who true d v)

/-- A submission to the core queue (R150). -/
def coreSubmit (d : BitVec 6) (pkt : Packet) (ops : List Word) (p : Part) (who : Who) (s : State) : Res :=
  match s.coreOf p.launch p.gang with
  | none => .done s
  | some core =>
    let sp := s.spliceOf p.launch p.gang
    let size := ((s.splice? p.launch sp).map (·.size)).getD 0
    if !(1 ≤ pktClass pkt && pktClass pkt ≤ 5) then queueTrap 2 0 p.gang
    else match copyReason true pkt with
      | some r => queueTrap r 0 p.gang
      | none => match scratchRangeBad size pkt with
        | some (a, w) => .trap 0x0A (memInfo 0 (if w then 1 else 0) true false a.toNat) [p.gang]
        | none =>
          if !s.poolGrant p.sid core .copy then .again (s.keepOperands p.sid ops) (.pool .copy who.tick)
          else
            let seq := s.seq
            let cmd : CoreCmd :=
              { seq := seq, asked := false, core := core, launch := p.launch, gang := p.gang, splice := sp, pasid := s.pasidOf p.launch
                work := PacketWork.fresh seq pkt }
            let s := { s with coreCmds := s.coreCmds ++ [cmd], seq := seq + 1 }.lockCopy p.launch sp seq pkt 0 []
            s.submitted p who d 0

/-- The header checks of R151 at a header's PA: the reason that applies first (log 50). -/
def State.headerReason (s : State) (pasid cls pa : Nat) : Option Nat :=
  let log := s.mem.nat (pa + 16) 4
  let cmask := s.mem.nat (pa + 20) 4
  let db := s.mem.nat (pa + 24) 8
  if log < 1 || 20 < log || cmask = 0 || cmask &&& 0x7FFEFFE0 != 0 || s.mem.nat (pa + 32) 32 != 0 then some 1
  else if !admits cmask cls then some 2
  else if (s.mem.word (pa + 8)).getLsbD 63 then some 3
  else if !(s.queues.any fun q => q.bound && q.dboff == db && q.hdrPa == pa && q.pasid == pasid) then some 4
  else if (s.mem.word pa).getLsbD 63 then some 7
  else none

/-- Who takes a line for a part: its core's die, under its PASID. -/
def State.fillerOf (s : State) (p : Part) : Option Filler :=
  (s.coreOf p.launch p.gang).map fun c => { die := dieOf c, pasid := s.pasidOf p.launch }

/-- WIDX of a header advanced past a claim, at its visibility point (R150). -/
def State.claimSlot (s : State) (p : Part) (pa i : Nat) : Logged :=
  match s.logLine pa with
  | .ok s =>
    .ok (s.storeLine (some (p.launch, p.gang, p.sid)) (s.fillerOf p) false
      (cellsOf pa (wordBytes (toWord (i + 1)))))
  | r => r

/-- A claimed slot stored once it is free, in one write, and the doorbell kicked (R138, R150). -/
def State.fillSlot (s : State) (d : BitVec 6) (pkt : Packet) (ops : List Word) (p : Part) (who : Who) (pa slotPa i : Nat) : Res :=
  if bits (s.mem.word (pa + 8)) 62 0 + 2 ^ s.mem.nat (pa + 16) 4 ≤ i then
    .again ((s.keepOperands p.sid ops).updStream p.sid fun t => { t with claim := some i }) (.memSlot pa)
  else match s.logLine slotPa with
    | .refused s n va => .raise s 0x0D (logInfo 0 1 false va n) [p.gang]
    | .ok s =>
      let s := s.storeLine (some (p.launch, p.gang, p.sid)) (s.fillerOf p) true (cellsOf slotPa (packetBytes pkt))
      let s := s.doorbellWrite (s.mem.nat (pa + 24) 8) 8 (s.pasidOf p.launch) (toWord (i + 1))
      s.submitted p who d (toWord i)

/-- A submission to a memory queue (R150): the header is checked and a slot claimed, then the slot is waited for, stored and kicked.
Nothing is claimed when a check fails (R151); a full region refuses the claim or the slot (log 50). -/
def queueSubmit (d : BitVec 6) (pkt : Packet) (h : Word) (ops : List Word) (p : Part) (who : Who) (s : State) : Res :=
  let pasid := s.pasidOf p.launch
  let core := s.coreOf p.launch p.gang
  let claim := (s.stream? p.sid).bind (·.claim)
  match s.handleAccess core pasid h 64 with
  | .error e => e.res (s.keepOperands p.sid ops) 2 h p.gang
  | .ok (s, pa) =>
    if s.lineBusy pa then .again (s.keepOperands p.sid ops) .line
    else match (if claim.isNone then s.headerReason pasid (pktClass pkt) pa else none) with
      | some r => queueTrap r h p.gang
      | none =>
        let i := claim.getD (s.mem.word pa).toNat
        let slot := h + toWord (64 + 64 * (i % 2 ^ s.mem.nat (pa + 16) 4))
        match s.handleAccess core pasid slot 64 with
        | .error e => e.res (s.keepOperands p.sid ops) 1 slot p.gang
        | .ok (s, slotPa) =>
          if s.lineBusy slotPa then .again (s.keepOperands p.sid ops) .line
          else match (if claim.isSome then .ok s else s.claimSlot p pa i) with
            | .refused s n va => .raise s 0x0D (logInfo 0 2 false va n) [p.gang]
            | .ok s => s.fillSlot d pkt ops p who pa slotPa i

/-- CPY and PKT in one part (R150): the class is SUB + 1, or the image's. -/
def submitOp (cls : Option Nat) (f : KFields) (s : State) : Out :=
  s.issue (irrevocableWord f.h) fun t who s => s.withRegs t [f.b.toNat] <|
    onParts (irrevocableWord f.h) (fun p who s =>
      let ops := s.operandsOf p who.tick f
      let w0 := ops.getD 1 0 ||| 0x8000#64
      let w0 := match cls with
        | some c => (w0 &&& ~~~0xFF#64) ||| toWord c
        | none => w0
      let pkt : Packet := vtab 8 fun i => if i = 0 then w0 else ops.getD (i + 1) 0
      let h := ops.headD 0
      if h = 0 then coreSubmit f.d pkt ops p who s else queueSubmit f.d pkt h ops p who s) t who s

/-- CPY.COPY (R150). -/
def execCpyCopy (f : KFields) (s : State) : Out := submitOp (some 1) f s
/-- CPY.QUANT (R150). -/
def execCpyQuant (f : KFields) (s : State) : Out := submitOp (some 2) f s
/-- CPY.DEC (R150). -/
def execCpyDec (f : KFields) (s : State) : Out := submitOp (some 3) f s
/-- CPY.RED (R150). -/
def execCpyRed (f : KFields) (s : State) : Out := submitOp (some 4) f s
/-- CPY.FILL (R150). -/
def execCpyFill (f : KFields) (s : State) : Out := submitOp (some 5) f s
/-- PKT (R150). -/
def execPkt (f : KFields) (s : State) : Out := submitOp none f s

/-! WATCH (R152). -/

/-- The watched word's PA after the checks of R152. -/
def State.watchAccess (s : State) (core : Option Nat) (pasid : Nat) (a : Word) : Except HandleFail (State × Nat) :=
  if a.toNat % 8 != 0 then .error .misaligned
  else if !canonical a then .error .denied
  else match s.translate core pasid (vaOf a) .load with
    | .error (.fault r) => .error (.fault r)
    | .error .wait => .error .wait
    | .error _ => .error .denied
    | .ok x =>
      if x.kind < 2 then .ok ((s.markLeaf x .load).touchTlb core pasid (vaOf a) .load, x.pa) else .error .denied

/-- A WATCH word after its checks. -/
def watchWord (f : KFields) (eff : Part → Who → Word → Nat → State → Res) (s : State) : Out :=
  s.issueParts (irrevocableWord f.h) fun p who s =>
    let a := s.partS p who.tick f.a
    match s.watchAccess (s.coreOf p.launch p.gang) (s.pasidOf p.launch) a with
    | .error .wait => .miss s [(a, .load, p.gang)]
    | .error e => e.res s 0 a p.gang
    | .ok (s, pa) => eff p who a pa s

/-- WARM (R152): the condition replaces any that is armed; nothing is tested. -/
def execWarm (f : KFields) (s : State) : Out :=
  watchWord f (fun p who a _ s =>
    .done (s.updGang p.launch p.gang fun g => { g with armed := some (a, s.partS p who.tick f.b) })) s

/-- The condition of WWAIT or WSTAMP on an observed value. -/
def watchHolds (ge : Bool) (x v : Word) : Bool := if ge then decide (v.toNat ≤ x.toNat) else x != v

/-- The number by which the observation of a part of a stream is kept. -/
def watchKey (slots : List Nat) : Nat := 4 * slots.headD 0

/-- WWAIT and WSTAMP (R152): complete at once, complete with the value that released the wait, or wait. -/
def waitOp (ge : Bool) (f : KFields) : State → Out :=
  watchWord f fun p who _ pa s =>
    let v := s.partS p who.tick f.b
    match (s.stream? p.sid).bind fun t => (t.answers.find? (·.1 == watchKey p.slots)).bind (·.2) with
    | some b => .done (s.setS p who true f.d (bytesWord b))
    | none =>
      if s.guest.owned.contains (lineOf pa) then .again s .line
      else
        let x := s.mem.word pa
        if watchHolds ge x v then .done (s.setS p who true f.d x)
        else .again (s.enterWatch (s.coreOf p.launch p.gang) (s.pasidOf p.launch) p.sid (.watch ge pa v)) (.watch ge pa v)

/-- WWAIT (R152). -/
def execWwait (f : KFields) (s : State) : Out := waitOp false f s
/-- WSTAMP (R152). -/
def execWstamp (f : KFields) (s : State) : Out := waitOp true f s

/-- The part of a stream whose turn it is. -/
def Stream.partNow (t : Stream) : List Nat := ((t.homes.find? fun k => !t.past k).map t.slotsOf).getD []

/-- A watched word has been loaded again and its condition does not hold: the line is kept in the die's L2 (R285). -/
def State.watchOn (s : State) (t : Stream) (pa : Nat) : State :=
  (match t.watchDie with
    | some d => s.readL2 d (s.pasidOf t.launch) (lineOf pa)
    | none => s).updStream t.sid fun t => { t with due := false }

/-- A watched word is loaded again: the wait ends if its condition holds; a spinner is released with its count at 0 and the values of its
last iteration (R152, R153, R283). A line that the guest owns is recalled first (R108). -/
def State.reload (s : State) (t : Stream) : State :=
  let free := fun (pa : Nat) => !s.guest.owned.contains (lineOf pa)
  match t.wait with
  | .watch ge pa v =>
    let x := s.mem.word pa
    if !free pa then s
    else if watchHolds ge x v then
      s.updStream t.sid fun t =>
        { t with wait := .none, watchDie := none, due := false, answers := t.answers ++ [(watchKey t.partNow, some (wordBytes x))] }
    else s.watchOn t pa
  | .yieldWatch pa _ v _ =>
    if !free pa then s
    else if watchHolds true (s.mem.word pa) v then s.updStream t.sid fun t => { t with wait := .none, watchDie := none, due := false }
    else s.watchOn t pa
  | .spin _ => s.updStream t.sid fun t => { t with wait := .none, watchDie := none, due := false }
  | _ => s

/-- WATCH_RELOAD (R152, R283, R285): after a write to a watched line, or once the L2 has dropped it. -/
def execWatchReload (sid : Nat) (s : State) : Out :=
  match s.stream? sid with
  | some t => .next (if t.due then s.reload t else s)
  | none => .next s

/-- WATCH_RECHECK_EXPIRY (R152, R283): the recheck at most 50 µs after the last load. -/
def execWatchRecheckExpiry (sid : Nat) (s : State) : Out :=
  match s.stream? sid with
  | some t => .next (s.reload t)
  | none => .next s

end Sys2Proof.Machine
end

