-- ==== Sys2Proof/Machine/Matrix.lean ====
section
/-! DEFINITION. The matrix unit, OP 0x70 to 0x77: operand maps, tiles, checks, commands and batches (R207 to R225), and
the order of its sums (R65, R66). -/

namespace Sys2Proof.Machine

/-! Operand maps (R207 to R209). -/

/-- BASE. -/
def Operand.base (m : Operand) : Nat := bits m.low 19 0
/-- PITCH. -/
def Operand.pitch (m : Operand) : Nat := bits m.low 35 20
/-- FMT. -/
def Operand.fmtCode (m : Operand) : Nat := bits m.low 40 36
/-- SWZ. -/
def Operand.swz (m : Operand) : Nat := bits m.low 42 41
/-- TR. -/
def Operand.tr (m : Operand) : Bool := m.low.getLsbD 43
/-- INC. -/
def Operand.inc (m : Operand) : Bool := m.low.getLsbD 44
/-- SBASE. -/
def Operand.sbase (m : Operand) : Nat := bits m.high 19 0
/-- SPITCH. -/
def Operand.spitch (m : Operand) : Nat := bits m.high 35 20
/-- The format. -/
def Operand.fmt (m : Operand) : Fmt := fmtOf m.fmtCode

/-- The address of byte q of line r of a map that is not transposed (R208). -/
def Operand.lineByte (m : Operand) (r q : Nat) : Nat :=
  m.base + r * m.pitch + (if m.swz = 0 then q else q ^^^ 16 * (r % 2 ^ (m.swz + 1)))

/-- The scratchpad bytes of positions c to c + n - 1 of line r, in order (R51, R208). -/
def Operand.bytesOf (m : Operand) (r c n : Nat) : List Nat :=
  let b := m.fmt.width
  if m.tr then
    (List.range n).flatMap fun k => (List.range (b / 8)).map fun i => m.base + (c + k) * m.pitch + r * (b / 8) + i
  else
    let q0 := b * c / 8
    (List.range ((b * (c + n) + 7) / 8 - q0)).map fun i => m.lineByte r (q0 + i)

/-- The scale bytes of positions c to c + n - 1 of line r (R209). -/
def Operand.scalesOf (m : Operand) (r c n : Nat) : List Nat :=
  if m.fmt.scaled && n != 0 then (List.range ((c + n - 1) / 128 + 1 - c / 128)).map fun i => m.sbase + r * m.spitch + c / 128 + i else []

/-- Blocks with a reserved scale among those that a command reads of 32 lines (R60; log 44). -/
def Operand.reserved (m : Operand) (sc : Memory) (c n : Nat) : Nat :=
  (((List.range 32).flatMap fun r => m.scalesOf r c n).filter fun a => sc.get a == 0xFF#8).length

/-- Every byte that 32 lines of n positions take. -/
def Operand.reach (m : Operand) (c n : Nat) : List Nat :=
  (List.range 32).flatMap fun r => m.bytesOf r c n ++ m.scalesOf r c n

/-- The encodings of positions c to c + n - 1 of line r. -/
def Operand.codes (m : Operand) (sc : Memory) (r c n : Nat) : List Nat :=
  let b := m.fmt.width
  if m.tr then (List.range n).map fun k => sc.nat (m.base + (c + k) * m.pitch + r * (b / 8)) (b / 8)
  else
    let v := leNat ((m.bytesOf r c n).map sc.get)
    let shift := b * c % 8
    (List.range n).map fun k => v / 2 ^ (shift + b * k) % 2 ^ b

/-- The value of an element of a map, SG reading i4 and bs.i4 as unsigned (R60, R213). -/
def mapValue (f : Fmt) (sg : Bool) (code scale : Nat) : FVal :=
  if sg && f.elem == .i4 then
    (if f.scaled then (if scale = 0xFF then .fin false 0 0 else (FVal.ofInt code).scale ((scale : Int) - 127)) else .ofInt code)
  else f.decodeScaled code scale

/-- The values of positions c to c + n - 1 of line r. -/
def Operand.values (m : Operand) (sc : Memory) (sg : Bool) (r c n : Nat) : List FVal :=
  ((m.codes sc r c n).zip (List.range n)).map fun x =>
    mapValue m.fmt sg x.1 (if m.fmt.scaled then (sc.get (m.sbase + r * m.spitch + (c + x.2) / 128)).toNat else 127)

/-- The integer of an encoding (R46, R66, R213). -/
def intCode (f : Fmt) (sg : Bool) (x : Nat) : Int :=
  match f with
  | .u8 => x
  | .i4 => if sg then x else sextNat x 4
  | .tern => (match x with
    | 1 => 1
    | 3 => -1
    | _ => 0)
  | g => sextNat x g.width

/-- Integer elements (R66). -/
def Operand.ints (m : Operand) (sc : Memory) (sg : Bool) (r c n : Nat) : List Int :=
  (m.codes sc r c n).map (intCode m.fmt sg)

/-! Formats and K (R212, R213). -/

/-- Formats that MMA and MMAS accept. -/
def mmaFormat (f : Fmt) : Bool := match f with
  | .bf16 | .f16 | .e4m3 | .e5m2 | .i8 | .u8 | .bsE4m3 | .bsE5m2 | .bsI8 | .e3m2 | .e2m3 | .bsE3m2 | .bsE2m3 | .e2m1 | .i4
  | .bsE2m1 | .bsI4 => true
  | _ => false

/-- K of a width. -/
def kOfWidth (w : Nat) : Nat := if w = 16 then 32 else if w = 8 then 64 else 128

/-- K of a pair, set by the wider operand. -/
def kOf (a b : Fmt) : Nat := kOfWidth (max a.width b.width)

/-- Both operands are integers without scale: the integer path. -/
def intPath (a b : Fmt) : Bool :=
  let i := fun (f : Fmt) => f == .i8 || f == .u8 || f == .i4
  i a && i b

/-- An operand that SG may stand beside. -/
def sgFormat (f : Fmt) : Bool := f == .i8 || f == .u8 || f == .i4 || f == .bsI8 || f == .bsI4

/-! Commands. -/

/-- The positions that a 2:4 code keeps (R217). -/
def keptPositions : Nat → Nat × Nat
  | 0 => (0, 1) | 1 => (0, 2) | 2 => (1, 3) | _ => (2, 3)

/-- The code of group g of row i, from the lanes of the index registers (R217). -/
def groupCode (k2 : Nat) (hi : Bool) (v v2 : VReg) (i g : Nat) : Nat :=
  let x := lane v i
  if k2 = 64 then bits (if hi then x >>> 32 else x) (2 * g + 1) (2 * g)
  else if g < 32 then bits x (2 * g + 1) (2 * g)
  else bits (lane v2 i) (2 * (g - 32) + 1) (2 * (g - 32))

/-- Stored elements put at their logical positions (R217). -/
def expandRow (code : Nat → Nat) (stored : List α) : List (Option α) :=
  (List.range (stored.length / 2)).flatMap fun g =>
    let (p, q) := keptPositions (code g)
    (List.range 4).map fun k => if k = p then stored[2 * g]? else if k = q then stored[2 * g + 1]? else none

/-- Groups of sixteen. -/
def groups16 (l : List α) : List (List α) := (List.range ((l.length + 15) / 16)).map fun g => (l.drop (16 * g)).take 16

/-- One element of a float accumulation (R65): a row of A, pruned positions absent, and a column of B. A pruned position is the product
+0 whatever B holds there (DESIGN CHOICE, log 51). -/
def dotFloat (acc : BitVec 32) (a : List (Option FVal)) (b : List FVal) : BitVec 32 :=
  (groups16 (a.zip b)).foldl (fun acc g => accumulate acc (groupSum (g.map fun x => match x.1 with
    | some v => v.mul x.2
    | none => (.fin false 0 0, 0)))) acc

/-- One element of an integer accumulation (R66). -/
def dotInt (acc : BitVec 32) (a : List (Option Int)) (b : List Int) : BitVec 32 :=
  acc + BitVec.ofInt 32 ((a.zip b).foldl (fun s x => s + x.1.getD 0 * x.2) 0)

/-- A tile by its elements. -/
def tileOf (k : TileKind) (f : Nat → Nat → BitVec 32) : Tile := { kind := k, words := vtab 1024 fun n => f (n / 32) (n % 32) }

/-- Element (i, j) of a tile (R211). -/
def Tile.at (t : Tile) (i j : Nat) : BitVec 32 := vget t.words (32 * i + j) 0

/-- A tile of +0 (R211). -/
def Tile.zero : Tile := { kind := .f, words := Vector.replicate 1024 0 }

/-- Row i of A at its logical positions. -/
def placeRow (code : Option (Nat → Nat → Nat)) (i : Nat) (l : List α) : List (Option α) :=
  match code with
  | some c => expandRow (c i) l
  | none => l.map some

/-- The product of two maps accumulated into a tile: `expand` places row i of A, ka and kb are the positions read. -/
def multiply (sc : Memory) (a b : Operand) (ka kb : Nat) (sg ints : Bool) (code : Option (Nat → Nat → Nat)) (t : Tile) : Tile :=
  if ints then
    let as := (List.range 32).toArray.map fun i => placeRow code i (a.ints sc sg i a.cursor ka)
    let bs := (List.range 32).toArray.map fun j => b.ints sc sg j b.cursor kb
    tileOf .i fun i j => dotInt (t.at i j) (as.getD i []) (bs.getD j [])
  else
    let as := (List.range 32).toArray.map fun i => placeRow code i (a.values sc sg i a.cursor ka)
    let bs := (List.range 32).toArray.map fun j => b.values sc sg j b.cursor kb
    tileOf .f fun i j => dotFloat (t.at i j) (as.getD i []) (bs.getD j [])

/-- The tile that ACCLD loads (R218). -/
def loadTile (sc : Memory) (m : Operand) : Tile :=
  let f := m.fmt
  let rows := (List.range 32).toArray.map fun i => m.codes sc i m.cursor 32
  let code := fun i j => (rows.getD i []).getD j 0
  if f.scaled || (f.float.isSome && f != .f32) then
    let vals := (List.range 32).toArray.map fun i => m.values sc false i m.cursor 32
    tileOf .f fun i j => BitVec.ofNat 32 (decodeInto .f32 ((vals.getD i []).getD j (.fin false 0 0)))
  else if f = .f32 then tileOf .f fun i j => BitVec.ofNat 32 (code i j)
  else
    let ints := (List.range 32).toArray.map fun i => m.ints sc false i m.cursor 32
    tileOf .i fun i j => BitVec.ofInt 32 ((ints.getD i []).getD j 0)

/-- The value of a tile's element (R219). -/
def Tile.value (t : Tile) (i j : Nat) : FVal := match t.kind with
  | .f => ffF32.decode (t.at i j).toNat
  | .i => .ofInt (t.at i j).toInt

/-- A tile's element in an unscaled format, and whether it is counted (R53, R54, R57, R219). -/
def storeElem (t : Tile) (f : Fmt) (i j : Nat) : Nat × Bool :=
  match t.kind, f with
  | .f, .f32 => ((t.at i j).toNat, false)
  | .i, .i32 => ((t.at i j).toNat, false)
  | _, _ => quantElem f (t.value i j)

/-- The bytes that ACCST writes in line i, from the scratchpad as lower lines left it, and the encodings counted (R219). The elements that a
block keeps are decoded into f32 (R62; log 51). Where TR is 1 and PITCH 0, elements of one line share bytes, and the highest position
stands (log 64). -/
def storeLineOf (sc : Memory) (m : Operand) (t : Tile) (i : Nat) : List Host.Cell × Nat :=
  let f := m.fmt
  let c := m.cursor
  if f.scaled then
    (List.range ((c + 31) / 128 + 1 - c / 128)).foldl (fun acc n =>
      let blk := c / 128 + n
      let old := (m.values sc false i (128 * blk) 128).map fun x => ffF32.decode (decodeInto .f32 x)
      let new := (List.range 128).map fun k =>
        let pos := 128 * blk + k
        if c ≤ pos && pos < c + 32 then t.value i (pos - c) else old.getD k (.fin false 0 0)
      let (e, elems, sat) := encodeBlock f new
      (acc.1 ++ ((m.bytesOf i (128 * blk) 128).zip (packBytes f.width elems)) ++
        [(m.sbase + i * m.spitch + blk, BitVec.ofNat 8 e)], acc.2 + sat)) ([], 0)
  else
    let es := (List.range 32).map fun j => storeElem t f i j
    let bytes := packBytes f.width (es.map (·.1))
    ((m.bytesOf i c 32).zip bytes, (es.filter (·.2)).length)

/-- Bytes that an ACCST takes: whole blocks for a block-scaled map (R219). -/
def Operand.storeReach (m : Operand) : List Nat :=
  if m.fmt.scaled then
    let b0 := m.cursor / 128 * 128
    m.reach b0 ((m.cursor + 31) / 128 * 128 + 128 - b0)
  else m.reach m.cursor 32

/-- The rows of scratchpad bytes. -/
def rowsOfBytes (l : List Nat) : List Nat := (l.map (· / 256)).eraseDups

/-- Rows that a command reads, and rows that it writes. -/
def MatOp.rows : MatOp → List Nat × List Nat
  | .mma _ _ _ a b => let k := kOf a.fmt b.fmt; (rowsOfBytes (a.reach a.cursor k ++ b.reach b.cursor k), [])
  | .mmas _ _ _ _ a b _ _ => let k := kOf a.fmt b.fmt; (rowsOfBytes (a.reach a.cursor k ++ b.reach b.cursor (2 * k)), [])
  | .mmat _ _ a b => (rowsOfBytes (a.reach a.cursor 256 ++ b.reach b.cursor 256), [])
  | .accld _ a => (rowsOfBytes (a.reach a.cursor 32), [])
  | .accst _ a => ([], rowsOfBytes a.storeReach)
  | .accldZero _ | .omset | .mfence => ([], [])

/-- The tile a command names. -/
def MatOp.tile : MatOp → Option Nat
  | .mma c _ _ _ _ | .mmas c _ _ _ _ _ _ _ | .mmat c _ _ _ | .accld c _ | .accldZero c | .accst c _ => some c
  | .omset | .mfence => none

/-- A tile of a gang. -/
def Gang.tile (g : Gang) (c : Nat) : Tile := vget g.tiles c Tile.zero

/-- Blocks with a reserved scale that a command decodes (R57, R60); an ACCST decodes the blocks that it merges into. -/
def MatOp.reserved (sc : Memory) : MatOp → Nat
  | .mma _ _ _ a b => let k := kOf a.fmt b.fmt; a.reserved sc a.cursor k + b.reserved sc b.cursor k
  | .mmas _ _ _ _ a b _ _ => let k := kOf a.fmt b.fmt; a.reserved sc a.cursor k + b.reserved sc b.cursor (2 * k)
  | .accld _ a | .accst _ a => a.reserved sc a.cursor 32
  | .mmat _ _ _ _ | .accldZero _ | .omset | .mfence => 0

/-- The scratchpad that a command works on. -/
def State.scratchOf (s : State) (c : MatCmd) : Memory := ((s.splice? c.launch c.splice).map (·.scratch)).getD []

/-- Line i of an ACCST written (R219). -/
def State.storeTileLine (s : State) (c : MatCmd) (a : Operand) (t : Tile) (i : Nat) : State :=
  let (cells, sat) := storeLineOf (s.scratchOf c) a t i
  let s := (byLine cells).foldl (fun s g => s.storeScratch c.launch c.splice none (g.length == 64) g) s
  if sat = 0 then s else s.countCore (some c.core) 0x20 (s.pasidOf c.launch) sat

/-- A command's effect: a tile written, or rows (R217 to R219). Decodes of reserved scales are counted (R57). -/
def State.matEffect (s : State) (c : MatCmd) : State :=
  let sc := s.scratchOf c
  let bad := c.op.reserved sc
  let s := if bad = 0 then s else s.countCore (some c.core) 0x21 (s.pasidOf c.launch) bad
  let tileIn := fun n clr => if clr then Tile.zero else ((s.gang? c.launch c.gang).map (·.tile n)).getD Tile.zero
  let put := fun n (t : Tile) => s.updGang c.launch c.gang fun g => { g with tiles := vset g.tiles n t }
  match c.op with
  | .mma n clr sg a b => put n (multiply sc a b (kOf a.fmt b.fmt) (kOf a.fmt b.fmt) sg (intPath a.fmt b.fmt) none (tileIn n clr))
  | .mmas n clr sg hi a b v v2 =>
    let k := kOf a.fmt b.fmt
    put n (multiply sc a b k (2 * k) sg (intPath a.fmt b.fmt) (some (groupCode (2 * k) hi v v2)) (tileIn n clr))
  | .mmat n clr a b => put n (multiply sc a b 256 256 false true none (tileIn n clr))
  | .accld n a => put n (loadTile sc a)
  | .accldZero n => put n Tile.zero
  | .accst n a => (List.range 32).foldl (fun s i => s.storeTileLine c a (tileIn n false) i) s
  | .omset | .mfence => s

/-- The command of a core by its number. -/
def State.matCmd? (s : State) (core seq : Nat) : Option MatCmd := s.matCmds.find? fun c => c.core == core && c.seq == seq

/-- A command may start (R223, R224): it is the gang's oldest not started, on rows that no earlier command of the core still holds, and on
a tile that no earlier command of the gang still names. -/
def State.matReady (s : State) (c : MatCmd) : Bool :=
  let earlier := s.matCmds.filter fun d => d.launch == c.launch && d.gang == c.gang && decide (d.seq < c.seq)
  let (rd, wr) := c.op.rows
  !c.started && earlier.all (·.started) && !(earlier.any fun d => d.op.tile.isSome && d.op.tile == c.op.tile) &&
    !s.rowHeld c.launch c.splice c.seq false rd && !s.rowHeld c.launch c.splice c.seq true wr

/-- The slot of a command's gang. -/
def State.matSlot (s : State) (c : MatCmd) : Nat := (((s.gang? c.launch c.gang).bind (·.place)).map (·.2)).getD 0

/-- How far a slot comes after the one that the core's matrix unit served last, of 16 (R215). -/
def State.matDistance (s : State) (core slot : Nat) : Nat :=
  (slot + 16 - ((((s.matTurn.find? (·.1 == core)).map (·.2)).getD 15) + 1)) % 16

/-- MATRIX_COMMAND_START (R215, R223, R224): the unit takes gangs in turn by slot, and a gang's commands in issue order. -/
def execMatrixCommandStart (core seq : Nat) (s : State) : Out :=
  match s.matCmd? core seq with
  | none => .next s
  | some c =>
    let others := s.matCmds.filter fun d => d.core == core && s.matReady d
    if !s.matReady c || others.any (fun d => decide (s.matDistance core (s.matSlot d) < s.matDistance core (s.matSlot c))) then .next s
    else
      .next { s with
        matCmds := updFirst (fun d => d.seq == seq) (fun d => { d with started := true }) s.matCmds
        matTurn := (core, s.matSlot c) :: s.matTurn.filter (·.1 != core) }

/-- MATRIX_COMMAND_COMPLETE (R221, R223, R224): the effect, the locks and the entry go, waiters try again. MFENCE completes
when its batch has. -/
def execMatrixCommandComplete (core seq : Nat) (s : State) : Out :=
  match s.matCmd? core seq with
  | none => .next s
  | some c =>
    let open' := s.matCmds.any fun d => d.launch == c.launch && d.gang == c.gang && d.op != .mfence && decide (d.batch ≤ c.batch)
    if !c.started || (c.op == .mfence && open') then .next s
    else
      let s := s.matEffect c
      let s := { s with matCmds := s.matCmds.filter (·.seq != seq), locks := s.locks.filter (·.seq != seq) }
      .next ((s.wakeHeld).wake fun t => t.wait == Wait.mwait)

/-! Issue (R210 to R216). -/

/-- An operand map that holds nothing. -/
def OMap.unset : OMap := { isSet := false, low := 0, high := 0, cursor := 0 }

/-- A gang's map. -/
def Gang.map (g : Gang) (n : BitVec 3) : OMap := vget g.om n.toNat OMap.unset

/-- The operand that a map names now. -/
def OMap.operand (m : OMap) : Operand := { low := m.low, high := m.high, cursor := m.cursor.toNat }

/-- Invalid operand map (R210). -/
def mapTrap (n : BitVec 3) (reason k : Nat) : Res := .trap 9 (toWord (n.toNat + reason * 16)) [k]

/-- A map's reason, unset or of a format its role forbids. -/
def mapBad (g : Gang) (n : BitVec 3) (ok : Fmt → Bool) : Option Nat :=
  let m := g.map n
  if !m.isSet then some 4 else if !ok m.operand.fmt then some 5 else none

/-- Issue of a matrix word (R215). -/
def matIssue (h : Bool) : Issue := { len := 4, hold := h, irrevocable := true, spinOk := false }

/-- R214's first check: the stream is the whole gang. -/
def wholeGang (s : State) (t : Stream) : Option Res :=
  match t.homes with
  | [k] => if t.active == 0xFFFF_FFFF#32 && (t.slotsOf k).length == 8 then none
    else some (.trap 3 (toWord (t.active.toNat + (if 1 < (s.streamsOf t.launch k).length then 2 ^ 32 else 0))) [k])
  | ks => some (.trap 3 (toWord (t.active.toNat +
      (if ks.any fun k => decide (1 < (s.streamsOf t.launch k).length) then 2 ^ 32 else 0) + 2 ^ 33)) ks)

/-- Scratchpad bytes outside the splice: the lowest (R214). -/
def firstBeyond (size : Nat) (l : List Nat) : Option Nat :=
  (l.filter fun a => decide (size ≤ a)).foldl (fun (b : Option Nat) a => some (match b with
    | some x => min x a
    | none => a)) none

/-- A command queued: its rows locked, a pool entry taken; or the stall, or the range trap (R109, R214, R215). -/
def queueMatrix (p : Part) (g : Gang) (who : Who) (batch : Nat) (op : MatOp) (bytes : List Nat) (acc : Nat) (s : State) (go : State → State) : Res :=
  match g.core, s.splice? p.launch (s.spliceOf p.launch p.gang) with
  | some core, some sp =>
    match firstBeyond sp.size bytes with
    | some a => .trap 0x0A (memInfo 0 acc true false a) [p.gang]
    | none =>
      let reads := match op with
        | .accst _ a => a.fmt.scaled
        | _ => true
      match (if reads then bytes.find? fun a => sp.badBlocks.contains (a / 64) else none) with
      | some a => .raise (s.blockError p.launch p.gang (a / 64 * 64)) 0x11 (memInfo 0 0 true false a) [p.gang]
      | none =>
        if !s.poolGrant p.sid core .matrix then .again s (.pool .matrix who.tick)
        else
          let seq := s.seq
          let (rd, wr) := op.rows
          let lock := fun excl r => ({ launch := p.launch, splice := sp.idx, row := r, excl := excl, seq := seq } : RowLock)
          let s :=
            { s with
              seq := seq + 1
              matCmds := s.matCmds ++ [({ seq := seq, core := core, launch := p.launch, gang := p.gang, splice := sp.idx
                                          batch := batch, op := op, started := false } : MatCmd)]
              locks := s.locks ++ rd.map (lock false) ++ wr.map (lock true) }
          .done (go s)
  | _, _ => .done s

/-- A matrix word on a whole gang: its part, its gang and who writes. -/
def matWord (h : Bool) (eff : Part → Gang → Who → State → Res) (s : State) : Out :=
  s.issue (matIssue h) fun t who s =>
    match wholeGang s t with
    | some r => r
    | none => match t.parts with
      | p :: _ => match s.gang? p.launch p.gang with
        | some g => eff p g who s
        | none => .done s
      | [] => .done s

/-- Tile number out of range (R211). -/
def tileBad (s : State) (p : Part) (c : BitVec 6) : Option Res :=
  if ((s.launch? p.launch).map (·.tiles)).getD 0 ≤ c.toNat then some (.trap 8 (toWord (c.toNat % 16)) [p.gang]) else none

/-- Cursors advanced: a map named twice once, by the larger count (R209). -/
def State.advanceMaps (s : State) (p : Part) (am bm : BitVec 3) (ka kb : Nat) : State :=
  s.updGang p.launch p.gang fun g =>
    let step := fun (om : Vector OMap 8) (n : BitVec 3) (k : Nat) =>
      let m := vget om n.toNat OMap.unset
      if m.operand.inc then vset om n.toNat { m with cursor := m.cursor + BitVec.ofNat 32 k } else om
    if am = bm then { g with om := step g.om am (max ka kb) } else { g with om := step (step g.om am ka) bm kb }

/-- The batch that a command joins (R221). -/
def Gang.openBatch (g : Gang) : Nat := g.batch.toNat + 1

/-- MMA (R217). -/
def execMma (f : XFields) (s : State) : Out :=
  matWord f.h (fun p g who s =>
    match tileBad s p f.c with
    | some r => r
    | none => match mapBad g f.am mmaFormat, mapBad g f.bm mmaFormat with
      | some r, _ => mapTrap f.am r p.gang
      | none, some r => mapTrap f.bm r p.gang
      | none, none =>
        let a := (g.map f.am).operand
        let b := (g.map f.bm).operand
        let k := kOf a.fmt b.fmt
        if f.sg && !sgFormat a.fmt && !sgFormat b.fmt then mapTrap f.am 6 p.gang
        else queueMatrix p g who g.openBatch (.mma f.c.toNat f.clr f.sg a b) (a.reach a.cursor k ++ b.reach b.cursor k) 0 s
          fun s => s.advanceMaps p f.am f.bm k k) s

/-- MMAS (R217). -/
def execMmas (f : XFields) (s : State) : Out :=
  matWord f.h (fun p g who s =>
    let a := (g.map f.am).operand
    let b := (g.map f.bm).operand
    let k := kOf a.fmt b.fmt
    let aux := f.aux.toNat
    let pair := (mapBad g f.am mmaFormat).isNone && (mapBad g f.bm mmaFormat).isNone && k == 128
    if !g.xb && (32 ≤ aux || (pair && aux == 31)) then .trap 7 (toWord (max 32 aux)) [p.gang]
    else match tileBad s p f.c with
      | some r => r
      | none => match mapBad g f.am mmaFormat, mapBad g f.bm mmaFormat with
        | some r, _ => mapTrap f.am r p.gang
        | none, some r => mapTrap f.bm r p.gang
        | none, none =>
          if (f.sg && !sgFormat a.fmt && !sgFormat b.fmt) || (f.sub == 1 && k != 32) || (k == 128 && aux % 2 == 1) then mapTrap f.am 6 p.gang
          else
            let op := MatOp.mmas f.c.toNat f.clr f.sg (f.sub == 1) a b (g.readV who.sid who.tick aux)
              (if k = 128 then g.readV who.sid who.tick (aux + 1) else zeroV)
            queueMatrix p g who g.openBatch op (a.reach a.cursor k ++ b.reach b.cursor (2 * k)) 0 s
              fun s => s.advanceMaps p f.am f.bm k (2 * k)) s

/-- MMAT (R217). -/
def execMmat (f : XFields) (s : State) : Out :=
  matWord f.h (fun p g who s =>
    match tileBad s p f.c with
    | some r => r
    | none => match mapBad g f.am (· == .tern), mapBad g f.bm (fun x => x == .i8 || x == .u8) with
      | some r, _ => mapTrap f.am r p.gang
      | none, some r => mapTrap f.bm r p.gang
      | none, none =>
        let a := (g.map f.am).operand
        let b := (g.map f.bm).operand
        queueMatrix p g who g.openBatch (.mmat f.c.toNat f.clr a b) (a.reach a.cursor 256 ++ b.reach b.cursor 256) 0 s
          fun s => s.advanceMaps p f.am f.bm 256 256) s

/-- MFENCE (R221). -/
def execMfence (f : XFields) (s : State) : Out :=
  matWord f.h (fun p g who s =>
    let n := g.batch + 1#64
    queueMatrix p g who n.toNat .mfence [] 0 s fun s =>
      (s.updGang p.launch p.gang fun g => { g with batch := n }).setS p who true f.aux n) s

/-- MWAIT (R222). -/
def execMwait (f : XFields) (s : State) : Out :=
  matWord f.h (fun p g who s =>
    let t := min (s.partS p who.tick f.aux).toNat g.batch.toNat
    if s.matCmds.any fun c => c.launch == p.launch && c.gang == p.gang && c.op != .mfence && decide (c.batch ≤ t) then .again s .mwait
    else .done s) s

/-- ACCLD through a map (R218). -/
def execAccld (f : XFields) (s : State) : Out :=
  matWord f.h (fun p g who s =>
    match tileBad s p f.c with
    | some r => r
    | none => match mapBad g f.am (fun x => x != .cb4) with
      | some r => mapTrap f.am r p.gang
      | none =>
        let a := (g.map f.am).operand
        queueMatrix p g who g.openBatch (.accld f.c.toNat a) (a.reach a.cursor 32) 0 s id) s

/-- ACCLD of zero (R218). -/
def execAccldZero (f : XFields) (s : State) : Out :=
  matWord f.h (fun p g who s =>
    match tileBad s p f.c with
    | some r => r
    | none => queueMatrix p g who g.openBatch (.accldZero f.c.toNat) [] 0 s id) s

/-- ACCST (R219). -/
def execAccst (f : XFields) (s : State) : Out :=
  matWord f.h (fun p g who s =>
    match tileBad s p f.c with
    | some r => r
    | none => match mapBad g f.am (fun x => x != .cb4 && x != .tern) with
      | some r => mapTrap f.am r p.gang
      | none =>
        let a := (g.map f.am).operand
        queueMatrix p g who g.openBatch (.accst f.c.toNat a) a.storeReach 1 s id) s

/-- The checks of OMSET (R210); of several reasons the lowest is reported (log 64). -/
def omsetReason (low high : Word) : Option Nat :=
  let m : Operand := { low := low, high := high, cursor := 0 }
  let align := if m.swz = 0 then 16 else 16 * 2 ^ (m.swz + 1)
  if bits low 63 45 != 0 || bits high 63 52 != 0 || 0x18 ≤ m.fmtCode then some 1
  else if m.base % align != 0 || m.pitch % align != 0 || bits high 51 36 % 16 != 0 then some 2
  else if m.tr && (m.swz != 0 || decide (m.fmt.width < 8) || m.fmt.scaled) then some 3
  else none

/-- OMSET (R207, R210, R220). -/
def execOmset (f : XFields) (s : State) : Out :=
  matWord f.h (fun p g who s =>
    let low := s.partS p who.tick f.aux
    let high := s.partS p who.tick (f.aux + 1)
    match omsetReason low high with
    | some r => mapTrap f.am r p.gang
    | none => queueMatrix p g who g.openBatch .omset [] 0 s fun s =>
      s.updGang p.launch p.gang fun g =>
        { g with om := vset g.om f.am.toNat { isSet := true, low := low, high := high, cursor := BitVec.ofNat 32 (bits high 51 36) } }) s

end Sys2Proof.Machine
end

