-- ==== Sys2Proof/Machine/Fabric.lean ====
section
/-! DEFINITION. The scale-up fabric: requests from other devices and the import table (R229, R230), answers to this
device's requests (R92, R133, R228), and XPUT, XGET and XATOM (R231 to R235). -/

namespace Sys2Proof.Machine

/-! The target's side (R230). -/

/-- What a request gives at its target: done with the bytes read, refused with a reason of R234, or held by a line. -/
inductive Performed where
  | done (s : State) (data : List Byte)
  | refused (s : State) (reason : Nat)
  | held

/-- A line in error that a fabric request or engine reads (R327); its source is free (log 3). -/
def State.fabricError (s : State) (pasid line : Nat) : State :=
  s.lineError { addr := 0, src := Config.recordSrc s.seq line, pasid := pasid, reason := 0, acc := 0, skind := .fabric, cls := 5 } line

/-- One request's access to one place of at most a line, at its home (R92, R230). A line in error is refused (reason 6); so
is a write that a full region refuses (R314). -/
def State.performLine (s : State) (pasid pa : Nat) (op : FabricOp) : Performed :=
  if s.lineBusy pa then .held
  else
    let put := fun (s : State) (cells : List Host.Cell) (old : List Byte) => match s.logLine pa with
      | .ok s => Performed.done (s.storeLine none none (cells.length == 64) cells) old
      | .refused s _ _ => .refused s 4
    let write := fun (s : State) (bytes old : List Byte) => put s (cellsOf pa bytes) old
    match op with
    | .read n =>
      if s.badLines.contains (lineOf pa) then .refused (s.fabricError pasid (lineOf pa)) 6 else .done s (s.mem.read pa n)
    | .write bs => write s bs []
    | .scatter bs => put s (bs.map fun b => (pa + b.1, b.2)) []
    | .atomic o w x y =>
      if s.badLines.contains (lineOf pa) then .refused (s.fabricError pasid (lineOf pa)) 6
      else
        let old := s.mem.nat pa w
        write s (leBytes w (atomicNew o (8 * w) old (x.toNat % 2 ^ (8 * w)) (y.toNat % 2 ^ (8 * w)))) (leBytes w old)

/-- Bytes that a request takes. -/
def fabricLen : FabricOp → Nat
  | .read n => n
  | .write bs => bs.length
  | .scatter bs => bs.foldl (fun n b => max n (b.1 + 1)) 0
  | .atomic _ w _ _ => w

/-- The access that a request needs. -/
def fabricAccess : FabricOp → Access
  | .read _ => .load
  | .write _ | .scatter _ => .store
  | .atomic _ _ _ _ => .atomic

/-- The bit of PERM that a request needs (R229). -/
def fabricPermBit : FabricOp → Nat
  | .read _ => 0
  | .write _ | .scatter _ => 1
  | .atomic _ _ _ _ => 2

/-- The part of a request that falls in a line: bytes off to off + n. -/
def fabricPiece (op : FabricOp) (off n : Nat) : FabricOp :=
  match op with
  | .read _ => .read n
  | .write bs => .write ((bs.drop off).take n)
  | .scatter bs => .scatter ((bs.filter fun b => decide (off ≤ b.1) && decide (b.1 < off + n)).map fun b => (b.1 - off, b.2))
  | a => a

/-- An atomic's operand is aligned to its width and of a width that R129 gives (log 13). -/
def fabricAligned (op : FabricOp) (a : Nat) : Bool :=
  match op with
  | .atomic o w _ _ => decide (o < 8) && (w == 4 || w == 8) && a % w == 0
  | _ => true

/-- A request of several lines, line by line; `reach` gives the PA of each. -/
def State.performLines (s : State) (pasid : Nat) (op : FabricOp) (reach : State → Nat → Nat → EngineRes Nat) (a : Nat) : Performed :=
  if !fabricAligned op a then .refused s 4
  else (lineSpans a (fabricLen op)).foldl (fun acc sp => match acc with
    | .done s bs => match reach s sp.1 sp.2 with
      | .ok s pa => match s.performLine pasid pa (fabricPiece op (sp.1 - a) sp.2) with
        | .done s b => .done s (bs ++ b)
        | r => r
      | .held _ => .held
      | .fault s _ _ _ => .refused s 4
      | .denied s => .refused s 4
      | .bad s _ => .refused s 4
    | r => r) (.done s [])

/-- A request of a VA: translated by this device's walkers; another page than coherent memory is a protection failure
(log 13). -/
def State.performVirtual (s : State) (pasid : Nat) (a : Word) (op : FabricOp) : Performed :=
  s.performLines pasid op (fun s a _ => s.engineLine none pasid (toWord a) (fabricAccess op)) a.toNat

/-- A request of a local PA: only DRAM is reached through the window (R73). -/
def State.performPhysical (s : State) (pasid pa : Nat) (op : FabricOp) : Performed :=
  s.performLines pasid op (fun s a n =>
    if (dramHome s.memMap a).isSome && (dramHome s.memMap (a + n - 1)).isSome then .ok s a else .denied s) pa

/-- A request to a doorbell (R139, R230). One to a doorbell that is not bound to the target PASID is refused as a protection failure (log
65). -/
def State.performDoorbell (s : State) (pasid off : Nat) (op : FabricOp) : Performed :=
  match op with
  | .write bs => match s.doorbellQueue off with
    | some q => if q.pasid == pasid then .done (s.doorbellWrite off bs.length pasid (bytesWord bs)) [] else .refused s 4
    | none => .refused s 4
  | _ => .refused s 4

/-- The entry that admits a request (R230). -/
def State.admitting (s : State) (r : FabricRequest) : Option ImportEntry :=
  s.imports.find? fun e =>
    e.dev == r.dev && e.spasid == r.pasid && e.type == r.type &&
      e.perm.getLsbD (if r.type = .doorbell then 3 else fabricPermBit r.op) && decide (e.base ≤ r.addr) && decide (r.addr + fabricLen r.op ≤ e.limit)

/-- FABRIC_REQUEST_ARRIVAL (R230): admitted and performed, or refused with a reason and counted. A request that meets a held
line waits. -/
def execFabricRequestArrival (r : FabricRequest) (s : State) : Out :=
  let answer := fun (s : State) (a : FabricAnswer) => { s with sentAnswers := s.sentAnswers ++ [(r.dev, r.tag, a)] }
  match s.admitting r with
  | none => .next (answer s.countHub (.refused 3))
  | some e =>
    let p := match r.type with
      | .physical => s.performPhysical e.tpasid r.addr r.op
      | .virtual => s.performVirtual e.tpasid (toWord r.addr) r.op
      | .doorbell => s.performDoorbell e.tpasid r.addr r.op
    match p with
    | .done s bs => .next (answer s (.done bs))
    | .refused s n => .next (answer (s.countHub e.tpasid) (.refused n))
    | .held => .next { s with heldRequests := s.heldRequests ++ [r] }

/-- The first request waiting on a held line that need not wait any more is performed. -/
def State.retryHeld (s : State) : Out :=
  (s.heldRequests.findSome? fun r => match execFabricRequestArrival r { s with heldRequests := s.heldRequests.erase r } with
    | .next t => if t.heldRequests.length < s.heldRequests.length then some (.next t) else none
    | o => some o).getD (.next s)

/-! XPUT, XGET and XATOM: the work of the lanes. -/

/-- Change a lane of an XNET command. -/
def State.updXLane (s : State) (seq l : Nat) (f : XLane → XLane) : State :=
  { s with xcmds := updFirst (fun c => c.seq == seq) (fun c => { c with lanes := updFirst (fun x => x.lane == l) f c.lanes }) s.xcmds }

/-- Change an XNET command. -/
def State.updXCmd (s : State) (seq : Nat) (f : XCmd → XCmd) : State :=
  { s with xcmds := updFirst (fun c => c.seq == seq) f s.xcmds }

/-- SRC of a record about a lane: it holds the lane (R233) in bits 4:0; R323 gives it no layout, and the rest is free (log 3). -/
def State.laneSrc (s : State) (l : Nat) : Word := (Config.recordSrc s.seq l &&& ~~~31#64) ||| toWord (l % 32)

/-- A lane is refused (R233, R234): the stamp will tell, and a class-3 record with the faulting VA is posted: of the target where that
refuses, else the local one (R323). -/
def State.refuseLane (s : State) (c : XCmd) (x : XLane) (reason : Nat) (va : Word) : State :=
  let s := s.addRecord
    { addr := va, src := s.laneSrc x.lane, pasid := c.pasid, reason := reason, acc := if c.op = 1 then 0 else if c.op = 0 then 1 else 2
      skind := .fabric, cls := 3 } .nothing
  (s.updXCmd c.seq fun c => { c with err := true }).updXLane c.seq x.lane fun x => { x with phase := .finished, parked := false }

/-- A local translation fault parks the command at a lane (R233). -/
def State.parkLane (s : State) (c : XCmd) (l : Nat) (va : Word) (reason acc : Nat) : State :=
  (s.addRecord
    { addr := va, src := s.laneSrc l, pasid := c.pasid, reason := reason, acc := acc, skind := .fabric, cls := 1 }
    (.xnet c.seq l)).updXLane c.seq l fun x => { x with parked := true }

/-- The command is parked, at its stamp or at a lane: none of its lanes goes on (R233). -/
def XCmd.stopped (c : XCmd) : Bool := c.parked || c.lanes.any (·.parked)

/-- The bytes that a lane has and that are not yet written. -/
def XLane.holds (x : XLane) : List Byte := match x.phase with
  | .got bs => bs
  | _ => []

/-- The lane has nothing left to do of its own: it is done or refused, or all that it held has been written or sent. -/
def XLane.settled (x : XLane) : Bool := x.phase == .finished || x.phase == .got []

/-- Where the bytes that a lane holds go: of an XPUT to the target, else to memory here. -/
def XLane.dest (op : Nat) (x : XLane) : Word := if op = 0 then x.taddr else x.laddr

/-- The peer and the line that the first of the bytes held goes to. -/
def XLane.head (op : Nat) (x : XLane) : Option (Nat × Nat) :=
  if x.holds.isEmpty then none else some (if op = 0 then x.peer else 0, lineOf (x.dest op).toNat)

/-- The bytes held that go to that line. -/
def XLane.piece (op : Nat) (x : XLane) : List Byte := x.holds.take (64 - (x.dest op).toNat % 64)

/-- The line that the command writes next, once all its lanes have their bytes or are refused: of one peer the lowest that some lane's
bytes go to, so that the lanes that name bytes of it all come to it together (R108, R235). -/
def XCmd.nextLine (c : XCmd) : Option (Nat × Nat) :=
  if c.stopped || c.lanes.any (fun x => match x.phase with | .ready | .sent _ => true | _ => false) then none
  else (c.lanes.findSome? (·.head c.op)).map fun h =>
    (c.lanes.filterMap (·.head c.op)).foldl (fun b y => if y.1 == b.1 && decide (y.2 < b.2) then y else b) h

/-- The lanes whose bytes go to a line. -/
def XCmd.group (c : XCmd) (h : Nat × Nat) : List XLane := c.lanes.filter fun x => x.head c.op == some h

/-- The bytes that some lanes name in a line, by VA: of those for one address the highest lane's (R235). -/
def lineGroup (op : Nat) (xs : List XLane) : List (Nat × Byte) :=
  xs.foldl (fun m x => overlay m (cellsOf (x.dest op).toNat (x.piece op))) []

/-- What has been written or sent leaves the lanes. -/
def State.takePieces (s : State) (c : XCmd) (xs : List XLane) : State :=
  xs.foldl (fun s x =>
    let n := (x.piece c.op).length
    s.updXLane c.seq x.lane fun y =>
      { y with
        phase := .got (x.holds.drop n)
        taddr := if c.op = 0 then x.taddr + toWord n else x.taddr, laddr := if c.op = 0 then x.laddr else x.laddr + toWord n }) s

/-- Lanes refused, each with its VA; one that has been refused already is not again. -/
def State.refuseLanes (s : State) (c : XCmd) (reason : Nat) (lanes : List (Nat × Word)) : State :=
  lanes.foldl (fun s l => match (s.xcmds.find? (·.seq == c.seq)).bind fun c => c.lanes.find? fun x => x.lane == l.1 && x.phase != .finished with
    | some x => s.refuseLane c x reason l.2
    | none => s) s

/-- Bytes of one line of this device's memory, by VA, written by an engine in one write (R108). -/
def State.scatterLine (s : State) (pasid : Nat) (cells : List (Nat × Byte)) : EngineRes Unit :=
  match cells with
  | [] => .ok s ()
  | (va, _) :: _ => (s.engineLine none pasid (toWord va) .store).bind fun s pa =>
    match s.logLine pa with
    | .ok s => .ok (s.storeLine none none (cells.length == 64) (cells.map fun b => (lineOf pa + b.1 % 64, b.2))) ()
    | .refused s _ _ => .denied s

/-- The bytes of a line written at once: of an XPUT in one request to the peer, or performed here if that is this device (R230); else in
memory here (R108, R233). -/
def State.putLine (s : State) (c : XCmd) (h : Nat × Nat) : State :=
  let xs := c.group h
  let cells := lineGroup c.op xs
  let lanes := xs.map fun x => (x.lane, x.dest c.op)
  if c.op = 0 then
    let a := cells.foldl (fun n b => min n b.1) ((cells.headD (0, 0)).1)
    let op := FabricOp.scatter (cells.map fun b => (b.1 - a, b.2))
    if h.1 = Config.deviceId.toNat then
      match s.performVirtual c.pasid (toWord a) op with
      | .done s _ => s.takePieces c xs
      | .refused s n => (s.countHub c.pasid).refuseLanes c n lanes
      | .held => s
    else
      let q : OutRequest :=
        { tag := s.seq, peer := h.1, pasid := c.pasid, type := .virtual, addr := a, op := op, src := .xnet c.seq lanes, guest := false }
      ({ s with out := s.out ++ [q], seq := s.seq + 1 }).takePieces c xs
  else
    match s.scatterLine c.pasid cells with
    | .ok s () => s.takePieces c xs
    | .held s => s
    | .fault s va r k => s.parkLane c ((lanes.headD (0, 0)).1) va r k
    | .denied s | .bad s _ => s.refuseLanes c 5 lanes

/-- The operation a lane asks of its target. -/
def xlaneOp (op : Nat) (x : XLane) (data : List Byte) : FabricOp :=
  match op with
  | 0 => .write data
  | 1 => .read x.len
  | _ => .atomic x.opa 8 x.laddr 0

/-- An answer comes to a lane (R233). -/
def State.laneAnswer (s : State) (c : XCmd) (x : XLane) (r : FabricAnswer) : State :=
  match r with
  | .refused n => s.refuseLane c x n x.taddr
  | .done bs =>
    if c.op = 0 || (c.op = 2 && !x.ret) then s.updXLane c.seq x.lane fun x => { x with phase := .finished }
    else
      let a := if c.op = 2 then c.sa + toWord (8 + 8 * x.lane) else x.laddr
      s.updXLane c.seq x.lane fun x => { x with phase := .got (bs.take (if c.op = 2 then 8 else x.len)), laddr := a }

/-- A lane's request goes out; to this device itself it is performed at once (R230). -/
def State.askPeer (s : State) (c : XCmd) (x : XLane) (op : FabricOp) : State :=
  if x.peer = Config.deviceId.toNat then
    match (if x.db then s.performDoorbell c.pasid x.taddr.toNat op else s.performVirtual c.pasid x.taddr op) with
    | .done s bs => s.laneAnswer c x (.done bs)
    | .refused s n => (s.countHub c.pasid).laneAnswer c x (.refused n)
    | .held => s
  else
    let q : OutRequest :=
      { tag := s.seq, peer := x.peer, pasid := c.pasid, type := if x.db then .doorbell else .virtual, addr := x.taddr.toNat, op := op
        src := .xnet c.seq [(x.lane, x.taddr)], guest := false }
    ({ s with out := s.out ++ [q], seq := s.seq + 1 }).updXLane c.seq x.lane fun x => { x with phase := .sent q.tag }

/-- The first address of a lane's source whose line an engine's read does not get. -/
def State.sourceStop (s : State) (c : XCmd) (x : XLane) : Word :=
  (((lineSpans x.laddr.toNat x.len).find? fun sp => match s.engineRead c.pasid (toWord sp.1) sp.2 with
    | .ok _ _ => false
    | _ => true).map fun sp => toWord sp.1).getD x.laddr

/-- A lane goes on: of an XPUT it reads its source, which goes to the target line by line, of a doorbell as one kick; else its request
goes out. -/
def State.stepLane (s : State) (c : XCmd) (x : XLane) : State :=
  if x.len = 0 && c.op != 2 then s.updXLane c.seq x.lane fun x => { x with phase := .finished }
  else if c.op = 0 then
    match s.engineRead c.pasid x.laddr x.len with
    | .ok s bs => if x.db then s.askPeer c x (xlaneOp 0 x bs) else s.updXLane c.seq x.lane fun x => { x with phase := .got bs }
    | .fault s va r k => s.parkLane c x.lane va r k
    | .denied s' => s'.refuseLane c x 5 (s.sourceStop c x)
    | .bad s' line => (s'.fabricError c.pasid line).refuseLane c x 6 (s.sourceStop c x)
    | .held s => s
  else s.askPeer c x (xlaneOp c.op x [])

/-- A lane that can go on, of a command that is not parked: of doorbells, or words of an atomic, of one peer that a lower lane names too,
after that lane (R235). -/
def XCmd.next (c : XCmd) : Option XLane :=
  if c.stopped then none
  else c.lanes.find? fun x =>
    x.phase == .ready && !(c.lanes.any fun y =>
      decide (y.lane < x.lane) && y.peer == x.peer && (match y.phase with | .ready | .sent _ => true | _ => false) &&
        (c.op == 2 || x.db && y.db) && decide (y.taddr.toNat < x.taddr.toNat + 8) && decide (x.taddr.toNat < y.taddr.toNat + 8))

/-- The end of an XNET command. -/
def State.endXCmd (s : State) (seq : Nat) : State := { s with xcmds := s.xcmds.filter (·.seq != seq) }

/-- A request of the command is still unanswered. -/
def State.xnetWaits (s : State) (c : XCmd) : Bool := s.out.any fun q => match q.src with
  | .xnet seq _ => seq == c.seq
  | _ => false

/-- XNET_COMPLETE (R233, R235, R381): the next lane goes on, or the next line is written; when every lane is done and the stream's earlier
commands have completed, the stamp is written, or the error stamp. -/
def execXnetComplete (seq : Nat) (s : State) : Out :=
  match s.xcmds.find? (·.seq == seq) with
  | none => .next s
  | some c =>
    match c.next, c.nextLine with
    | some x, _ => .next (s.stepLane c x)
    | none, some h => .next (s.putLine c h)
    | none, none =>
      let before := s.xcmds.any fun d => d.launch == c.launch && d.sids.contains c.sid && decide (d.seq < c.seq)
      if c.stopped || c.lanes.any (fun x => !x.settled) || s.xnetWaits c || before then .next s
      else if c.sa = 0 then .next (s.endXCmd seq)
      else
        let lost := fun (s : State) => Host.Outcome.next ((s.stampLost (Config.recordSrc s.seq 32) .fabric c.pasid c.sa).endXCmd seq)
        match s.stampWrite none c.pasid c.sa (if c.err then errorStamp else c.sv) with
        | .ok s () => .next (s.endXCmd seq)
        | .held _ => .next s
        | .fault s va r k => .next ((s.addRecord
            { addr := va, src := Config.recordSrc s.seq 32, pasid := c.pasid, reason := r, acc := k, skind := .fabric, cls := 1 }
            (.xnet seq 32)).updXCmd seq fun c => { c with parked := true })
        | .denied s => lost s
        | .bad s _ => lost s

/-! Issue (R231 to R233). -/

/-- A lane word that breaks R232, or RET without a stamp. -/
def laneWordBad (op : Nat) (sa w : Word) : Bool :=
  bits w 63 48 != 0 || bits w 31 19 != 0 ||
    match op with
    | 0 => bits w 17 14 != 0 || (w.getLsbD 18 && bits w 47 32 != 8)
    | 1 => bits w 18 14 != 0
    | _ => w.getLsbD 18 || bits w 47 32 != 0 || bits w 16 14 == 7 || (w.getLsbD 17 && sa == 0)

/-- The lane of a command. -/
def xlane (op l : Nat) (a t w : Word) : XLane :=
  { lane := l, peer := bits w 13 0, len := bits w 47 32, laddr := a, taddr := t, db := w.getLsbD 18, ret := w.getLsbD 17
    opa := if op = 2 then bits w 16 14 else 0, phase := .ready, parked := false }

/-- The checks on a stamp address: none for 0 (R233). -/
def State.stampCheck (s : State) (core : Option Nat) (pasid : Nat) (sa : Word) : Except HandleFail (State × Nat) :=
  if sa = 0 then .ok (s, 0) else s.handleAccess core pasid sa 8

/-- XPUT, XGET and XATOM (R231 to R233). -/
def xnetOp (op : Nat) (f : KFields) (s : State) : Out :=
  s.issue (irrevocableWord f.h) fun t who s => s.withRegs t [f.a.toNat, f.a.toNat + 1, f.b.toNat] <|
    onParts (irrevocableWord f.h) (fun p who s =>
      let sa := s.partS p who.tick f.d
      let sv := s.partS p who.tick (f.d + 1)
      let reg := fun r => s.gangV p.launch p.gang p.sid who.tick r
      let va := reg f.a.toNat
      let vt := reg (f.a.toNat + 1)
      let vb := reg f.b.toNat
      let lanes := p.slots.flatMap fun k => (List.range 4).map (4 * k + ·)
      match s.stampCheck (s.coreOf p.launch p.gang) (s.pasidOf p.launch) sa with
      | .error e => e.res s 1 sa p.gang
      | .ok (s, _) => match lanes.find? fun l => laneWordBad op sa (lane vb l) with
        | some l => .trap 0x0E (toWord (l * 2 ^ 59 + 1)) [p.gang]
        | none => .done
          { s with
            seq := s.seq + 1
            xcmds := s.xcmds ++ [({ seq := s.seq, sid := p.sid, sids := [p.sid], launch := p.launch, gang := p.gang, pasid := s.pasidOf p.launch, op := op
                                    lanes := lanes.map fun l => xlane op l (lane va l) (lane vt l) (lane vb l), sa := sa, sv := sv
                                    err := false, parked := false } : XCmd)] }) t who s

/-- XPUT (R233). -/
def execXput (f : KFields) (s : State) : Out := xnetOp 0 f s
/-- XGET (R233). -/
def execXget (f : KFields) (s : State) : Out := xnetOp 1 f s
/-- XATOM (R233). -/
def execXatom (f : KFields) (s : State) : Out := xnetOp 2 f s

/-! Answers (R92, R133, R228). -/

/-- An answer reaches whoever asked. -/
def State.answered (s : State) (q : OutRequest) (r : FabricAnswer) : State :=
  let s := { s with out := s.out.filter (·.tag != q.tag) }
  match q.src with
  | .lane sid key _ =>
    s.updStream sid fun t =>
      { t with
        wait := if t.wait = .answer then .none else t.wait
        answers := t.answers ++ [(key, match r with | .done bs => some bs | .refused _ => none)] }
  | .store l k _ seq info =>
    match (s.gang? l k).bind fun g => g.sb.find? fun e => e.seq == seq && e.waiting with
    | none => s
    | some e =>
      match r with
      | .done _ => s.updGang l k fun g => { g with sb := g.sb.filter fun x => !(x.seq == seq && x.waiting) }
      | .refused _ => match s.stream? e.sid with
        | some t => s.dropStores t k 0x0E info
        | none => s.updGang l k fun g => { g with sb := g.sb.filter fun x => x.sid != e.sid }
  | .xnet seq lanes =>
    match s.xcmds.find? (·.seq == seq) with
    | none => s
    | some c =>
      match c.lanes.find? fun x => x.phase == .sent q.tag, r with
      | some x, r => s.laneAnswer c x r
      | none, .refused n => s.refuseLanes c n lanes
      | none, .done _ => s
  | .late core => s.countCore core 4 q.pasid 1
  | .bus tag => match r with
    | .done bs => { s with hostReads := s.hostReads ++ [(tag, bs)] }
    | .refused _ => s

/-- FABRIC_RESPONSE_ARRIVAL (R92, R133). -/
def execFabricResponseArrival (tag : Nat) (r : FabricAnswer) (s : State) : Out :=
  match s.out.find? fun q => q.tag == tag && !q.guest with
  | some q => .next (s.answered q r)
  | none => .next s

/-- A bucket whose exchange has a tag, under way and without a contribution that it needs. -/
def Plan.exchange? (p : Plan) (tag : Nat) : Option Bucket :=
  p.buckets.find? fun b => b.inFlight && b.order == tag && !p.ready b

/-- FABRIC_REQUEST_TIMEOUT (R228): the peer is unanswered, reason 2. A bucket's exchange, whose tag is the bucket's place in
trigger order, ends the round (R245). -/
def execFabricRequestTimeout (tag : Nat) (s : State) : Out :=
  match s.out.find? fun q => q.tag == tag && !q.guest with
  | some q => .next (s.answered q (.refused 2))
  | none =>
    match s.plans.findSome? fun p => (p.exchange? tag).map fun b => (p.handle, b.n) with
    | some (h, n) => .next (s.failBucket h n 2)
    | none => .next s

end Sys2Proof.Machine
end

