-- ==== Sys2Proof/Machine/Hwq.lean ====
section
/-! DEFINITION. Hardware work queues, QPUSH, QPOP, QTRY and QLEN (R300 to R302), their mapping (R301, R365), and SPAWN
(R298). -/

namespace Sys2Proof.Machine

/-! Descriptors. -/

/-- CHECK of a descriptor (R300). -/
def hwqCheck (va : Word) : Word := toWord (bits va 54 6) ^^^ 0x5A5A5A5A5A5A5A5A#64

/-- A descriptor's words in memory are not those of a valid descriptor of the PASID (R300, R302): V, CHECK, reserved
bytes, OWNER. -/
def State.descriptorBad (s : State) (pasid pa : Nat) (va : Word) : Bool :=
  let m := s.mem
  let flags := m.nat (pa + 12) 4
  flags % 2 == 0 || flags / 4 != 0 || m.word pa != hwqCheck va || m.nat (pa + 8) 4 != 0 || m.nat (pa + 20) 4 / 2 != 0 ||
    m.nat (pa + 24) 4 != pasid || m.nat (pa + 28) 12 != 0 || m.nat (pa + 48) 16 != 0

/-- ERR of a descriptor's FLAGS. -/
def State.descriptorErr (s : State) (pa : Nat) : Bool := s.mem.nat (pa + 12) 4 / 2 % 2 == 1

/-! Mapping (R301). -/

/-- Queues mapped on a die. -/
def State.mappedOn (s : State) (die : Nat) : List HwQueue := s.hwqs.filter fun q => q.mapped && q.home == die

/-- A queue's records in the order in which pops return them (R302). -/
def HwQueue.inOrder (q : HwQueue) : List HwRecord :=
  sortBy (fun (a b : HwRecord) => decide (a.key.toNat < b.key.toNat) || (a.key == b.key && decide (a.order ≤ b.order))) q.records

/-- The 32 bytes of a record. -/
def HwRecord.bytes (r : HwRecord) : List Byte := wordBytes r.key ++ wordBytes r.pay.1 ++ wordBytes r.pay.2.1 ++ wordBytes r.pay.2.2

/-- A write of n bytes for a PASID would meet a line that is held: the guest's, or one of a rolling region (R108, R317). -/
def State.vaHeld (s : State) (pasid : Nat) (va : Word) (n : Nat) : Bool :=
  (byLine (cellsOf va.toNat (List.replicate n 0))).any fun g => match g with
    | [] => false
    | (a, _) :: _ => match s.engineLine none pasid (toWord a) .store with
      | .held _ => true
      | _ => false

/-- Bytes that firmware or a unit writes for a PASID, none of them to a held line; what fails to translate is not written. -/
def State.writeVa (s : State) (pasid : Nat) (va : Word) (bs : List Byte) : State :=
  (s.engineWrite pasid va bs).state

/-- A queue's records cannot go to SPILL yet. -/
def State.spillHeld (s : State) (q : HwQueue) : Bool := s.vaHeld q.pasid (toWord q.spill) (32 * q.records.length)

/-- A queue is unmapped: its records go to SPILL (R301); their places there are those of the order of pops (log 14). -/
def State.unmapQueue (s : State) (q : HwQueue) : State :=
  (s.writeVa q.pasid (toWord q.spill) (q.inOrder.flatMap HwRecord.bytes)).updHwq q.pasid q.desc fun q => { q with mapped := false }

/-- Streams that wait for a queue's mapping go on. -/
def State.wakeMapped (s : State) (q : HwQueue) : State :=
  s.wake fun t => t.wait == Wait.hwqMap q.desc && s.pasidOf t.launch == q.pasid

/-- A queue is mapped. -/
def State.mapQueue (s : State) (q : HwQueue) : State :=
  (s.updHwq q.pasid q.desc fun q => { q with mapped := true, lastUse := s.ticks }).wakeMapped q

/-- Map on first signal (R301): into a free slot, or in place of the least recently signalled queue. Nothing happens while that queue's
records cannot go to SPILL. -/
def State.mapOnSignal (s : State) (q : HwQueue) : State :=
  let there := s.mappedOn q.home
  if there.length < 256 then s.mapQueue q
  else match there.foldl (fun (b : Option HwQueue) x => match b with
        | none => some x
        | some y => if x.lastUse < y.lastUse then some x else some y) none with
    | some v => if s.spillHeld v then s else (s.unmapQueue v).mapQueue q
    | none => s.mapQueue q

/-- HW_QUEUE_IDLE_UNMAP (R301). -/
def execHwQueueIdleUnmap (pasid desc : Nat) (s : State) : Out :=
  match s.hwq? pasid desc with
  | some q => if q.mapped && (vget s.io.hqctl q.home 0).getLsbD 63 && !s.spillHeld q then .next (s.unmapQueue q) else .next s
  | none => .next s

/-! The run list (R301, R365). -/

/-- The processes of a die's run list: the PASIDs with a queue there, those already in the list first. -/
def State.processes (s : State) (die : Nat) : List Nat :=
  let have' := ((s.hwqs.filter (·.home == die)).map (·.pasid)).eraseDups
  let list := vget s.fw.runLists die []
  list.filter have'.contains ++ have'.filter fun p => !list.contains p

/-- A counter's control and value registers with their reserved bits and CLR as they read (R7, R362). -/
def Counter.load (c : Counter) (control value : Word) : Counter :=
  { c with control := keep control [(63, 60), (51, 32), (15, 0)], value := keep value [(47, 0)] }

/-- Counters with SAVE set are stored for the process that leaves, and those that the process that comes has saved are
loaded (R365). -/
def State.swapCounters (s : State) (incoming : Nat) : State :=
  (s.counters.filter fun c => c.control.getLsbD 60).foldl (fun s c =>
    let owner := bits c.control 51 32
    let s := s.writeVa owner c.saveVa (wordBytes c.control ++ wordBytes c.value)
    let saved := (s.savedCounters.find? fun x => x.1 == c.bank && x.2.1 == c.n && x.2.2.1 == incoming).map (·.2.2.2)
    let s := { s with
      savedCounters := (c.bank, c.n, owner, c.saveVa) ::
        s.savedCounters.filter fun x => !(x.1 == c.bank && x.2.1 == c.n && x.2.2.1 == owner) }
    match saved with
    | none => s
    | some va => match s.engineRead incoming va 16 with
      | .ok s bs => s.setCounter { c.load (bytesWord (bs.take 8)) (bytesWord (bs.drop 8)) with saveVa := va }
      | _ => s) s

/-- The save area of a counter that a turn stores cannot be written yet. -/
def State.savesHeld (s : State) : Bool :=
  (s.counters.filter fun c => c.control.getLsbD 60).any fun c => s.vaHeld (bits c.control 51 32) c.saveVa 16

/-- A queue of a die, not mapped, that a stream waits for (R301). -/
def State.wanted (s : State) (die : Nat) : Option HwQueue := s.hwqs.find? fun q =>
  q.home == die && !q.mapped && s.streams.any fun t => t.wait == Wait.hwqMap q.desc && s.pasidOf t.launch == q.pasid

/-- RUN_LIST_TURN (R301, R365): the previous process's queues are unmapped, those of the current process mapped, up to the
256 slots, and the counters swapped; nothing happens while a write that this takes is held. Where queues map on first signal, one that a
stream waits for since before MODE changed is mapped. -/
def execRunListTurn (die : Nat) (s : State) : Out :=
  if (vget s.io.hqctl die 0).getLsbD 63 then .next (((s.wanted die).map s.mapOnSignal).getD s)
  else match s.processes die with
    | [] => .next s
    | prev :: rest =>
      let list := rest ++ [prev]
      let cur := list.headD prev
      let leaving := (s.mappedOn die).filter (·.pasid != cur)
      if leaving.any s.spillHeld || s.savesHeld then .next s
      else
        let s := leaving.foldl State.unmapQueue s
        let s := ((s.hwqs.filter fun q => q.home == die && q.pasid == cur).take 256).foldl
          (fun s q => if q.mapped then s else s.mapQueue q) s
        let s := { s with fw := { s.fw with runLists := vset s.fw.runLists die list } }
        .next (s.swapCounters cur)

/-! The queue instructions (R302). -/

/-- A queue instruction in one part: the checks on its descriptor, the mapping, then its effect. -/
def hwqPart (f : KFields) (eff : Part → Who → HwQueue → State → Res) (p : Part) (who : Who) (s : State) : Res :=
  let h := s.partS p who.tick f.a
  let pasid := s.pasidOf p.launch
  match s.handleAccess (s.coreOf p.launch p.gang) pasid h 64 with
  | .error e => e.res s 2 h p.gang
  | .ok (s, pa) =>
    if s.guest.owned.contains (lineOf pa) then .again s .line
    else match s.hwq? pasid h.toNat with
      | none => queueTrap 9 h p.gang
      | some q =>
        if s.descriptorBad pasid pa h then queueTrap 9 h p.gang
        else if s.descriptorErr pa then queueTrap 11 h p.gang
        else if q.mapped then eff p who q (s.updHwq pasid h.toNat fun q => { q with lastUse := s.ticks })
        else if (vget s.io.hqctl q.home 0).getLsbD 63 && ((s.mapOnSignal q).hwq? pasid h.toNat).any (·.mapped) then
          eff p who q (s.mapOnSignal q)
        else .again s (.hwqMap q.desc)

/-- A queue instruction. -/
def hwqWord (f : KFields) (eff : Part → Who → HwQueue → State → Res) (s : State) : Out :=
  s.issueParts (knotIssue f.h) (hwqPart f eff)

/-- The register group of a record (R302). -/
def State.setGroup (s : State) (p : Part) (who : Who) (d : BitVec 6) (r : HwRecord) : State :=
  (((s.setS p who true d r.key).setS p who true (d + 1) r.pay.1).setS p who true (d + 2) r.pay.2.1).setS p who true (d + 3) r.pay.2.2

/-- The stream that has waited longest in a QPOP of a queue (R302). -/
def State.firstPopper (s : State) (q : HwQueue) : Option Stream :=
  (s.streams.foldl (fun (b : Option (Nat × Stream)) t => match t.wait with
    | .qpop d n =>
      if d == q.desc && s.pasidOf t.launch == q.pasid then
        match b with
        | some (m, _) => if n < m then some (n, t) else b
        | none => some (n, t)
      else b
    | _ => b) none).map (·.2)

/-- QPUSH (R302): the record goes to the popper that waits longest, or into the queue. -/
def execQpush (f : KFields) (s : State) : Out :=
  hwqWord f (fun p who q s =>
    let g := fun (i : BitVec 6) => s.partS p who.tick (f.d + i)
    let r : HwRecord := { key := g 0, pay := (g 1, g 2, g 3), order := s.seq }
    match s.firstPopper q with
    | some t => .done (s.updStream t.sid fun t => { t with wait := .none, popped := some r })
    | none =>
      if 2 ^ q.logcap ≤ q.records.length then queueTrap 10 (s.partS p who.tick f.a) p.gang
      else .done (s.updHwq q.pasid q.desc fun q => { q with records := q.records ++ [r] })) s

/-- A queue without the record that a pop removes. -/
def HwQueue.without (q : HwQueue) (r : HwRecord) : HwQueue := { q with records := q.records.erase r }

/-- QPOP (R302). A push that went to the waiting stream has taken its place already. -/
def execQpop (f : KFields) (s : State) : Out :=
  s.issueParts (knotIssue f.h) fun p who s =>
    match (s.stream? p.sid).bind (·.popped) with
    | some r => .done ((s.updStream p.sid fun t => { t with popped := none }).setGroup p who f.d r)
    | none => hwqPart f (fun p who q s => match q.inOrder with
      | r :: _ => .done ((s.updHwq q.pasid q.desc fun q => q.without r).setGroup p who f.d r)
      | [] => .again { s with seq := s.seq + 1 } (.qpop q.desc s.seq)) p who s

/-- QTRY (R302). -/
def execQtry (f : KFields) (s : State) : Out :=
  hwqWord f (fun p who q s =>
    match q.inOrder with
    | r :: _ => .done (((s.updHwq q.pasid q.desc fun q => q.without r).setGroup p who f.d r).setS p who true f.b 1)
    | [] => .done (s.setS p who true f.b 0)) s

/-- QLEN (R302). -/
def execQlen (f : KFields) (s : State) : Out :=
  hwqWord f (fun p who q s => .done (s.setS p who true f.d (toWord q.records.length))) s

/-! SPAWN (R298). -/

/-- SPAWN (R298). -/
def execSpawn (f : KFields) (s : State) : Out :=
  s.issueParts (knotIssue f.h) fun p who s =>
    match s.launch? p.launch with
    | none => .done s
    | some x =>
      let n := (s.partS p who.tick f.a).toNat
      if n = 0 || 65536 < n || n % max 1 x.spl != 0 then queueTrap 12 0 p.gang
      else if 2 ^ 32 - 1 < x.gangs + n || x.aborting then queueTrap 13 0 p.gang
      else
        let s0 := s.partS p who.tick f.b
        .done ((s.updLaunch p.launch fun x =>
          { x with gangs := x.gangs + n, spawns := x.spawns ++ [({ first := x.gangs, count := n, s0 := s0, tick := s.ticks } : SpawnBatch)] }).setS
            p who true f.d (toWord x.gangs))

end Sys2Proof.Machine
end

