-- ==== Sys2Proof/Machine/Checkpoint.lean ====
section
/-! DEFINITION. Region checkpoints: CKMARK, CKTAKE, CKROLL and CKDROP, and the end of a rollback (R311 to R317). -/

namespace Sys2Proof.Machine

/-- A region's table entry replaced without writing its header. -/
def State.putRegion (s : State) (l i : Nat) (r : Region) : State := s.updLaunch l fun x => { x with regions := vset x.regions i r }

/-- Two byte ranges overlap. -/
def rangesMeet (a n b m : Nat) : Bool := decide (a < b + m) && decide (b < a + n)

/-- Why the pages of a range cannot be held: a translation fault; a page that is not writable coherent-device memory; or the guest holds a
line of the tables. -/
inductive PageFail where
  | fault (va : Word) (reason : Nat)
  | bad
  | held
  deriving DecidableEq, Repr

/-- The pages of a range, walked for a write (R316, R317). -/
def State.regionPages (s : State) (pasid : Nat) : List Nat → Except PageFail (List (Nat × Xlat))
  | [] => .ok []
  | p :: ps =>
    let a := toWord (p * 65536)
    if !canonical a then .error .bad
    else match s.translate none pasid (vaOf a) .store with
      | .error (.fault r) => .error (.fault a r)
      | .error .wait => .error .held
      | .error _ => .error .bad
      | .ok x => if x.kind != 0 then .error .bad
        else match s.regionPages pasid ps with
          | .ok xs => .ok ((p, x) :: xs)
          | e => e

/-- The range or log of a CKMARK whose pages cannot be held: a fault that replays, a wait, or a status. -/
def PageFail.res (e : PageFail) (s : State) (p : Part) (status : Res) : Res :=
  match e with
  | .fault a q => .fault a q 1 p.gang (memInfo 0 1 false false a.toNat)
  | .held => .again s .line
  | .bad => status

/-- The guest owns the header line of a region's log. -/
def State.headerOwned (s : State) (r : Region) : Bool := s.logOwned r [r.log]

/-- The VA pages that bytes [a, a + n) lie on. -/
def pagesOf (a n : Nat) : List Nat := (List.range ((a + n - 1) / 65536 + 1 - a / 65536)).map (a / 65536 + ·)

/-- The range and the log overlap, or one of them overlaps a marked region of the launch other than r (R316). -/
def Launch.rangesBad (x : Launch) (r base len log logLen : Nat) : Bool :=
  rangesMeet base len log logLen ||
    (List.range 16).any fun i =>
      let q := x.region i
      i != r && q.state != .unmarked &&
        (rangesMeet base len q.base q.len || rangesMeet base len q.log q.logLen || rangesMeet log logLen q.base q.len ||
          rangesMeet log logLen q.log q.logLen)

/-- A status in sD (R316). -/
def State.status (s : State) (p : Part) (who : Who) (d : BitVec 6) (n : Nat) : Res := .done (s.setS p who true d (toWord n))

/-- CKMARK (R315 to R317): statuses 3 and 5 first, then the lowest. -/
def execCkmark (f : KFields) (s : State) : Out :=
  s.issueParts (knotIssue f.h) fun p who s =>
    let rd := fun (r : BitVec 6) => s.partS p who.tick r
    let n := (rd f.d).toNat
    match s.launch? p.launch with
    | none => .done s
    | some x =>
      if 16 ≤ n then s.status p who f.d 1
      else
        let r := x.region n
        let base := (rd f.a).toNat
        let len := (rd (f.a + 1)).toNat
        let log := (rd f.b).toNat
        let logLen := (rd (f.b + 1)).toNat
        let pasid := x.pasid
        if r.state = .armed || r.state = .full then s.status p who f.d 3
        else if r.state = .rolling then s.status p who f.d 5
        else if len = 0 then (s.putRegion p.launch n Region.unmarked).status p who f.d 0
        else if base % 64 != 0 || len % 64 != 0 || 2 ^ 30 < len then s.status p who f.d 6
        else match s.regionPages pasid (pagesOf base len) with
          | .error e => e.res s p (s.status p who f.d 6)
          | .ok xs =>
            if log % 64 != 0 || logLen < 192 || (logLen - 64) % 128 != 0 || 64 * 2 ^ 20 < logLen then s.status p who f.d 7
            else match s.regionPages pasid (pagesOf log logLen) with
              | .error e => e.res s p (s.status p who f.d 7)
              | .ok ys =>
                let r : Region :=
                  { Region.unmarked with
                    state := .marked, base := base, len := len, log := log, logLen := logLen, cap := (logLen - 64) / 128
                    pages := (xs ++ ys).map fun y => (y.1, y.2.pa / 65536) }
                if x.rangesBad n base len log logLen then s.status p who f.d 8
                else if s.headerOwned r then .again s .line
                else (((xs ++ ys).foldl (fun s y => (s.noteHint y.2 pasid).markLeaf y.2 .store) s).setRegion p.launch n r).status p who f.d 0

/-- An instruction on a region by its number: status 1 above 15, 2 if it is not marked, else the effect. -/
def regionWord (f : KFields) (eff : Part → Who → Nat → Region → State → Res) (s : State) : Out :=
  s.issueParts (knotIssue f.h) fun p who s =>
    let n := (s.partS p who.tick f.a).toNat
    match s.launch? p.launch with
    | none => .done s
    | some x =>
      if 16 ≤ n then s.status p who f.d 1
      else if (x.region n).state = .unmarked then s.status p who f.d 2
      else if s.headerOwned (x.region n) then .again s .line
      else eff p who n (x.region n) s

/-- CKTAKE (R317). -/
def execCktake (f : KFields) (s : State) : Out :=
  regionWord f (fun p who n r s =>
    match r.state with
    | .armed | .full => s.status p who f.d 3
    | .rolling => s.status p who f.d 5
    | _ =>
      if r.stale then s.status p who f.d 6
      else (s.setRegion p.launch n { r with epoch := r.epoch + 1, count := 0, state := .armed, logged := [] }).status p who f.d 0) s

/-- CKDROP (R317). -/
def execCkdrop (f : KFields) (s : State) : Out :=
  regionWord f (fun p who n r s =>
    match r.state with
    | .rolling => s.status p who f.d 5
    | .armed | .full => (s.setRegion p.launch n { r with count := 0, state := .marked, logged := [] }).status p who f.d 0
    | _ => s.status p who f.d 4) s

/-- CKROLL (R317): the region rolls; the rollback engine does the rest. -/
def execCkroll (f : KFields) (s : State) : Out :=
  regionWord f (fun p who n r s =>
    match r.state with
    | .rolling => s.status p who f.d 5
    | .armed | .full =>
      let sa := s.partS p who.tick f.b
      match s.stampCheck (s.coreOf p.launch p.gang) (s.pasidOf p.launch) sa with
      | .error e => e.res s 1 sa p.gang
      | .ok (s, _) =>
        (s.setRegion p.launch n
          { r with state := .rolling, stampVa := sa, stampVal := s.partS p who.tick (f.b + 1), restored := false, parked := false }).status
          p who f.d 0
    | _ => s.status p who f.d 4) s

/-- The entries of a region's log: (PA of the line, its old bytes), those whose LVA the region translates (R312). -/
def State.logEntries (s : State) (r : Region) : List (Nat × List Byte) :=
  (List.range r.count).filterMap fun k =>
    let va := r.log + 64 + 128 * k
    match r.paOf va, r.paOf (va + 64) with
    | some a, some b => (r.paOf (lineOf (s.mem.nat b 8))).map fun pa => (pa, s.mem.read a 64)
    | _, _ => none

/-- The VAs of the lines that the entries name. -/
def State.logVas (s : State) (r : Region) : List Nat :=
  (List.range r.count).filterMap fun k => (r.paOf (r.log + 64 + 128 * k + 64)).map fun b => lineOf (s.mem.nat b 8)

/-- Every line of the entries takes its old bytes, unlogged (R313, R317); the records of a hardware queue under one become undefined
(R318). -/
def State.restoreLines (s : State) (pasid : Nat) (r : Region) : State :=
  (s.logVas r).foldl (fun s va => s.spoil pasid va)
    ((s.logEntries r).foldl (fun s e => s.storeLine none none true (cellsOf e.1 e.2)) s)

/-- The launch of a rollback that outlived it is forgotten (R322). -/
def State.forgetEnded (s : State) (l : Nat) : State :=
  { s with launches := s.launches.filter fun x => !(x.id == l && x.ended && x.regions.toList.all fun r => r.state != .rolling) }

/-- A rollback has ended: writes that it held go on, and waiting invalidations may. -/
def State.endRollback (s : State) (l : Nat) : State := (s.forgetEnded l).wakeHeld

/-- The stamp of a rollback whose lines are restored, from the region as it ends (R317, R381). -/
def State.rollStamp (s : State) (l i : Nat) (r : Region) : State :=
  let pasid := s.pasidOf l
  let pending := { r with state := .rolling, stale := r.state == .full, restored := true }
  let lost := fun (s : State) => (s.stampLost (Config.recordSrc s.seq i) .rollback pasid r.stampVa).endRollback l
  if r.stampVa = 0 then s.endRollback l
  else match s.stampWrite none pasid r.stampVa r.stampVal with
    | .ok s () => s.endRollback l
    | .held s => s.putRegion l i pending
    | .fault s va q k =>
      (s.addRecord
        { addr := va, src := Config.recordSrc s.seq i, pasid := pasid, reason := q, acc := k, skind := .rollback, cls := 1 }
        (.rollback l i)).putRegion l i { pending with parked := true }
    | .denied s => lost s
    | .bad s _ => lost s

/-- The state to which a rolling region returns: armed, or full if an invalidation covered it (R317). -/
def Region.after (r : Region) : Region :=
  { r with state := if r.stale then .full else .armed, stale := false, restored := false, parked := false }

/-- The region of a launch that has aborted or completed is dropped (R311). -/
def Launch.dropped (x : Launch) : Bool := x.aborting || x.ended

/-- The region that a rollback leaves, with its header; a dropped one is unmarked, its memory as it stands (R311; log 53). -/
def State.afterRoll (s : State) (x : Launch) (i : Nat) (r : Region) (header : Bool) : State :=
  if x.dropped then s.putRegion x.id i { r with state := .unmarked }
  else if header then s.setRegion x.id i r
  else s.putRegion x.id i r

/-- CKROLL_COMPLETE (R317): the lines are restored, the next epoch opens, and the stamp is written last. -/
def execCkrollComplete (l i : Nat) (s : State) : Out :=
  match s.launch? l with
  | none => .next s
  | some x =>
    let r := x.region i
    if r.state != .rolling || r.parked || 16 ≤ i then .next s
    else if r.restored then .next ((s.afterRoll x i r.after r.stale).rollStamp l i r.after)
    else if s.headerOwned r || (s.logEntries r).any fun e => s.guest.owned.contains e.1 then .next s
    else
      let s := s.restoreLines x.pasid r
      let r := { r.after with count := 0, epoch := r.epoch + 1, logged := [] }
      .next ((s.afterRoll x i r true).rollStamp l i r)

end Sys2Proof.Machine
end

