-- ==== Sys2Proof/Machine/Saves.lean ====
section
/-! DEFINITION. Gang records and splice records: what a save writes and a restore reads (R330 to R332, R334). -/

namespace Sys2Proof.Machine

/-- Zero bytes. -/
def zeros (n : Nat) : List Byte := List.replicate n 0

/-- The stream that a slot of gang k belongs to. -/
def streamAt (ts : List Stream) (k slot : Nat) : Option Stream := ts.find? fun t => vget t.slots slot none == some k

/-- A code that tells the waits apart, for WAITK's implementation-defined codes (R331). -/
def Wait.kind : Wait → Nat
  | .none => 0 | .knot _ _ => 1 | .watch _ _ _ => 2 | .yieldWatch _ _ _ _ => 3 | .spin _ => 4 | .yielded => 5 | .racq => 6
  | .qpop _ _ => 7 | .hwqMap _ => 8 | .rowLock => 9 | .pool _ _ => 10 | .memSlot _ => 11 | .regang _ _ => 12 | .fault _ => 13
  | .mwait => 14 | .answer => 15 | .pack _ => 16 | .line => 17 | .resize _ => 18 | .walk => 19

/-- A slot's byte of WAITK: 0 for no wait of R276. -/
def waitByte (t : Option Stream) : Byte :=
  match t with
  | none => 0
  | some t => if t.wait.waiting then Config.waitCode t.wait.kind else 0

/-- The PC a slot is saved with: its stream's, 0 once it has exited (log 15). -/
def slotPc (t : Option Stream) : Word := (t.map (·.pc)).getD 0

/-- A slot's byte of STREAM: the lowest slot of its stream, 0xFF exited (R331, log 15). -/
def streamByte (k : Nat) (t : Option Stream) : Byte :=
  match t with
  | none => 0xFF
  | some t => BitVec.ofNat 8 (t.lowSlot k)

/-- FLAGS of a control block (R331). -/
def Gang.flagsWord (g : Gang) : Word :=
  toWord ((if g.hm then 1 else 0) + (if g.xb then 2 else 0) + (if g.armed.isSome then 4 else 0) +
    ((List.range 16).filter fun i => (vget g.tiles i { kind := .f, words := Vector.replicate 1024 0 }).kind = .i).foldl
      (fun n i => n + 2 ^ (16 + i)) 0)

/-- The control block of a gang with its streams (R331). -/
def controlBlock (g : Gang) (ts : List Stream) : List Byte :=
  let at_ := streamAt ts g.idx
  let armed := g.armed.getD (0, 0)
  (List.range 8).flatMap (fun k => wordBytes (slotPc (at_ k))) ++ (List.range 8).map (fun k => streamByte g.idx (at_ k)) ++
    wordBytes g.flagsWord ++ wordBytes armed.1 ++ wordBytes armed.2 ++ wordBytes g.batch ++ wordBytes g.fflags ++ wordBytes g.seed ++
    wordBytes g.trapCause ++ wordBytes g.trapInfo ++ wordBytes g.trapPc ++ (List.range 8).map (fun k => waitByte (at_ k)) ++ zeros 104

/-- A vector register's 256 bytes. -/
def vregBytes (x : VReg) : List Byte := (List.range 32).flatMap fun l => wordBytes (lane x l)

/-- A tile's 4,096 bytes (R330). -/
def tileBytes (t : Tile) : List Byte := t.words.toList.flatMap fun w => leBytes 4 w.toNat

/-- The 32 bytes of an operand map; an unset map holds zeros (R330). -/
def OMap.bytes (m : OMap) : List Byte :=
  if m.isSet then wordBytes m.low ++ wordBytes m.high ++ leBytes 8 m.cursor.toNat ++ zeros 8 else zeros 32

/-- The pieces of a gang record as a save writes them, by offset: the waiter entries stand as they are (R277, R330). -/
def gangRecord (g : Gang) (ts : List Stream) (tiles : Nat) : List (Nat × List Byte) :=
  [(0, controlBlock g ts),
   (0x100, g.members.toList.flatMap fun m => wordBytes m.handle),
   (0x200, g.s.toList.flatMap wordBytes),
   (0x400, zeros 4 ++ (List.range 15).flatMap fun i => leBytes 4 (vget g.m (i + 1) 0).toNat),
   (0x440, g.om.toList.flatMap OMap.bytes),
   (0x540, g.codebook.toList.flatMap fun x => leBytes 2 x.toNat),
   (0x560, g.st.toList.flatMap fun x => leBytes 4 x.toNat),
   (0x5E0, g.members.toList.flatMap fun m => leBytes 4 m.agen.toNat ++ leBytes 4 (if m.av then 1 else 0)),
   (0x660, zeros 2464),
   (0x1000, (List.range 32).flatMap fun i => vregBytes (vget g.v i zeroV))] ++
    (if g.xb then [(0x3000, (List.range 32).flatMap fun i => vregBytes (vget g.v (32 + i) zeroV))] else []) ++
    (if tiles = 0 then [] else
      [(0x5000, (List.range tiles).flatMap fun i => tileBytes (vget g.tiles i { kind := .f, words := Vector.replicate 1024 0 }))])

/-- Pieces written from a base VA. -/
def State.writePieces (s : State) (pasid : Nat) (base : Word) (l : List (Nat × List Byte)) : EngineRes Unit :=
  l.foldl (fun acc x => acc.bind fun s () => s.engineWrite pasid (base + toWord x.1) x.2) (.ok s ())

/-- Scratchpad bytes of a splice as a save writes them, 64 KiB at a time. -/
def scratchPieces (sp : Splice) : List (Nat × List Byte) :=
  (List.range ((sp.size + 65535) / 65536)).map fun i => (65536 * i, sp.scratch.read (65536 * i) (min 65536 (sp.size - 65536 * i)))

/-- Bytes of a splice record (R332). -/
def spliceRecordBytes : Nat := 737280

/-- VA of splice record k of a pool (R332). -/
def spliceRecordVa (c : Context) (k : Nat) : Word := c.spool + toWord (spliceRecordBytes * k)

/-- Word i of some bytes. -/
def wordAt (bs : List Byte) (i : Nat) : Word := bytesWord ((bs.drop (8 * i)).take 8)

/-- A memory of bytes from 0 up. -/
def memoryOf (bs : List Byte) : Memory := Memory.write [] 0 bs

/-- The registers of a gang as its record gives them (R330, R331). What the record does not hold is as it was: whether a map
is set, the slices that entered a handler, deferred reports, remote stores under way. -/
def Gang.fromRecord (g : Gang) (r : Memory) (tiles : Nat) : Gang :=
  let flags := r.nat 72 8
  let vreg := fun a => byLane fun l => r.word (a + 8 * l)
  { g with
    s := vtab 64 fun i => r.word (0x200 + 8 * i)
    m := vtab 16 fun i => if i = 0 then vget g.m 0 0 else BitVec.ofNat 32 (r.nat (0x400 + 4 * i) 4)
    om := vtab 8 fun i =>
      let a := 0x440 + 32 * i
      { isSet := (vget g.om i { isSet := false, low := 0, high := 0, cursor := 0 }).isSet, low := r.word a, high := r.word (a + 8)
        cursor := BitVec.ofNat 32 (r.nat (a + 16) 4) }
    codebook := vtab 16 fun i => BitVec.ofNat 16 (r.nat (0x540 + 2 * i) 2)
    st := vtab 32 fun i => BitVec.ofNat 32 (r.nat (0x560 + 4 * i) 4)
    members := vtab 16 fun i =>
      { handle := r.word (0x100 + 8 * i), av := (r.get (0x5E0 + 8 * i + 4)).getLsbD 0, agen := BitVec.ofNat 32 (r.nat (0x5E0 + 8 * i) 4) }
    v := vtab 64 fun i =>
      if i < 32 then vreg (0x1000 + 256 * i)
      else if flags / 2 % 2 = 1 && g.xb then vreg (0x3000 + 256 * (i - 32)) else zeroV
    tiles := vtab 16 fun i =>
      if i < tiles then
        { kind := if flags / 2 ^ (16 + i) % 2 = 1 then .i else .f
          words := vtab 1024 fun e => BitVec.ofNat 32 (r.nat (0x5000 + 0x1000 * i + 4 * e) 4) }
      else vget g.tiles i { kind := .f, words := Vector.replicate 1024 0 }
    hm := flags % 2 = 1
    armed := if flags / 4 % 2 = 1 then some (r.word 80, r.word 88) else g.armed
    batch := r.word 96, fflags := r.word 104, seed := r.word 112, trapCause := r.word 120, trapInfo := r.word 128
    trapPc := r.word 136 }

/-- The pieces of a gang record that a restore reads: offset and length. -/
def recordPieces (xb : Bool) (tiles : Nat) : List (Nat × Nat) :=
  [(0, 0x660), (0x1000, 8192)] ++ (if xb then [(0x3000, 8192)] else []) ++ (if tiles = 0 then [] else [(0x5000, 4096 * tiles)])

/-- Pieces read from a base VA into a memory of offsets. -/
def State.readPieces (s : State) (pasid : Nat) (base : Word) (l : List (Nat × Nat)) : EngineRes Memory :=
  l.foldl (fun acc x => acc.bind fun s m => (s.engineRead pasid (base + toWord x.1) x.2).bind fun s bs =>
    .ok s (Memory.write m x.1 bs)) (.ok s [])

end Sys2Proof.Machine
end

