-- ==== Sys2Proof/Machine/Scheduler.lean ====
section
/-! DEFINITION. Launches, placement, the residency unit, evictions and restores (R278 to R281, R286 to R296, R303, R304, R322,
R332 to R335, R384). -/

namespace Sys2Proof.Machine

/-! Resources (R154, R158, R292). -/

/-- What a placement takes on a core: gang slots with their base blocks, extended blocks, tiles, scratchpad bytes. -/
structure Need where
  slots : Nat
  ext : Nat
  tiles : Nat
  scratch : Nat
  deriving DecidableEq, Repr

/-- The priority of a launch. -/
def State.prioOf (s : State) (l : Nat) : Nat := ((s.launch? l).map (·.prio)).getD 0

/-- Tiles that a gang of a launch declares. -/
def State.tilesOf (s : State) (l : Nat) : Nat := ((s.launch? l).map (·.tiles)).getD 0

/-- The gangs resident on a core. -/
def State.residents (s : State) (core : Nat) : List Gang := s.gangs.filter fun g => g.core == some core

/-- Free gang slots of a core. -/
def State.freeSlots (s : State) (core : Nat) : Nat := 16 - (s.residents core).length

/-- The gang is one of some. -/
def Gang.among (g : Gang) (l : List Gang) : Bool := l.any fun h => h.launch == g.launch && h.idx == g.idx

/-- Scratchpad bytes taken on a core once some gangs have left: a splice none of whose gangs stays leaves too. -/
def State.scratchWithout (s : State) (core : Nat) (gone : List Gang) : Nat :=
  ((s.splices.filter fun sp => sp.core == some core &&
      !(gone.any (fun g => g.launch == sp.launch && s.spliceOf g.launch g.idx == sp.idx) &&
        (s.residents core).all fun g => g.among gone || g.launch != sp.launch || s.spliceOf g.launch g.idx != sp.idx)).map (·.size)).sum

/-- Extended blocks of a core that are not free for a placement once some gangs have left: held, granted to absent gangs, or due to RACQ
streams that wait (R158). -/
def State.blocksTaken (s : State) (core : Nat) (gone : List Gang) : Nat :=
  (s.gangs.filter fun g => (g.core == some core && g.xb && !g.among gone) || (g.place.isNone && g.blockCore == some core)).length +
    ((s.blockWaiters core).map (·.2)).eraseDups.length

/-- A core has room for a need of a launch once some gangs have left, and the launch's resident limit permits it (R278,
R292). -/
def State.room (s : State) (core l : Nat) (n : Need) (gone : List Gang := []) : Bool :=
  let here := (s.residents core).filter fun g => !g.among gone
  let rlim := ((s.launch? l).map (·.rlim)).getD 0
  let res := (s.gangs.filter fun g => g.launch == l && g.place.isSome && !g.among gone).length
  decide (here.length + n.slots ≤ 16) && (n.ext == 0 || decide (s.blocksTaken core gone + n.ext ≤ 8)) &&
    decide ((here.map fun g => s.tilesOf g.launch).sum + n.tiles ≤ 64) &&
    decide (s.scratchWithout core gone + n.scratch ≤ 737280) && (rlim == 0 || decide (res + n.slots ≤ rlim))

/-- The splice has reserved the core, or is about to take it by pre-emption (R294, R296). -/
def WaitMark.holds (m : WaitMark) (core : Nat) : Bool := m.reserve == some core || m.preempt == some core

/-- Another splice has reserved the core (R294). -/
def State.reservedFor (s : State) (l sp core : Nat) : Bool := s.marks.any fun m => m.holds core && !(m.launch == l && m.splice == sp)

/-- A pre-emption is under way on the core (R297). -/
def State.preempting (s : State) (core : Nat) : Bool := s.marks.any fun m => m.preempt == some core

/-- The core of a list with the least key, the lowest number breaking ties. -/
def leastCore (key : Nat → Nat) (l : List Nat) : Option Nat :=
  l.foldl (fun b c => match b with
    | none => some c
    | some d => if key c < key d then some c else b) none

/-! Waiting splices and runnable gangs. -/

/-- Every stream of a gang waits, or is stopped (R276, R320). -/
def State.allWaiting (s : State) (g : Gang) : Bool := (s.streamsOf g.launch g.idx).all fun t => t.stopped || t.wait.waiting

/-- An eviction candidate (R276); the gangs of an aborting launch are killed, not evicted. -/
def State.candidate (s : State) (g : Gang) : Bool :=
  g.place.isSome && !(s.launch? g.launch).any (·.aborting) && !(s.streamsOf g.launch g.idx).isEmpty && s.allWaiting g

/-- An absent gang is runnable: it was saved with a stream that did not wait, or its last waiting stream has been released (R277,
R296). -/
def State.runnable (s : State) (g : Gang) : Bool :=
  g.place.isNone && !(s.streamsOf g.launch g.idx).isEmpty &&
    (g.awake || (s.streamsOf g.launch g.idx).all fun t => t.stopped || !t.wait.waiting) && !s.allWaiting g

/-- Splices of a launch. -/
def Launch.spliceCount (x : Launch) : Nat := x.gangs / max 1 x.spl

/-- The first gang that has never been placed, if any. -/
def Launch.firstNew (x : Launch) : Option Nat := if x.nextSplice < x.spliceCount then some (x.nextSplice * x.spl) else none

/-- The lowest-numbered unfinished gang of a launch (R280). -/
def State.lowestGang (s : State) (x : Launch) : Option Nat :=
  ((s.gangs.filter (·.launch == x.id)).map (·.idx) ++ x.firstNew.toList).foldl (fun b k => some (match b with
    | some m => min m k
    | none => k)) none

/-- The gang is the lowest-numbered unfinished one of its launch (R280, R287). -/
def State.isLowest (s : State) (l k : Nat) : Bool := ((s.launch? l).bind s.lowestGang) == some k

/-- The unfinished gangs of a splice. -/
def State.membersOf (s : State) (l sp : Nat) : List Gang := s.gangs.filter fun g => g.launch == l && s.spliceOf l g.idx == sp

/-- What a first placement of a splice takes (R292). -/
def Launch.need (x : Launch) : Need :=
  { slots := x.spl, ext := if x.xreg then x.spl else 0, tiles := x.spl * x.tiles, scratch := x.scr }

/-- What restoring a wholly absent splice takes; a block that a core has granted is not taken anew (R158). -/
def State.needBack (s : State) (l : Nat) (sp : Splice) : Need :=
  let gs := s.membersOf l sp.idx
  { slots := gs.length, ext := (gs.filter fun g => g.xb && g.blockCore.isNone).length, tiles := gs.length * s.tilesOf l, scratch := sp.size }

/-- The tick since which a gang that was never placed is absent (R287). -/
def Launch.bornAt (x : Launch) (k : Nat) : Nat :=
  ((x.spawns.find? fun b => decide (b.first ≤ k) && decide (k < b.first + b.count)).map (·.tick)).getD x.since

/-- s0 at the start of gang k (R157, R298). -/
def Launch.startS0 (x : Launch) (k : Nat) : Word :=
  ((x.spawns.find? fun b => decide (b.first ≤ k) && decide (k < b.first + b.count)).map (·.s0)).getD 0

/-! First placements (R155, R157, R303, R332). -/

/-- The n lowest free numbers below a count. -/
def lowestFree (used : List Nat) (count n : Nat) : List Nat :=
  ((List.range (min count (used.length + n))).filter fun k => !used.contains k).take n

/-- Gang records of a PASID in use. -/
def State.recordsUsed (s : State) (pasid : Nat) : List Nat := (s.gangs.filter fun g => s.pasidOf g.launch == pasid).map (·.record)

/-- Splice records of a PASID in use. -/
def State.spliceRecordsUsed (s : State) (pasid : Nat) : List Nat :=
  (s.splices.filter fun sp => s.pasidOf sp.launch == pasid).filterMap (·.record)

/-- sr_seed at a gang's start (R58). -/
def startSeed (g : Nat) : Word := toWord g * 0x9E3779B97F4A7C15#64

/-- A gang as it starts (R58, R63, R157, R170, R211). -/
def Gang.start (x : Launch) (k core slot record tick : Nat) : Gang :=
  let seed := startSeed k
  { launch := x.id, idx := k, place := some (core, slot), since := tick, evict := false, evictFor := none, record := record, xb := x.xreg
    blockCore := none, awake := false, bad := false, v := Vector.replicate 64 zeroV, s := vtab 64 fun i => if i = 0 then x.startS0 k else 0, m := Vector.replicate 16 0
    om := Vector.replicate 8 OMap.unset, tiles := Vector.replicate 16 Tile.zero, codebook := Vector.replicate 16 0
    st := vtab 32 (seedLane seed), fflags := 0, seed := seed, trapCause := 0, trapInfo := 0, trapPc := 0, hm := false, hmSlices := 0
    armed := none, batch := 0, members := Vector.replicate 16 Member.empty, exited := 0, tagBase := 0, tagExt := 0, tagScalar := 0
    pending := [], races := [], belay := [], sig := [], sb := [], deferred := [] }

/-- The whole stream of a gang as it starts (R247). -/
def Stream.start (x : Launch) (k sid : Nat) : Stream :=
  { sid := sid, launch := x.id, splice := k / max 1 x.spl, slots := Vector.replicate 8 (some k), pc := x.epc, wait := .none, unc := []
    rbCount := 0, rbPc := 0, careful := 0, spin := Spin.empty, stopped := false, claim := none, grant := none, operands := [], popped := none
    loading := false, saved := none, answers := [], walkFails := [], partsDone := [], doneLen := 0, watchDie := none, due := false }

/-- The lowest free gang slot of a core. -/
def State.freeSlot (s : State) (core : Nat) : Nat :=
  ((List.range 16).find? fun i => !((s.residents core).any fun g => g.place == some (core, i))).getD 16

/-- A gang placed for the first time. -/
def State.startGang (s : State) (x : Launch) (core k record : Nat) : State :=
  let n := s.nextSid
  { s with
    gangs := s.gangs ++ [Gang.start x k core (s.freeSlot core) record s.ticks]
    streams := s.streams ++ [Stream.start x k n], nextSid := n + 1 }

/-- A splice without marks. -/
def State.dropMark (s : State) (l sp : Nat) : State := { s with marks := s.marks.filter fun m => !(m.launch == l && m.splice == sp) }

/-- The mark of a splice. -/
def State.mark? (s : State) (l sp : Nat) : Option WaitMark := s.marks.find? fun m => m.launch == l && m.splice == sp

/-- No eviction for a splice goes on any more (R296). -/
def State.stopEvictions (s : State) (l sp : Nat) : State :=
  { s with
    gangs := s.gangs.map fun g =>
      if g.evict && (g.evictFor.any fun w => w.1 == l && s.spliceOf l w.2 == sp) then { g with evict := false, evictFor := none } else g }

/-- A splice is placed: its marks go, and with them a pre-emption that it had begun, on whichever core (R296). -/
def State.unmark (s : State) (l sp : Nat) : State :=
  (if (s.mark? l sp).any (·.preempt.isSome) then s.stopEvictions l sp else s).dropMark l sp

/-- Change the mark of a splice, made if there is none. -/
def State.updMark (s : State) (l sp : Nat) (f : WaitMark → WaitMark) : State :=
  let m := (s.mark? l sp).getD { launch := l, splice := sp, aged := 0, reserve := none, preempt := none, short := false }
  { s.dropMark l sp with marks := f m :: (s.dropMark l sp).marks }

/-- The gang records and the splice record that the next splice of a launch would receive (R332). -/
def State.newRecords (s : State) (x : Launch) : List Nat × List Nat :=
  let c := s.context x.pasid
  (lowestFree (s.recordsUsed x.pasid) c.gcnt x.spl, lowestFree (s.spliceRecordsUsed x.pasid) c.scnt 1)

/-- The next splice of a launch lacks a record (R332). -/
def State.lacksRecords (s : State) (x : Launch) : Bool :=
  decide ((s.newRecords x).1.length < x.spl) || (x.scr != 0 && (s.newRecords x).2.isEmpty)

/-- The next splice of a launch placed on a core; without free records it waits, counted once (R332). -/
def State.placeNew (s : State) (x : Launch) (core : Nat) : State × Bool :=
  let (recs, srecs) := s.newRecords x
  let sp := x.nextSplice
  if s.lacksRecords x then
    if (s.mark? x.id sp).any (·.short) then (s, false)
    else (((s.updMark x.id sp fun m => { m with short := true }).countHub x.pasid), false)
  else
    let s := s.unmark x.id sp
    let s :=
      { s with
        splices := s.splices ++ [({ launch := x.id, idx := sp, size := x.scr, scratch := [], badBlocks := [], core := some core
                                    record := if x.scr = 0 then none else srecs.head?, windows := [] } : Splice)] }
    let s := (recs.zip (List.range x.spl)).foldl (fun s r => s.startGang x core (sp * x.spl + r.2) r.1) s
    (((s.updLaunch x.id fun x => { x with nextSplice := sp + 1 }).wakeDie (dieOf core)).trimL1 core, true)

/-! Saves and restores (R332 to R334). -/

/-- The PC that an abort of a gang reports. -/
def State.gangPc (s : State) (l k : Nat) : Word := ((s.streamsOf l k).head?.map (·.pc)).getD 0

/-- A save or restore that fails ends the launch: cause 0x05, or 0x11 for a line in error (R327, R332; log 15). What it waits for comes
later. -/
def State.recordFailed (s : State) (l k : Nat) : EngineRes Unit → State
  | .ok s () => s
  | .held _ => s
  | .fault s _ _ _ => s.abortLaunch l k 5 (s.gangPc l k)
  | .denied s => s.abortLaunch l k 5 (s.gangPc l k)
  | .bad s line => (s.dataError l k line 0).abortLaunch l k 0x11 (s.gangPc l k)

/-- The scratchpad of a splice that is wholly absent, from its record (R155, R334). -/
def State.readScratch (s : State) (l sp : Nat) : EngineRes (Option Memory) :=
  match s.splice? l sp with
  | none => .ok s none
  | some x =>
    match x.core, x.record with
    | none, some k =>
      (s.readPieces (s.pasidOf l) (spliceRecordVa (s.context (s.pasidOf l)) k)
        ((scratchPieces x).map fun (y : Nat × List Byte) => (y.1, y.2.length))).bind fun s m => .ok s (some m)
    | _, _ => .ok s none

/-- An absent gang restored from its record into a free slot of a core; with the splice's first gang its scratchpad comes back, and ways
of the core's array leave the L1 for it (R154, R334). -/
def State.restoreGang (s : State) (l k core : Nat) : State :=
  match s.gang? l k with
  | none => s
  | some g =>
    let tiles := s.tilesOf l
    let sp := s.spliceOf l k
    let read := (s.readPieces (s.pasidOf l) (gangRecordVa (s.context (s.pasidOf l)) g.record) (recordPieces g.xb tiles)).bind fun s r =>
      (s.readScratch l sp).bind fun s m =>
        let slot := s.freeSlot core
        let s := s.updSplice l sp fun x => { x with core := some core, scratch := m.getD x.scratch }
        let s := s.updGang l k fun g =>
          { g.fromRecord r tiles with place := some (core, slot), since := s.ticks, blockCore := none, awake := false }
        let s := (s.streamsOf l k).foldl (fun (s : State) t =>
          s.updStream t.sid fun t =>
            { t with pc := if t.saved = some t.pc then r.word (8 * t.lowSlot k) else t.pc, saved := none }) s
        .ok ((s.wakeDie (dieOf core)).trimL1 core) ()
    s.recordFailed l k read

/-- The gangs of a wholly absent splice restored on a core, all of them or, while a line is held, none (R292, R384). -/
def State.restoreSplice (s : State) (l sp core : Nat) : State :=
  let s' := (s.membersOf l sp).foldl (fun s g => s.restoreGang l g.idx core) s
  if (s'.membersOf l sp).all fun g => g.place.isSome then s'.unmark l sp else s

/-- A stream that belongs to several gangs and waits splits before one of them is evicted (R258). -/
def State.splitWaiting (s : State) (l k : Nat) : State :=
  (s.streamsOf l k).foldl (fun s t => if 1 < t.homes.length then s.splitParts t else s) s

/-- The gang is the last of its splice on its core. -/
def State.lastOfSplice (s : State) (g : Gang) : Bool :=
  (s.membersOf g.launch (s.spliceOf g.launch g.idx)).all fun h => h.idx == g.idx || h.place.isNone

/-- Every stream of a gang but those that a trap has stopped, which exit with the handler's last slices (R321), is at a commit point, and its
next word, which the core's buffer holds, is an EXIT (R304). -/
def State.atExit (s : State) (g : Gang) : Bool :=
  let run := (s.streamsOf g.launch g.idx).filter fun t => !t.stopped
  !run.isEmpty && run.all fun t =>
    t.wait == .none && s.drained t && match g.core with
      | none => false
      | some c => match decode (s.codeBytes t c t.pc) with
        | .instr (.exit _) _ => true
        | _ => false

/-- Nothing that an eviction waits for is outstanding (R225, R258, R297, R333): a remote or I/O access, a P-branch window,
packed streams that run, matrix commands, and copies on the scratchpad of a splice that would leave whole. A gang that has exited, or is
about to, is not saved (R304). -/
def State.evictable (s : State) (g : Gang) : Bool :=
  !(s.launch? g.launch).any (·.aborting) && !(s.streamsOf g.launch g.idx).isEmpty && !s.atExit g &&
    ((s.streamsOf g.launch g.idx).all fun t =>
      t.wait != .answer && (match t.wait with | .pack _ => false | _ => true) && (decide (t.homes.length ≤ 1) || t.wait.waiting)) &&
    !(s.matCmds.any fun c => c.launch == g.launch && c.gang == g.idx) &&
    !(s.lastOfSplice g && s.copyOnSplice g.launch (s.spliceOf g.launch g.idx))

/-- A store-buffer entry for another device: it goes on while the gang is absent (R333). -/
def State.remoteEntry (s : State) (e : StoreEntry) : Bool :=
  match e.place with
  | .mem pa _ => paRange s.memMap pa == .remote
  | .scratch _ => false

/-- The scratchpad of a splice written to its record; a splice without a record keeps it in the core's store (log 15). -/
def State.saveScratch (s : State) (l sp : Nat) : EngineRes Unit :=
  match s.splice? l sp with
  | some x => match x.record with
    | some k => s.writePieces (s.pasidOf l) (spliceRecordVa (s.context (s.pasidOf l)) k) (scratchPieces x)
    | none => .ok s ()
  | none => .ok s ()

/-- The gang's state in memory, and the scratchpad if the splice leaves whole (R333 step 5). -/
def State.saveBytes (s : State) (g : Gang) : EngineRes Unit :=
  let l := g.launch
  let pasid := s.pasidOf l
  (s.writePieces pasid (gangRecordVa (s.context pasid) g.record) (gangRecord g (s.streamsOf l g.idx) (s.tilesOf l))).bind fun s () =>
    if s.lastOfSplice g then s.saveScratch l (s.spliceOf l g.idx) else .ok s ()

/-- A splice has no gang on its core any more: its gangs return anywhere, hold no entry of the core's pool, and ask again for what they wait
for there (R150, R225, R276; log 67). -/
def State.leaveCore (s : State) (l sp : Nat) : State :=
  { s.updSplice l sp fun x => { x with core := none } with
    streams := s.streams.map fun t =>
      if t.launch == l && t.splice == sp then
        { t with
          grant := none
          wait := match t.wait with
            | .pool _ _ | .rowLock => .none
            | w => w }
      else t }

/-- The slot, blocks and tiles of a saved gang are free, and the pool entry that it was granted (R225, R333 step 6). A stream whose wait is
none of R276's tries again when the gang returns; a plain YIELD is over (R261). -/
def State.vacate (s : State) (g : Gang) : State :=
  let l := g.launch
  let s := if s.lastOfSplice g then s.leaveCore l (s.spliceOf l g.idx) else s
  let s := s.countCore g.core 5 (s.pasidOf l) 1
  let goes := fun (t : Stream) => t.wait == .yielded || !t.wait.waiting
  let awake := (s.streamsOf l g.idx).any fun t => !t.stopped && goes t
  let s := s.updGang l g.idx fun g => { g with place := none, evict := false, evictFor := none, since := s.ticks, awake := awake }
  (s.streamsOf l g.idx).foldl (fun s t => s.updStream t.sid fun t =>
    { t with spin := { t.spin with count := 0 }, grant := none, saved := some t.pc, wait := if goes t then .none else t.wait }) s

/-- Every outstanding result of a gang has returned; a stale one is dropped and counted (R161, R162). -/
def State.settleGang (s : State) (l k : Nat) : State :=
  match s.gang? l k with
  | none => s
  | some g =>
    let lost := (g.pending.filter g.stale).length
    (if lost = 0 then s else s.countCore g.core 4 (s.pasidOf l) lost).updGang l k fun g => { g with pending := [] }

/-- What a stream at a row lock has executed commits, as far as its older stores are visible. -/
def State.commitWaiting (s : State) (t : Stream) : State :=
  t.unc.foldl (fun s _ => match s.stream? t.sid with
    | some t => s.commitStep t
    | none => s) s

/-- The streams of a gang whose oldest unperformed access a row lock holds, by their numbers (R109). -/
def State.lockedStreams (s : State) (l k : Nat) : List Nat := ((s.streamsOf l k).filter fun t => t.wait == .rowLock).map (·.sid)

/-- The streams of a gang at their commit points (R310): what a row lock's wait has behind it commits, the rest rolls back; a stream whose
oldest store is locked still waits for it (R109, R127). -/
def State.toCommitPoints (s : State) (l k : Nat) : State :=
  let locked := s.lockedStreams l k
  let s := (s.streamsOf l k).foldl (fun s t => if locked.contains t.sid then s.commitWaiting t else s) s
  (s.streamsOf l k).foldl (fun s t => s.flushCommitted t) (s.rollbackGang l k)

/-- A packed stream of the gang has a committed store that is not visible yet: it splits only after that (R102). -/
def State.unsplit (s : State) (l k : Nat) : Bool :=
  (s.streamsOf l k).any fun t => decide (1 < t.homes.length) && (s.storesOf t).any fun x => x.2.committed

/-- An ordinary eviction (R333): each stream to a commit point (R310), its committed stores visible but for what a row lock holds, which
goes on while the gang is absent (R109, R127), results returned, the state saved, the slot free. Nothing happens while something it waits
for is outstanding. -/
def State.evictGang (s : State) (l k : Nat) : State :=
  match s.gang? l k with
  | none => s
  | some g =>
    if g.place.isNone || !s.evictable g then s
    else
      let s := s.toCommitPoints l k
      let s := if s.unsplit l k then s else s.splitWaiting l k
      match s.gang? l k with
      | none => s
      | some g =>
        if s.unsplit l k || g.sb.any fun e => !s.remoteEntry e && (s.lastOfSplice g || !(s.lockedStreams l k).contains e.sid) then s
        else
          let s := (s.settleGang l k).updGang l k fun g => { g with sig := [] }
          match s.gang? l k with
          | none => s
          | some g => s.recordFailed l k ((s.saveBytes g).bind fun s () => .ok (s.vacate g) ())

/-- A gang is chosen for eviction at its next commit point, for another or none; it is evicted at once if it can be. -/
def State.chooseEvict (s : State) (g : Gang) (for' : Option (Nat × Nat)) : State :=
  (s.updGang g.launch g.idx fun g => { g with evict := true, evictFor := for' }).evictGang g.launch g.idx

/-! Placement decisions (R293, R294, R384). -/

/-- The cores on which a splice could be placed without an eviction: those not reserved for another that it fits (R293, R384). -/
def State.openCores (s : State) (l sp : Nat) (n : Need) : List Nat :=
  (List.range 256).filter fun c => !s.reservedFor l sp c && s.coreAllowed l c && s.backAllowed l sp c && s.room c l n

/-- The core that R293 chooses for a splice: its reserved core as soon as it fits there; without a reservation the one with the fewest
free slots, as for a splice that comes back and does not fit the core it reserves (R384). -/
def State.bestCore (s : State) (l sp : Nat) (n : Need) (back : Bool) : Option Nat :=
  let cores := s.openCores l sp n
  match (s.mark? l sp).bind (·.reserve) with
  | some c => if cores.contains c then some c else if back then leastCore s.freeSlots cores else none
  | none => leastCore s.freeSlots cores

/-- An aged splice without a reservation reserves the core with the most free slots (R294). -/
def State.reserve (s : State) (l sp : Nat) : State :=
  match s.mark? l sp with
  | none => s
  | some m =>
    if m.reserve.isSome || m.aged = 0 then s
    else match leastCore (fun c => 16 - s.freeSlots c) ((List.range 256).filter fun c =>
        m.aged.getLsbD (dieOf c) && s.coreAllowed l c && !s.marks.any (·.holds c)) with
      | some c => s.updMark l sp fun m => { m with reserve := some c }
      | none => s

/-- Wholly absent splices of a launch, placed before, that have a runnable gang, by index. -/
def State.absentSplices (s : State) (l : Nat) : List Splice :=
  sortBy (fun (a b : Splice) => decide (a.idx ≤ b.idx))
    (s.splices.filter fun sp => sp.launch == l && sp.core.isNone && (s.membersOf l sp.idx).any s.runnable)

/-- A wholly absent splice is restored on the core that R384 chooses, or reserves one. -/
def State.placeBack (s : State) (l : Nat) (sp : Splice) : State :=
  match s.bestCore l sp.idx (s.needBack l sp) true with
  | some c => s.restoreSplice l sp.idx c
  | none => s.reserve l sp.idx

/-- The launch's splices that were never placed, in order, as long as they fit (R293). -/
def State.placeFirst (s : State) (l : Nat) : Nat → State
  | 0 => s
  | fuel + 1 => match s.launch? l with
    | none => s
    | some x =>
      if x.spliceCount ≤ x.nextSplice || x.aborting then s
      else match s.bestCore l x.nextSplice x.need false with
        | none => s.reserve l x.nextSplice
        | some c => match s.placeNew x c with
          | (s, true) => s.placeFirst l fuel
          | (s, false) => s.reserve l x.nextSplice

/-- The splices of one launch at a decision, in index order; those passed over may reserve (R293, R294). -/
def State.placeLaunch (s : State) (l : Nat) : State :=
  let s := (s.absentSplices l).foldl (fun s sp => s.placeBack l sp) s
  let s := s.placeFirst l 4097
  let next := ((s.launch? l).map (·.nextSplice)).getD 0
  (sortNat ((s.marks.filter fun (m : WaitMark) => m.launch == l && decide (next < m.splice)).map (·.splice))).foldl (fun s sp => s.reserve l sp) s

/-- The launches in the waiting order (R293). -/
def State.byPriority (s : State) : List Launch :=
  sortBy (fun (a b : Launch) => decide (b.prio < a.prio) || (a.prio == b.prio && decide (a.id ≤ b.id)))
    (s.launches.filter fun x => !x.aborting && !x.ended)

/-- Splices none of whose gangs is unfinished and whose scratchpad no command needs are gone (R263). -/
def State.dropSplices (s : State) : State :=
  { s with splices := s.splices.filter fun sp => !(s.membersOf sp.launch sp.idx).isEmpty || s.copyOnSplice sp.launch sp.idx }

/-- One placement decision. -/
def State.placements (s : State) : State := s.byPriority.foldl (fun s x => s.placeLaunch x.id) s.dropSplices

/-- SPLICE_AGED (R294): a waiting splice is aged with respect to a die; a decision follows. -/
def execSpliceAged (l sp die : Nat) (s : State) : Out :=
  match s.launch? l with
  | none => .next s
  | some x =>
    let waits := (decide (x.nextSplice ≤ sp) && decide (sp < x.spliceCount)) || (s.absentSplices l).any fun y => y.idx == sp
    if !waits || 2 ≤ die then .next s
    else .next ((s.updMark l sp fun m => { m with aged := m.aged ||| (1#2 <<< die) }).placements)

/-- The gangs of lower priority on a core, in the order in which they are evicted (R296). -/
def State.victims (s : State) (l core : Nat) : List Gang :=
  sortBy (fun (a b : Gang) =>
      decide (s.prioOf a.launch < s.prioOf b.launch) || (s.prioOf a.launch == s.prioOf b.launch && decide (b.idx ≤ a.idx)))
    ((s.residents core).filter fun g => decide (s.prioOf g.launch < s.prioOf l))

/-- How many of the victims must leave for a need to fit. -/
def State.victimCount (s : State) (l core : Nat) (n : Need) : Option Nat :=
  let vs := s.victims l core
  (List.range (vs.length + 1)).find? fun k => s.room core l n (vs.take k)

/-- What the placing of a waiting splice takes: of the next of its launch, or of one wholly absent (R292, R384). -/
def State.waitNeed (s : State) (x : Launch) (sp : Nat) : Option Need :=
  if sp = x.nextSplice && sp < x.spliceCount then some x.need
  else ((s.absentSplices x.id).find? fun y => y.idx == sp).map fun y => s.needBack x.id y

/-- A waiting splice placed on a core that it fits. -/
def State.placeOn (s : State) (x : Launch) (sp core : Nat) : State :=
  if sp = x.nextSplice then (s.placeNew x core).1 else s.restoreSplice x.id sp core

/-- The pre-emption of a core is over: its gangs issue again, and no eviction for it goes on (R296). -/
def State.endPreemption (s : State) (l sp : Nat) : State :=
  (if (s.mark? l sp).isSome then s.updMark l sp fun m => { m with preempt := none } else s).stopEvictions l sp

/-- A pre-emption begins on a core: its gangs issue nothing from now on, and each rolls back to a commit point (R297). -/
def State.beginPreemption (s : State) (l sp core : Nat) : State :=
  ((s.residents core).foldl (fun s g => s.rollbackGang g.launch g.idx) s).updMark l sp fun m => { m with preempt := some core }

/-- A pre-emption goes on (R296): the splice is placed as soon as it fits; until then gangs of lower priority are evicted one by one, each
at its commit point. -/
def State.preemptSplice (s : State) (l sp core : Nat) : Nat → State
  | 0 => s
  | fuel + 1 =>
    match (s.launch? l).bind fun x => (s.waitNeed x sp).map fun n => (x, n) with
    | none => s.endPreemption l sp
    | some (x, n) =>
      if s.room core l n then (s.endPreemption l sp).placeOn x sp core
      else match s.victims l core with
        | [] => s.endPreemption l sp
        | v :: _ =>
          let s := if v.evict then s.evictGang v.launch v.idx else s.chooseEvict v (some (l, sp * x.spl))
          if (s.coreOf v.launch v.idx).isSome then s else s.preemptSplice l sp core fuel

/-- The pre-emptions of a core go on. -/
def State.preemptCore (s : State) (core : Nat) : State :=
  (s.marks.filter fun m => m.preempt == some core).foldl (fun s m => s.preemptSplice m.launch m.splice core 17) s

/-- PLACEMENT_DECISION (R293, R384): with slots or resources freed, pre-emptions under way may come to an end first. -/
def execPlacementDecision (s : State) : Out :=
  .next ((s.marks.filterMap (·.preempt)).foldl State.preemptCore s).placements

/-- A splice may take the core by pre-emption: no splice of its priority or a higher one has reserved it (R294). -/
def State.mayPreempt (s : State) (l sp core : Nat) : Bool :=
  s.coreAllowed l core && s.backAllowed l sp core &&
    s.marks.all fun m => !m.holds core || (m.launch == l && m.splice == sp) || decide (s.prioOf m.launch < s.prioOf l)

/-- SPLICE_PREEMPTION (R295, R296): a waiting splice that fits no core, and has waited the PDELAY of the dies named, takes the core of
those dies that needs the fewest evictions. -/
def execSplicePreemption (l : Nat) (a : PreemptingSplice) (s : State) : Out :=
  match (s.launch? l).filter fun x => !x.aborting && !x.ended with
  | none => .next s
  | some x =>
    match s.waitNeed x a.splice with
    | none => .next s
    | some n =>
      if ((s.mark? l a.splice).bind (·.preempt)).isSome || (List.range 256).any fun c => s.coreAllowed l c && s.room c l n then .next s
      else match leastCore (fun c => ((s.victimCount l c n).getD 17)) ((List.range 256).filter fun c =>
          a.dies.getLsbD (dieOf c) && s.mayPreempt l a.splice c && (s.victimCount l c n).isSome) with
        | none => .next s
        | some c => .next ((s.beginPreemption l a.splice c).preemptSplice l a.splice c 17)

/-! The residency unit (R278 to R280, R287, R303, R304). -/

/-- An absent gang that a residency unit may bring: one saved, or the first of a launch never placed (R303). -/
structure Absent where
  launch : Nat
  idx : Nat
  prio : Nat
  since : Nat
  need : Need
  home : Option Nat
  fresh : Bool
  deriving DecidableEq, Repr

/-- The absent runnable gangs that residency units may place (R278, R303): their splice is partly resident or of one gang. A gang returns
to the core that granted it a block (R276). One that waits for a record is left out once that has been counted (R332). -/
def State.absents (s : State) : List Absent :=
  let saved := (s.gangs.filter s.runnable).filterMap fun g =>
    match s.splice? g.launch (s.spliceOf g.launch g.idx), s.launch? g.launch with
    | some sp, some x =>
      let base : Absent :=
        { launch := g.launch, idx := g.idx, prio := x.prio, since := g.since, home := if g.blockCore.isSome then g.blockCore else sp.core
          fresh := false, need := { slots := 1, ext := if g.xb && g.blockCore.isNone then 1 else 0, tiles := x.tiles, scratch := 0 } }
      if x.aborting then none
      else if sp.core.isSome then some base
      else if x.spl = 1 then some { base with need := { base.need with scratch := sp.size } }
      else none
    | _, _ => none
  let new := (s.launches.filter fun x => x.spl == 1 && !x.aborting && !x.ended &&
      !(s.lacksRecords x && (s.mark? x.id x.nextSplice).any (·.short))).filterMap fun x => x.firstNew.map fun k =>
    ({ launch := x.id, idx := k, prio := x.prio, since := x.bornAt k, need := x.need, home := (s.mark? x.id x.nextSplice).bind (·.reserve)
       fresh := true } : Absent)
  sortBy (fun (a b : Absent) =>
      decide (b.prio < a.prio) || (a.prio == b.prio && (decide (a.launch < b.launch) || (a.launch == b.launch && decide (a.idx ≤ b.idx)))))
    (saved ++ new)

/-- The splice of an absent gang. -/
def State.spliceIdx (s : State) (a : Absent) : Nat := s.spliceOf a.launch a.idx

/-- A core may take an absent gang, room aside (R278, R294, R334, R384): the one it is bound to, or for a one-gang splice an
unreserved core, and the one of R384 where the gang fits some core without eviction. -/
def State.admits (s : State) (core : Nat) (a : Absent) : Bool :=
  s.coreAllowed a.launch core && !s.preempting core &&
    match a.home with
    | some c => c == core
    | none => !s.reservedFor a.launch (s.spliceIdx a) core &&
      match s.bestCore a.launch (s.spliceIdx a) a.need true with
      | some c => c == core
      | none => true

/-- A resident gang that R279, R280 or R287 may evict for an absent one: of its launch or of lower priority; a candidate, or not the
lowest-numbered unfinished gang of its launch. -/
def State.mayLeaveFor (s : State) (v : Gang) (a : Absent) : Bool :=
  (v.launch == a.launch || decide (s.prioOf v.launch < a.prio)) && (s.candidate v || !s.isLowest v.launch v.idx)

/-- The best of some gangs: the lowest priority, then the highest index (R279). -/
def State.lowestClaim (s : State) (l : List Gang) : Option Gang :=
  l.foldl (fun b g => match b with
    | none => some g
    | some h =>
      if s.prioOf g.launch < s.prioOf h.launch || s.prioOf g.launch == s.prioOf h.launch && decide (h.idx < g.idx) then some g else b) none

/-- A core has room for an absent gang once a resident one has left; the scratchpad that it needs is free now (R278). -/
def State.roomAfter (s : State) (core : Nat) (a : Absent) (v : Gang) : Bool :=
  decide (s.scratchUse core + a.need.scratch ≤ 737280) && s.room core a.launch a.need [v]

/-- The absent gangs eligible for a core, in the order of R279, for which no eviction is under way. -/
def State.eligible (s : State) (core : Nat) : List Absent :=
  s.absents.filter fun a => s.admits core a &&
    (s.room core a.launch a.need || (s.residents core).any fun v => s.mayLeaveFor v a && s.roomAfter core a v) &&
    !s.gangs.any fun g => g.evict && g.evictFor == some (a.launch, a.idx)

/-- An absent gang placed on a core that has room for it. -/
def State.bring (s : State) (core : Nat) (a : Absent) : State :=
  if !s.room core a.launch a.need then s
  else if a.fresh then match s.launch? a.launch with
    | some x => (s.placeNew x core).1
    | none => s
  else
    let s := s.restoreGang a.launch a.idx core
    if (s.coreOf a.launch a.idx).isSome then s.unmark a.launch (s.spliceIdx a) else s

/-- The gang for which an eviction was chosen is brought to the core (R279, R287, R304). -/
def State.bringChosen (s : State) (core : Nat) (who : Option (Nat × Nat)) : State :=
  match who with
  | none => s
  | some (l, k) => match s.absents.find? fun a => a.launch == l && a.idx == k with
    | some a => if a.home.isNone || a.home == some core then s.bring core a else s
    | none => s

/-- A victim is evicted for an absent gang, which takes its place at once if the victim could leave. -/
def State.swap (s : State) (core : Nat) (v : Gang) (a : Absent) : State :=
  let s := s.chooseEvict v (some (a.launch, a.idx))
  match s.gang? v.launch v.idx with
  | some g => if g.place.isSome then s else s.bringChosen core (some (a.launch, a.idx))
  | none => s

/-- The candidate that R279 takes for an absent gang. -/
def State.candidateFor (s : State) (core : Nat) (a : Absent) : Option Gang :=
  s.lowestClaim ((s.residents core).filter fun v => s.candidate v && !v.evict && s.mayLeaveFor v a && s.roomAfter core a v)

/-- A core of lower number could admit by swap a gang that is bound to no core: it decides first (R384). -/
def State.swapsBefore (s : State) (core : Nat) (a : Absent) : Bool :=
  a.home.isNone && (List.range core).any fun c => s.admits c a && (s.candidateFor c a).isSome

/-- The victim of R280 for a launch's lowest gang, when no core has a candidate for it: the resident gang of highest index of the launch
on a core where that gang is eligible. -/
def State.guardVictim (s : State) (a : Absent) : Option (Nat × Gang) :=
  ((List.range 256).flatMap fun c =>
    if s.admits c a then ((s.residents c).filter fun v => v.launch == a.launch && !v.evict && s.roomAfter c a v).map fun v => (c, v)
    else []).foldl (fun b x => match b with
      | none => some x
      | some y => if y.2.idx < x.2.idx then some x else b) none

/-- R280 on one core for a launch's lowest-numbered unfinished gang that is runnable and absent: it takes a free slot, else a
candidate's, else that of the gang of its launch of highest index. -/
def State.guardGang (s : State) (core : Nat) (a : Absent) : State :=
  let fits := fun c => s.admits c a && s.room c a.launch a.need
  let mayTake := fun c => s.admits c a && (s.candidateFor c a).isSome
  if fits core then s.bring core a
  else if (List.range 256).any fits then s
  else if mayTake core && !s.swapsBefore core a then match s.candidateFor core a with
    | some v => s.swap core v a
    | none => s
  else if (List.range 256).any mayTake then s
  else match s.guardVictim a with
    | some (c, v) => if c = core then s.swap core v a else s
    | none => s

/-- R280 on one core: every launch whose lowest gang is runnable and absent, and for which no eviction is under way. -/
def State.guard (s : State) (core : Nat) : State :=
  s.absents.foldl (fun s a =>
    if s.isLowest a.launch a.idx && !s.gangs.any fun g => g.evict && g.evictFor == some (a.launch, a.idx) then s.guardGang core a
    else s) s

/-- A candidate that holds an extended block leaves for a waiting RACQ of its launch or of higher priority (R158): of several the one of the
lowest priority, then the highest index (log 63). -/
def State.freeBlockFor (s : State) (core : Nat) : State :=
  let ws := s.blockWaiters core
  let leaving := ((s.residents core).filter fun v => v.xb && v.evict).length
  if ws.isEmpty || s.blocksUsed core < 8 + leaving then s
  else match s.lowestClaim ((s.residents core).filter fun v => v.xb && s.candidate v && !v.evict &&
      ws.any fun w => v.launch == w.2.1 || decide (s.prioOf v.launch < w.1)) with
    | some v => s.chooseEvict v none
    | none => s

/-- Streams of a core's gangs that offered their slots go on (R261). -/
def State.endOffers (s : State) (core : Nat) : State :=
  s.wake fun t => t.wait == Wait.yielded && (t.homes.any fun k => s.coreOf t.launch k == some core)

/-- One decision of R279, and R280 where it places and swaps nothing. -/
def State.residency (s : State) (core : Nat) : State :=
  match s.eligible core with
  | [] => s
  | a :: _ =>
    if s.room core a.launch a.need then s.bring core a
    else match s.candidateFor core a with
      | some v => if s.swapsBefore core a then s.guard core else s.swap core v a
      | none => s.guard core

/-- RESIDENCY_DECISION (R279, R280). A core that a splice is taking by pre-emption decides nothing (R297). -/
def execResidencyDecision (core : Nat) (s : State) : Out :=
  if s.preempting core then .next s else .next (((s.freeBlockFor core).residency core).endOffers core)

/-- What follows on a core when a gang has left it: the pre-emption under way goes on, or the gang for which it left comes (R296, R304). -/
def State.afterLeave (s : State) (core : Nat) (who : Option (Nat × Nat)) : State :=
  if s.preempting core then s.preemptCore core else s.bringChosen core who

/-- GANG_EVICTION (R333): a chosen gang leaves at its commit point; the gang it was chosen for comes (R304). -/
def execGangEviction (l k : Nat) (s : State) : Out :=
  match s.gang? l k with
  | none => .next s
  | some g =>
    match g.place with
    | none => .next s
    | some (core, _) =>
      if !g.evict then .next s
      else
        let s := s.evictGang l k
        if (s.coreOf l k).isSome then .next s else .next (s.afterLeave core g.evictFor)

/-- FAIRNESS_ROTATION (R287): of the launch or of lower priority, the gang resident longest leaves, for the eligible gang of highest
priority that has been absent longest. -/
def execFairnessRotation (core l : Nat) (s : State) : Out :=
  let el := s.eligible core
  if s.preempting core || !(el.any fun a => a.launch == l && (s.candidateFor core a).isNone) then .next s
  else
    let pool := (s.residents core).filter fun v =>
      (v.launch == l || decide (s.prioOf v.launch < s.prioOf l)) && !v.evict && !s.isLowest v.launch v.idx
    let victim := pool.foldl (fun (b : Option Gang) g => match b with
      | none => some g
      | some h =>
        if g.since < h.since || g.since == h.since &&
            (decide (s.prioOf g.launch < s.prioOf h.launch) || s.prioOf g.launch == s.prioOf h.launch && decide (h.idx < g.idx)) then some g
        else b) none
    match victim with
    | none => .next s
    | some v =>
      let inc := (el.filter fun a => s.roomAfter core a v).foldl (fun (b : Option Absent) a => match b with
        | none => some a
        | some c =>
          if c.prio < a.prio || a.prio == c.prio && (decide (a.since < c.since) || a.since == c.since && decide (a.idx < c.idx)) then some a
          else b) none
      match inc with
      | none => .next (s.chooseEvict v none)
      | some a => .next (s.swap core v a)

/-! Ends. -/

/-- A stream that stands for the buffered stores of one that has ended (R321). -/
def ghostOf (g : Gang) (sid : Nat) : Stream :=
  { sid := sid, launch := g.launch, splice := 0, slots := Vector.replicate 8 (some g.idx), pc := 0, wait := .none, unc := [], rbCount := 0
    rbPc := 0, careful := 0, spin := Spin.empty, stopped := false, claim := none, grant := none, operands := [], popped := none
    loading := false, saved := none, answers := [], walkFails := [], partsDone := [], doneLen := 0, watchDie := none, due := false }

/-- A finished gang whose stores are visible leaves its knots, as soon as no line that this writes is held, and what it held is free (R263,
R270); the scratchpad is saved if the rest of its splice is absent (R333). -/
def State.finishGang (s : State) (g : Gang) : State :=
  let l := g.launch
  let k := g.idx
  let sp := s.spliceOf l k
  let last := (s.membersOf l sp).any (·.idx != k) && g.place.isSome && s.lastOfSplice g
  let s := (s.settleGang l k).leaveAll g
  if !s.hasLeft g || last && s.copyOnSplice l sp then s
  else s.recordFailed l k ((if last then s.saveScratch l sp else .ok s ()).bind fun s () =>
    let s := if last then s.leaveCore l sp else s
    let s := { s with gangs := s.gangs.filter fun h => !(h.launch == l && h.idx == k) }
    let s := (s.updLaunch l fun x => { x with finished := x.finished + 1 }).dropSplices
    .ok (match g.place with
      | some (core, _) => s.afterLeave core g.evictFor
      | none => s) ())

/-- GANG_FINISH (R263, R304): a gang whose slices have all exited drains its stores and results, waits for its matrix commands,
leaves its knots and frees what it held. A gang of an aborting launch goes once its committed stores are visible (R322). -/
def execGangFinish (l k : Nat) (s : State) : Out :=
  match s.gang? l k with
  | none => .next s
  | some g =>
    if (s.launch? l).any (·.aborting) then
      .next (((s.streamsOf l k).foldl (fun s t => s.flushCommitted t) s).reapLaunch l)
    else if !(s.streamsOf l k).isEmpty || s.matCmds.any (fun c => c.launch == l && c.gang == k) then .next s
    else match g.sb with
      | e :: _ => .next (s.storeStep (ghostOf g e.sid))
      | [] => .next (s.finishGang g)

/-- Reason 5 of R290: a field of a launch packet that breaks its range. -/
def launchBad (p : Packet) : Bool :=
  let spl := bits (pktWord p 5) 39 32
  let scr := bits (pktWord p 6) 63 32
  let rlim := bits (pktWord p 6) 31 0
  let prio := bits (pktWord p 5) 63 56
  let tiles := bits (pktWord p 5) 55 48
  let xreg := bits (pktWord p 5) 47 40
  let epc := pktWord p 3
  let hpc := pktWord p 7
  let g := pktLen p
  bits (pktWord p 0) 31 24 != 0 || field (pktFlags p) 6 2 != 0 || field (pktAsp p) 7 2 != 0 || (pktSadr p).toNat % 8 != 0 ||
    bits (pktWord p 5) 31 0 != 0 || spl == 0 || decide (16 < spl) || g == 0 || g % max 1 spl != 0 || scr % 256 != 0 || decide (737280 < scr) ||
    decide (64 ≤ prio) || decide (16 < tiles) || decide (2 ≤ xreg) || epc.getLsbD 0 || !canonical epc ||
    (hpc != 0 && (hpc.getLsbD 0 || !canonical hpc)) || decide (64 < spl * tiles) || (xreg == 1 && decide (8 < spl)) ||
    (rlim != 0 && decide (rlim < spl))

/-- The launch that a packet creates. -/
def launchOf (s : State) (q : MemQueue) (slot : Nat) (p : Packet) : Launch :=
  { id := s.nextLaunch, pasid := q.pasid, queue := q.hdr, slot := slot, epc := pktWord p 3, hpc := pktWord p 7, args := pktWord p 4
    scr := bits (pktWord p 6) 63 32, rlim := bits (pktWord p 6) 31 0, prio := bits (pktWord p 5) 61 56, tiles := bits (pktWord p 5) 52 48
    xreg := (pktWord p 5).getLsbD 40, spl := bits (pktWord p 5) 39 32, gangs := pktLen p, since := s.ticks, nextSplice := 0, finished := 0
    spawns := [], regions := Vector.replicate 16 Region.unmarked, aborting := false, ended := false }

/-- LAUNCH_PACKET (R289, R290): the front end checks the packets of a launch queue in slot order and creates launches. A stamp address
that is not canonical lies outside every capability (R344; log 28). -/
def execLaunchPacket (pasid hdr slot : Nat) (s : State) : Out :=
  match (s.queue? pasid hdr).filter (·.engine == .launch) with
  | none => .next s
  | some q =>
    match q.begun.find? (·.slot == slot) with
    | none => .next s
    | some w =>
      let before := q.begun.takeWhile (·.slot != slot)
      if q.err || w.progress != 0 || w.parked || w.rejected.isSome || before.any (fun b => b.progress == 0 || b.rejected.isSome) then .next s
      else
        let reject := fun r => (s.updQueue q.pasid q.hdr fun q => q.updWork slot fun w => { w with rejected := some r })
        if pktAsp w.words != 0 then .next (reject 6)
        else if launchBad w.words then .next (reject 5)
        else if pktFlags w.words % 2 == 1 && !canonical (pktSadr w.words) then .next (reject 14)
        else if !(s.context q.pasid).valid then .next (reject 8)
        else
          let s := s.updQueue q.pasid q.hdr fun q => q.updWork slot fun w => { w with progress := 1 }
          .next { s with launches := s.launches ++ [launchOf s q slot w.words], nextLaunch := s.nextLaunch + 1 }

/-- LAUNCH_COMPLETE (R291, R322): every gang has finished, or the launch has aborted and its last gang has gone; its region table is
dropped and its stamp, or the error stamp, follows in slot order. -/
def execLaunchComplete (l : Nat) (s : State) : Out :=
  match s.launch? l with
  | none => .next s
  | some x =>
    if x.ended || !(if x.aborting then !s.gangs.any (·.launch == l) else decide (x.gangs ≤ x.finished)) then .next s
    else
      let s := (s.updLaunch l fun x => { x with ended := true, regions := x.dropRegions }).forgetEnded l
      let s := { s with marks := s.marks.filter (·.launch != l) }
      let s := s.dropSplices
      let s := s.updQueue x.pasid x.queue fun q => q.updWork x.slot fun w =>
        { w with done := true, words := if x.aborting then vset w.words 2 errorStamp else w.words }
      match s.queue? x.pasid x.queue with
      | some q => .next (s.completeSlot q x.slot)
      | none => .next s

/-- LAUNCH_KILL (R322): system software kills a launch. The record names the lowest unfinished gang and REASON 0
(log 16). -/
def execLaunchKill (l : Nat) (s : State) : Out :=
  match s.launch? l with
  | none => .next s
  | some x =>
    if x.aborting || x.ended then .next s
    else
      let k := (s.lowestGang x).getD 0
      .next (s.abortLaunch l k 0 (((s.gang? l k).map (·.trapPc)).getD 0))

/-- A register that a dropped result was to write keeps, in the rows of the result, the value before it (R161). -/
def Gang.unwrite (g : Gang) (p : Pending) : Gang := g.setReg p.reg (rowsVal p.rows p.old (g.reg p.reg))

/-- Bytes of the word at a stream's PC, as its core's buffer holds it. -/
def State.wordLength (s : State) (t : Stream) : Nat :=
  match s.firstCore t with
  | none => 4
  | some c => match decode (s.codeBytes t c t.pc) with
    | .instr _ n => n
    | _ => 4

/-- A stream that waits for what it reads from another device goes on without it (R162): the results are lost, as those in flight are, and
the instruction is over. One that has another kind of access under way, or other parts, waits for it. -/
def State.goWithout (s : State) (t : Stream) : State :=
  let reads := s.out.any fun q => match q.src, q.op with
    | .lane sid _ _, .read _ => sid == t.sid
    | _, _ => false
  if t.wait == .answer && reads && decide (t.homes.length ≤ 1) then
    (s.loseAnswer t).updStream t.sid fun u => { u with wait := .none, answers := [], pc := t.pc + toWord (s.wordLength t) }
  else s

/-- A forced eviction (R161, R162): the gang's uncommitted work is rolled back and its outstanding results are lost, to be dropped and
counted as they return; the gang leaves as soon as its stores are visible and its matrix commands have completed (R225). -/
def State.evictForced (s : State) (l k : Nat) : State :=
  let s := s.rollbackGang l k
  let s := (s.streamsOf l k).foldl State.goWithout s
  match s.gang? l k with
  | none => s
  | some g =>
    let s := (s.countReused g).updGang l k fun g => ((g.pending.filter fun p => !g.stale p).foldl Gang.unwrite g).advanceTags fun _ => true
    match s.gang? l k with
    | some g => s.chooseEvict g none
    | none => s

/-- An uncorrectable error in the registers, tiles or maps of a resident gang ends its launch: a class-5 record, which has no PA, and cause
0x11 (R327; log 69). -/
def State.failBad (s : State) : State :=
  (s.gangs.filter fun g => g.bad && g.place.isSome).foldl (fun s g =>
    if (s.launch? g.launch).all (·.aborting) then s
    else
      (s.addRecord
        { addr := 0, src := gangSrc g.launch g.idx, pasid := s.pasidOf g.launch, reason := 0, acc := 0, skind := .gang, cls := 5 }
        .nothing).abortLaunch g.launch g.idx 0x11 (s.gangPc g.launch g.idx)) s

/-- PARTITION_RESET (R162): the partition's resident gangs leave by force. -/
def execPartitionReset (p : Nat) (s : State) : Out :=
  .next ((s.gangs.filter fun g => g.place.isSome && (s.context (s.pasidOf g.launch)).part == p).foldl
    (fun s g => s.evictForced g.launch g.idx) s)

end Sys2Proof.Machine
end

