-- ==== Sys2Proof/Machine/Registers.lean ====
section
/-! DEFINITION. Stores to the I/O registers (R72, R91, R95, R96, R226, R246, R286, R295, R301, R324, R351, R362 to R366, R369,
R379), fault records posted and resolved (R323 to R326, R361), and guest register space (R350). -/

namespace Sys2Proof.Machine

/-- The I/O registers changed. -/
def State.updIo (s : State) (f : IoRegs → IoRegs) : State := { s with io := f s.io }


/-! Format windows (R95, R96). -/

/-- Bytes of a window's encoded range. -/
def Win.encLen (w : Win) : Nat := 16 * w.bits * w.blocks

/-- The ranges of a window in memory: the encoded range, and of a block-scaled format the scale region. -/
def Win.ranges (w : Win) : List (Nat × Nat) := (w.enc, w.encLen) :: if w.efmt.scaled then [(w.scale, w.blocks)] else []

/-- The stack whose pinned range holds a range of bytes. -/
def State.stackOf (s : State) (a n : Nat) : Option Nat :=
  match paRange s.memMap a, paRange s.memMap (a + n - 1) with
  | .pinned x, .pinned y => if x = y then some x else none
  | _, _ => none

/-- The two lists hold ranges that overlap. -/
def rangesClash (l m : List (Nat × Nat)) : Bool := l.any fun x => m.any fun y => rangesMeet x.1 x.2 y.1 y.2

/-- A window that EN = 1 may not enable (R96). -/
def State.windowBad (s : State) (n : Nat) (r : FormatWindow) : Bool :=
  match winOf n r with
  | none => true
  | some w =>
    let others := s.windows.filter (·.n != n)
    let st := w.ranges.map fun x => s.stackOf x.1 x.2
    let aliases' := [(w.base, w.blockBytes * w.blocks)]
    st.any (·.isNone) || decide (st.eraseDups.length ≠ 1) ||
      (w.efmt.scaled && rangesMeet w.enc w.encLen w.scale w.blocks) || others.any (fun o => rangesClash w.ranges o.ranges) ||
      paRange s.memMap w.base != .aliases || paRange s.memMap (w.base + w.blockBytes * w.blocks - 1) != .aliases ||
      others.any fun o => rangesClash aliases' [(o.base, o.blockBytes * o.blocks)]

/-- An alias address of a window. -/
def Win.owns (w : Win) (pa : Nat) : Bool := decide (w.base ≤ pa) && decide (pa < w.base + w.blockBytes * w.blocks)

/-- A store-buffer entry for an alias line of a window. -/
def Win.entry (w : Win) (e : StoreEntry) : Bool :=
  match e.place with
  | .mem pa _ => w.owns pa
  | .scratch _ => false

/-- The pending alias stores of a window are performed, as far as nothing holds them (R96): a stream's committed stores up to the window's
last leave in order; a stream with an uncommitted one rolls back. -/
def State.flushAlias (s : State) (w : Win) : State :=
  let s := s.rollbackStreams (s.streams.filter fun t => (s.storesOf t).any fun x => w.entry x.2 && !x.2.committed)
  s.streams.foldl (fun s t =>
    (List.range 33).foldl (fun s _ => if (s.storesOf t).any fun x => w.entry x.2 then s.storeStep t else s) s) s

/-- EN of a window cleared. -/
def State.clearEn (s : State) (n : Nat) : State :=
  s.updIo fun io =>
    let r := vget io.fw n FormatWindow.zero
    { io with fw := vset io.fw n { r with ctl := r.ctl &&& ~~~0x8000_0000_0000_0000#64 }, fwOff := io.fwOff.filter (· != n) }

/-- A window goes on to be disabled (R96): once no alias store of it is pending, its cached alias lines are invalidated, which tests the
read signatures (R89), and EN is cleared. -/
def State.closeWindow (s : State) (n : Nat) : State :=
  match s.windows.find? (·.n == n) with
  | none => s.clearEn n
  | some w =>
    let s := s.flushAlias w
    if s.gangs.any fun g => g.sb.any w.entry then s
    else
      let s := { s with aliasLines := s.aliasLines.filter fun x => !w.owns x.1 }.invalidateLines w.owns
      (s.testSignatures none fun _ p => match p with
        | .mem pa _ => w.owns pa
        | .scratch _ => false).clearEn n

/-- A write of EN = 0 to an enabled window (R96). -/
def State.disableWindow (s : State) (n : Nat) : State :=
  (s.updIo fun io => { io with fwOff := n :: io.fwOff.filter (· != n) }).closeWindow n

/-- The windows that are to be disabled go on (R96). -/
def State.closeWindows (s : State) : State := s.io.fwOff.foldl State.closeWindow s

/-- A write of FWn_CTL (R95, R96): while EN = 1 only EN is written; a write of EN = 1 enables the window, or is refused with
ERR set. -/
def State.writeFwCtl (s : State) (n : Nat) (v : Word) : State :=
  let r := vget s.io.fw n FormatWindow.zero
  let fields := keep v [(44, 40), (36, 32), (31, 0)]
  let put := fun (s : State) (c : Word) => s.updIo fun io => { io with fw := vset io.fw n { r with ctl := c } }
  if r.ctl.getLsbD 63 then (if v.getLsbD 63 then s else s.disableWindow n)
  else if !v.getLsbD 63 then put s (fields ||| (r.ctl &&& 0x4000_0000_0000_0000#64))
  else if s.windowBad n { r with ctl := fields } then put s (fields ||| 0x4000_0000_0000_0000#64)
  else put s (fields ||| 0x8000_0000_0000_0000#64)

/-- A write of another register of a window, ignored while EN = 1 (R95). -/
def State.writeFw (s : State) (n : Nat) (f : FormatWindow → FormatWindow) : State :=
  let r := vget s.io.fw n FormatWindow.zero
  if r.ctl.getLsbD 63 then s else s.updIo fun io => { io with fw := vset io.fw n (f r) }

/-! Fault records (R323 to R326). -/

/-- SKIND (R323). -/
def kindCode : EngineKind → Nat
  | .gang => 0 | .coreCopy => 1 | .bulkCopy => 2 | .fabric => 3 | .halyard => 4 | .rollback => 5 | .guest => 6 | .launch => 7

/-- The 32 bytes of a posted record (R323). -/
def recordBytes (r : FaultRecord) (seq : BitVec 32) : List Byte :=
  [1#8, 0#8, 0#8, 0#8, BitVec.ofNat 8 r.cls, BitVec.ofNat 8 (kindCode r.skind), BitVec.ofNat 8 r.acc, BitVec.ofNat 8 r.reason] ++
    leBytes 4 (r.pasid % 2 ^ 20) ++ leBytes 4 seq.toNat ++ wordBytes r.src ++ wordBytes r.addr

/-- The place in the ring of the next record (R324). -/
def State.fqPlace (s : State) : Nat := bits s.io.fqbase 55 12 * 4096 + 32 * (s.io.fqtail.toNat % s.fqSize)

/-- FAULT_RECORD_POST (R324, R361): the oldest waiting record takes the next place of the ring once the queue is enabled and
has room; firmware is interrupted and copies the record. A place that the guest owns is waited for (R108). -/
def execFaultRecordPost (s : State) : Out :=
  match s.waitingRecords with
  | [] => .next s
  | w :: rest =>
    if !s.fqRoom 1 || s.lineBusy s.fqPlace then .next s
    else
      let q := s.nextFaultSeq
      let bytes := recordBytes w.record q
      let s := s.storeRaw s.fqPlace bytes
      let copy := q.toNat % 64
      let s :=
        { s with
          waitingRecords := rest, nextFaultSeq := q + 1
          openFaults := if w.record.cls = 1 then
              s.openFaults ++ [({ seq := q, serial := w.serial, record := w.record, target := w.target } : OpenFault)]
            else s.openFaults
          io := { s.io with fqtail := s.io.fqtail + 1 }
          fw := { s.fw with faultCopies := (copy, bytes) :: s.fw.faultCopies.filter (·.1 != copy) }
          signals := s.signals ++ [Signal.irq .firmware .faultRecord] }
      .next (s.snapTrigger 1)

/-- A message goes to the guest; a fenced guest's channels are stopped (R359). -/
def State.tellGuest (s : State) (m : GuestMessage) : State :=
  if s.io.gsFenced then s else { s with guest := { s.guest with messages := s.guest.messages ++ [m] } }

/-- An arrival whose fault is resolved (R271, R325): performed again, or refused and counted. While a line that it needs is held, the
record stays unresolved. -/
def State.arriveAgain (s : State) (o : OpenFault) (pasid : Nat) (va : Word) (retry : Bool) : State :=
  if !retry then s.countHub pasid
  else match s.engineArrive pasid va with
    | .done s => s
    | .refused s => s
    | .held => { s with openFaults := o :: s.openFaults }
    | .fault r => s.addRecord { o.record with reason := r } o.target

/-- Retry of what a record parked (R325): the source resumes. A stream that has been split since waits in every part (R258). The guest is
told of every record of its queues (R356). -/
def State.resumeTarget (s : State) (o : OpenFault) : State :=
  match o.target with
  | .stream _ _ => s.wake fun t => t.wait == .fault o.serial
  | .coreCmd seq => s.updCoreCmd seq fun c => { c with work := { c.work with parked := false } }
  | .queue pasid hdr slot =>
    let guests := (s.queue? pasid hdr).any (·.engine == QueueEngine.guest)
    (if guests then s.tellGuest (.resume o.seq) else s).updQueue pasid hdr fun q =>
      if q.begun.any fun w => w.slot == slot && pktFlags w.words / 128 == 0 then
        { q with begun := q.begun.filter (·.slot != slot), next := slot }
      else q.updWork slot fun w => { w with parked := false }
  | .xnet seq l => if l = 32 then s.updXCmd seq fun c => { c with parked := false } else s.updXLane seq l fun x => { x with parked := false }
  | .bucket h n => s.updBucket h n fun b => { b with parked := false }
  | .rollback l i => s.updLaunch l fun x => { x with regions := vset x.regions i { x.region i with parked := false } }
  | .arrival _ pasid va => s.arriveAgain o pasid va true
  | .guest => s.tellGuest (.resume o.seq)
  | .nothing => s

/-- One stream of a failed fault takes 0x04 at its instruction (R325): at once while its gangs are resident and nothing is to become
visible first (R102), else when it next runs. The gang is the one that the record names; of a fetch, every home gang. -/
def State.failStream (s : State) (o : OpenFault) (info : Word) (sid : Nat) : State :=
  match s.stream? sid with
  | none => s
  | some t =>
    if t.wait != .fault o.serial then s
    else
      let s := s.updStream sid fun t => { t with wait := .none }
      let ks := if o.record.acc = 3 then t.homes else t.homes.filter fun k => bits o.record.src 63 32 == k % 2 ^ 32
      if (ks.all fun k => (s.coreOf t.launch k).isSome) && (s.unflushed t ks).isNone then s.raiseTrap { t with wait := .none } ks 4 info t.pc
      else ks.foldl (fun s k => s.updGang t.launch k fun g =>
        { g with deferred := g.deferred ++ [{ sid := sid, cause := 4, info := info }] }) s

/-- A failed fault of a memory queue's engine (R149, R325, R381, R382), by how far its packet has come: the payload or the retirement is
rejected with reason 8 and takes the error stamp, the stamp is lost, and the queue stops without ERR in memory. -/
def State.failSlot (s : State) (pasid hdr slot : Nat) : State :=
  match s.queue? pasid hdr with
  | none => s
  | some q => match q.begun.find? (·.slot == slot) with
    | none => s
    | some w =>
      let upd := fun (s : State) (f : PacketWork → PacketWork) => s.updWork (.queue pasid hdr) slot fun w => { f w with parked := false }
      if w.stamped && (w.rejected.isSome || w.lost) then
        ((upd s id).queueDenied q slot q.ridxVa).stopAt q w
      else if !w.stamped && (w.done || w.rejected.isSome) then
        upd (s.stampLost (toWord slot) q.engine.kind pasid (pktSadr w.words)) fun w =>
          { w with stamped := true, lost := w.rejected.isNone && q.engine != .launch }
      else upd s fun w => { w with rejected := some 8, stamped := false, out := [], staged := [] }

/-- A failed fault of a core's copy engine (R149, R325, R381). -/
def State.failCore (s : State) (seq : Nat) : State :=
  match s.coreCmds.find? (·.seq == seq) with
  | none => s
  | some c =>
    if c.work.done || c.work.rejected.isSome then
      (s.stampLost (gangSrc c.launch c.gang) .coreCopy c.pasid (pktSadr c.work.words)).closeCoreCmd c
    else s.failWork (s.engineCtx (.core c.core) seq)

/-- The address of a fault lies in the completion record or the mask area of a bucket (R244). -/
def Plan.ownsRecord (p : Plan) (n a : Nat) : Bool :=
  let rec' := (p.recVa + toWord (64 * n)).toNat
  let words := (p.ranks.length + 63) / 64
  let mask := (p.maskVa + toWord (8 * words * n)).toNat
  (decide (rec' ≤ a) && decide (a < rec' + 64)) || (p.maskVa != 0 && decide (mask ≤ a) && decide (a < mask + 8 * words))

/-- A failed fault of a bucket (R241, R244, R325): a contribution or a result ends it with status error; a record that cannot be written or
an arrival that cannot be made leaves the plan in error, and the bucket goes on to its end. -/
def State.failHalyard (s : State) (o : OpenFault) (h n : Nat) : State :=
  match (s.plan? h).bind fun p => (p.bucket? n).map fun b => (p, b) with
  | none => s
  | some (p, b) =>
    let s := s.updBucket h n fun b => { b with parked := false }
    if !b.inFlight || b.lateDue != 0 then s.updBucket h n fun b => { b with lateDue := 0 }
    else if b.recorded then ((s.countHub p.pasid).updPlan h fun p => { p with err := true }).closeBucket h n
    else if p.ownsRecord n o.record.addr.toNat then
      (s.updPlan h fun p => { p with err := true }).updBucket h n fun b => { b with recorded := true }
    else s.failBucket h n 5

/-- Failure of what a record parked (R325). -/
def State.failTarget (s : State) (o : OpenFault) : State :=
  match o.target with
  | .stream _ info => ((s.streams.filter (·.wait == .fault o.serial)).map (·.sid)).foldl (fun s sid => s.failStream o info sid) s
  | .coreCmd seq => s.failCore seq
  | .queue pasid hdr slot => s.failSlot pasid hdr slot
  | .xnet seq l => match s.xcmds.find? (·.seq == seq) with
    | none => s
    | some c =>
      if l = 32 then (s.stampLost (Config.recordSrc s.seq 32) .fabric c.pasid c.sa).endXCmd seq
      else match c.lanes.find? (·.lane == l) with
        | some x => s.refuseLane c x 5 o.record.addr
        | none => s
  | .bucket h n => s.failHalyard o h n
  | .rollback l i => match s.launch? l with
    | none => s
    | some x =>
      ((s.stampLost (Config.recordSrc s.seq i) .rollback x.pasid (x.region i).stampVa).afterRoll x i (x.region i).after
        (x.region i).stale).endRollback l
  | .arrival _ pasid va => s.arriveAgain o pasid va false
  | .guest => s.tellGuest (.failed o.seq)
  | .nothing => s

/-- A write of FRESUME (R325): it resolves the open record of its SEQ, or is ignored and counted. -/
def State.writeFresume (s : State) (v : Word) : State :=
  match s.openFaults.find? fun o => o.seq == v.setWidth 32 with
  | none => s.countHub
  | some o =>
    if bits v 61 32 != 0 || 2 ≤ bits v 63 62 then s.countHub
    else
      let s := { s.updIo (fun io => { io with fresume := v }) with openFaults := s.openFaults.filter fun x => x.seq != o.seq }
      if bits v 63 62 = 0 then s.resumeTarget o else s.failTarget o

/-! Firmware's stores. -/

/-- A write that takes effect, or is ignored as a whole and counted. -/
def State.orCount (s : State) (ok : Bool) (f : IoRegs → IoRegs) : State := if ok then s.updIo f else s.countHub

/-- The limits on QPOOL (R226). -/
def qpoolOk (v : Word) : Bool :=
  let f := fun i => bits v (8 * i + 7) (8 * i)
  decide (f 0 ≤ f 1) && decide (f 2 ≤ f 3) && decide (f 4 ≤ f 5) && decide (1 ≤ f 1) && decide (1 ≤ f 3) && decide (1 ≤ f 5) &&
    decide (f 1 ≤ 64) && decide (f 0 + f 2 + f 4 ≤ 128)

/-- The limits on HARB (R246). -/
def harbOk (v : Word) : Bool :=
  bits v 3 0 != 0 && bits v 7 4 != 0 && bits v 15 12 != 0 && decide (bits v 11 8 ≤ bits v 15 12)

/-- The limits on FQCTL against its present value (R324). -/
def State.fqctlOk (s : State) (v : Word) : Bool :=
  let log := bits v 36 32
  decide (4 ≤ log) && decide (log ≤ 16) && decide ((s.io.fqtail - v.setWidth 32).toNat ≤ 2 ^ log) &&
    !(s.io.fqctl.getLsbD 63 && log != bits s.io.fqctl 36 32)

/-- A store of 8 bytes by firmware to a register, reserved bits reading as zero. -/
def State.fwStore (s : State) (r : IoReg) (v : Word) : State :=
  match r with
  | .memcarve =>
    if s.io.memcarve.getLsbD 63 || 64 < bits v 6 0 then s else s.updIo fun io => { io with memcarve := keep v [(63, 63), (6, 0)] }
  | .l2mrg d => s.updIo fun io => { io with l2mrg := vset io.l2mrg d (v.setWidth 8) }
  | .fwEnc n => s.writeFw n fun r => { r with enc := keep v [(55, 6)] }
  | .fwScale n => s.writeFw n fun r => { r with scale := keep v [(55, 6)] }
  | .fwAlias n => s.writeFw n fun r => { r with aliasBase := keep v [(55, 16)] }
  | .fwCtl n => s.writeFwCtl n v
  | .harb n => s.orCount (harbOk v) fun io => { io with harb := vset io.harb n (v.setWidth 16) }
  | .ruq d => s.orCount (decide (100 ≤ bits v 16 0) && decide (bits v 16 0 ≤ 100000)) fun io => { io with ruq := vset io.ruq d (v.setWidth 17) }
  | .schctl d => s.orCount (bits v 47 32 != 0) fun io => { io with schctl := vset io.schctl d (keep v [(47, 16)]) }
  | .hqctl d =>
    s.orCount (decide (1 ≤ bits v 39 20) && decide (bits v 39 20 ≤ 1000000) && decide (1 ≤ bits v 19 0) && decide (bits v 19 0 ≤ 1000000))
      fun io => { io with hqctl := vset io.hqctl d (keep v [(63, 63), (39, 0)]) }
  | .fqbase => s.updIo fun io => { io with fqbase := keep v [(55, 12)] }
  | .fqctl => s.orCount (s.fqctlOk v) fun io => { io with fqctl := keep v [(63, 63), (36, 0)] }
  | .fqtail => s
  | .fresume => s.writeFresume v
  | .ctxbase => s.updIo fun io => { io with ctxbase := keep v [(55, 12)] }
  | .wdctl d => s.orCount (decide (bits v 19 0 ≤ 1000000)) fun io => { io with wdctl := vset io.wdctl d (v.setWidth 20) }
  | .gsctl =>
    if v.getLsbD 63 then (if s.io.gsFenced || !s.guest.identityOk then s else s.updIo fun io => { io with gsEn := true })
    else s.updIo fun io => { io with gsEn := false }
  | .gpas n => s.updIo fun io => { io with gpas := vset io.gpas n (keep v [(63, 63), (19, 0)]) }
  | .snapctl =>
    if bits v 33 32 = 3 then s
    else
      let s := s.updIo fun io => { io with snapArm := v.getLsbD 63, snapSrc := BitVec.ofNat 2 (bits v 33 32) }
      if v.getLsbD 0 then s.snapTrigger 0 else s
  | .partcfg p => s.updIo fun io => { io with partcfg := vset io.partcfg p (keep v [(63, 63), (55, 0)]) }
  | .powctl =>
    if decide (500 ≤ bits v 43 32) && decide (bits v 43 32 ≤ 1900) && decide (1000 ≤ bits v 11 0) && decide (bits v 11 0 ≤ 3200) then
      { s.updIo (fun io => { io with powctl := keep v [(43, 32), (11, 0)] }) with arithMHz := max s.arithMHz (bits v 43 32) }
    else s.countHub
  | .qpool c =>
    s.orCount (qpoolOk v && decide (c < 256)) fun io => { io with qpool := (c, keep v [(47, 0)]) :: io.qpool.filter (·.1 != c) }
  | .control b n =>
    let c := s.counter b n
    s.setCounter { c with control := keep v [(63, 62), (60, 60), (51, 32), (15, 0)] ||| (c.control &&& 0x2000_0000_0000_0000#64) }
  | .value b n => s.counterStore 0 b n 8 v
  | .snapshot _ _ => s.countHub

/-- A store of 8 bytes to a register by any agent: a counter's value register takes its owner's (R364), a snapshot register none (R366);
another takes firmware's, an agent's is ignored and counted (R379). Firmware writes a counter's control register and a PARTCFG register
only as commands 0x12 and 0x13 do (R362, R367). R91 names no writer of L2MRG: the model takes firmware (log 52). -/
def State.regStore (s : State) (ag : IoAgent) (r : IoReg) (v : Word) : State :=
  match r, ag with
  | .value b n, _ => s.counterStore (ioPasid ag) b n 8 v
  | .snapshot _ _, _ | .control _ _, .firmware | .partcfg _, .firmware => s.countHub
  | _, .firmware => s.fwStore r v
  | _, _ => s.countHub (ioPasid ag)

/-- REGISTER_WRITE (R379): a store to a register that has no event of its own. -/
def execRegisterWrite (ag : IoAgent) (pa : Nat) (v : Word) (s : State) : Out :=
  match ioPlace pa with
  | .reg r => if pa % 8 = 0 then .next (s.regStore ag r v) else .next (s.countHub (ioPasid ag))
  | _ => .next (s.countHub (ioPasid ag))

/-- IO_HOLE_ACCESS (R379): a load reads all ones, a store is ignored; both are counted. -/
def execIoHoleAccess (ag : IoAgent) (a : BusAccess) (s : State) : Out :=
  if ioPlace a.pa != .hole then .next s
  else
    let s := s.countHub (ioPasid ag)
    match a.data with
    | some _ => .next s
    | none => .next { s with hostReads := s.hostReads ++ [(a.pa, List.replicate a.len 0xFF#8)] }

/-- MEMCARVE_WRITE (R72). -/
def execMemcarveWrite (ag : IoAgent) (v : Word) (s : State) : Out := .next (s.regStore ag .memcarve v)
/-- L2MRG_WRITE (R91). -/
def execL2mrgWrite (ag : IoAgent) (die : Nat) (v : Word) (s : State) : Out := .next (s.regStore ag (.l2mrg die) v)
/-- FW_CTL_ENABLE (R96): a write of EN = 1. -/
def execFwCtlEnable (ag : IoAgent) (n : Nat) (v : Word) (s : State) : Out :=
  .next (s.regStore ag (.fwCtl n) (v ||| 0x8000_0000_0000_0000#64))
/-- FW_CTL_DISABLE (R96): a write of EN = 0. -/
def execFwCtlDisable (ag : IoAgent) (n : Nat) (v : Word) (s : State) : Out :=
  .next (s.regStore ag (.fwCtl n) (v &&& ~~~0x8000_0000_0000_0000#64))
/-- QPOOL_WRITE (R226). -/
def execQpoolWrite (ag : IoAgent) (core : Nat) (v : Word) (s : State) : Out := .next (s.regStore ag (.qpool core) v)
/-- HARB_WRITE (R246). -/
def execHarbWrite (ag : IoAgent) (stack : Nat) (v : Word) (s : State) : Out := .next (s.regStore ag (.harb stack) v)
/-- RUQ_WRITE (R286). -/
def execRuqWrite (ag : IoAgent) (die : Nat) (v : Word) (s : State) : Out := .next (s.regStore ag (.ruq die) v)
/-- SCHCTL_WRITE (R295). -/
def execSchctlWrite (ag : IoAgent) (die : Nat) (v : Word) (s : State) : Out := .next (s.regStore ag (.schctl die) v)
/-- HQCTL_WRITE (R301). -/
def execHqctlWrite (ag : IoAgent) (die : Nat) (v : Word) (s : State) : Out := .next (s.regStore ag (.hqctl die) v)
/-- FQCTL_WRITE (R324). -/
def execFqctlWrite (ag : IoAgent) (v : Word) (s : State) : Out := .next (s.regStore ag .fqctl v)
/-- FRESUME_RETRY (R325): a write of FRESUME with ACT 0. -/
def execFresumeRetry (ag : IoAgent) (v : Word) (s : State) : Out := .next (s.regStore ag .fresume v)
/-- FRESUME_FAIL (R325): a write of FRESUME with ACT 1. -/
def execFresumeFail (ag : IoAgent) (v : Word) (s : State) : Out := .next (s.regStore ag .fresume v)
/-- WDCTL_WRITE (R324). -/
def execWdctlWrite (ag : IoAgent) (die : Nat) (v : Word) (s : State) : Out := .next (s.regStore ag (.wdctl die) v)
/-- GSCTL_WRITE (R351). -/
def execGsctlWrite (ag : IoAgent) (v : Word) (s : State) : Out := .next (s.regStore ag .gsctl v)
/-- POWCTL_WRITE (R369). -/
def execPowctlWrite (ag : IoAgent) (v : Word) (s : State) : Out := .next (s.regStore ag .powctl v)
/-- SNAPCTL_ARM (R366). -/
def execSnapctlArm (ag : IoAgent) (v : Word) (s : State) : Out := .next (s.regStore ag .snapctl v)
/-- SNAPSHOT_TRIGGER (R366): a trigger of a source arrives. -/
def execSnapshotTrigger (src : Nat) (s : State) : Out := .next (s.snapTrigger src)
/-- COUNTER_VALUE_STORE (R364). -/
def execCounterValueStore (_ag : IoAgent) (pasid bank n : Nat) (v : Word) (s : State) : Out := .next (s.counterStore pasid bank n 8 v)

/-! Guest register space (R350). -/

/-- GUEST_REGISTER_ACCESS (R350): carried to the guest, or all ones and dropped where no guest answers. -/
def execGuestRegisterAccess (tag : Nat) (a : BusAccess) (s : State) : Out :=
  if ioPlace a.pa != .guest then .next s
  else if s.guestOn then
    let q : OutRequest :=
      { tag := s.seq, peer := 0, pasid := 0, type := .physical, addr := a.pa
        op := match a.data with | some d => .write d | none => .read a.len
        src := .bus tag, guest := true }
    .next { s with out := s.out ++ [q], seq := s.seq + 1 }
  else
    let s := s.countHub
    match a.data with
    | some _ => .next s
    | none => .next { s with hostReads := s.hostReads ++ [(tag, List.replicate a.len 0xFF#8)] }

end Sys2Proof.Machine
end

