-- ==== Sys2Proof/Machine/Mailbox.lean ====
section
/-! DEFINITION. The mailbox: command records, their order and their ends (R341 to R343), what a command may act for, and the
checks on the addresses it names. The places in ARG that R342 does not give are those of log 18. -/

namespace Sys2Proof.Machine

/-- A field of a command record (R341). -/
def State.mbNat (s : State) (c : Mailbox) (off n : Nat) : Nat := s.mem.nat (c.recPA + off) n

/-- The i-th 8-byte value of ARG (log 18). -/
def State.mbArg (s : State) (c : Mailbox) (i : Nat) : Nat := s.mbNat c (16 + 8 * i) 8

/-- PASID of a record. -/
def State.mbPasid (s : State) (c : Mailbox) : Nat := s.mbNat c 4 4 % 2 ^ 20

/-- Bytes of the record, written by firmware under the logs of regions (R313; log 55). -/
def State.mbWrite (s : State) (c : Mailbox) (off : Nat) (bytes : List Byte) : State := s.storeHw (s.mbPasid c) (c.recPA + off) bytes

/-- A command ends: STATUS is written last, and MBSTAT counts it (R341). -/
def State.mbEnd (s : State) (c : Mailbox) (status : Nat) : State :=
  let s := s.mbWrite c 2 (leBytes 2 status)
  { s with fw := { s.fw with current := none, completed := s.fw.completed + 1 } }

/-- A refused command: its reason, then STATUS 2 (R341, R343). -/
def State.mbRefuse (s : State) (c : Mailbox) (reason : Nat) : State := (s.mbWrite c 16 (leBytes 2 reason)).mbEnd c 2

/-- Result bytes in ARG, then STATUS 1. -/
def State.mbAnswer (s : State) (c : Mailbox) (l : List (Nat × List Byte)) : State :=
  (l.foldl (fun s x => s.mbWrite c x.1 x.2) s).mbEnd c 1

/-- The command goes on after this step: it is the one in progress (R341). -/
def State.mbHold (s : State) (c : Mailbox) : State := { s with fw := { s.fw with current := some c } }

/-- The lowest reason of those that apply (R343). -/
def lowest (l : List (Nat × Bool)) : Option Nat := (l.find? (·.2)).map (·.1)

/-- Run a command's effect unless a reason to refuse it applies. -/
def State.mbRun (s : State) (c : Mailbox) (reasons : List (Nat × Bool)) (eff : State → State) : State :=
  match lowest reasons with
  | some r => s.mbRefuse c r
  | none => eff s

/-- Reason 17: a reserved field of the record is nonzero, or STATUS was not 0 at submission (R343). -/
def State.mbReserved (s : State) (c : Mailbox) : Bool := s.mbNat c 4 4 / 2 ^ 20 != 0 || c.dirty

/-- Reason 18: the PASID has no valid context entry, or belongs to another partition than the virtual function's (R343). -/
def State.mbDenied (s : State) (c : Mailbox) (pasid : Nat) : Bool :=
  !(s.context pasid).valid || match c.vf with
    | some v => (s.context pasid).part != v
    | none => false

/-- The walk for a page of a range meets a line that the guest owns: the command waits for its recall (R76, R108). -/
def State.walkHeld (s : State) (pasid a n : Nat) : Bool :=
  (pagesOf a n).any fun p => match s.walkFor none pasid (vaOf (toWord (p * 65536))) with
    | .error .wait => true
    | _ => false

/-- Bytes that a command reads lie in a line that the guest owns, or their translation does (R108). -/
def State.readHeld (s : State) (pasid : Nat) (a : Word) (n : Nat) : Bool :=
  match s.engineRead pasid a n with
  | .held _ => true
  | _ => false

/-- A command that has begun waits while a line it needs is held (R108, R317): it stays the one in progress, and is tried again. -/
def State.mbWhenFree (s : State) (c : Mailbox) (held : Bool) (run : State → State) : State := if held then s.mbHold c else run s

/-- Bytes named in ARG that are misaligned, do not translate, or lie in a kind other than coherent memory (R343 reason 19). -/
def State.argBad (s : State) (pasid : Nat) (a : Word) (align n : Nat) (acc : Access) : Bool :=
  a.toNat % align != 0 || decide (2 ^ 64 ≤ a.toNat + n) || (pagesOf a.toNat n).any fun p =>
    let b := toWord (max a.toNat (p * 65536))
    !canonical b || match s.translate none pasid (vaOf b) acc with
      | .ok x => decide (2 ≤ x.kind)
      | .error _ => true

/-- A store to MBCMD (R341): a record address that breaks MBCMD is ignored and counted; while a command is in progress the new one
waits, up to 64 of them, and so does one whose record is held (R108); else it runs. A step of firmware goes on with the commands it holds.
Without a service nothing happens (R346, R348). -/
def State.submit (s : State) (c : Mailbox) (fits : Nat → Bool) (run : Mailbox → State → State) (go : State → State) : State :=
  let new : Mailbox := { c with dirty := s.mbNat c 2 2 != 0 }
  if !s.fw.serving then s
  else if c.go then go s
  else if c.recPA % 64 != 0 || 2 ^ 56 ≤ c.recPA then s.countHub
  else if s.fw.current.isSome || !s.fw.waiting.isEmpty || s.lineBusy c.recPA then
    if s.fw.waiting.length < 64 then { s with fw := { s.fw with waiting := s.fw.waiting ++ [new] } } else s.countHub
  else if fits (s.mbNat c 0 2) then run new s
  else s

end Sys2Proof.Machine
end

