-- ==== Sys2Proof/Machine/Guest.lean ====
section
/-! DEFINITION. The guest socket: the guest's requests, translations, arrivals, records and saves, and its fence (R349 to R360). -/

namespace Sys2Proof.Machine

/-- The PASID is assigned to the guest (R351, R353). -/
def State.assigned (s : State) (pasid : Nat) : Bool :=
  (List.range 64).any fun n => (vget s.io.gpas n 0).getLsbD 63 && bits (vget s.io.gpas n 0) 19 0 == pasid

/-- The guest changed. -/
def State.updGuest (s : State) (f : Guest → Guest) : State := { s with guest := f s.guest }

/-- Entries of a lost-line log of 256 (R345): PA with bit 0; more lost lines set bit 63 of the last. -/
def addLost (log : List Word) (pa : Nat) : List Word :=
  if log.length < 256 then log ++ [toWord (pa / 64 * 64 + 1)]
  else log.take 255 ++ [log.getD 255 0 ||| 0x8000_0000_0000_0000#64]

/-- The work on a slot of a guest queue that gets the error stamp at a fence: below db, valid, with stamp enable set (R359). -/
def State.fencedSlot (s : State) (q : MemQueue) (i : Nat) : Option PacketWork :=
  if (q.db - toWord i).toNat = 0 || 2 ^ 63 ≤ (q.db - toWord i).toNat then none
  else match s.engineRead q.pasid (q.slotVa i) 64 with
    | .ok _ bs =>
      let p := packetOf bs
      if pktFlags p / 128 = 1 && pktFlags p % 2 = 1 then some { PacketWork.fresh i p with done := true, rejected := some 8 } else none
    | _ => none

/-- A queue is in error, and owes its error stamps and ERR; what no line holds up is written at once. One that is in error already at a
rejected slot stays so (R142). -/
def State.queueOwes (s : State) (pasid hdr : Nat) (works : MemQueue → List PacketWork) : State :=
  let s := s.updQueue pasid hdr fun q => { q with err := true, errDue := true, begun := works q }
  (List.range 9).foldl (fun s _ => match s.queue? pasid hdr with
    | some q => if q.errDue then s.storeErr q else s
    | none => s) s

/-- A guest queue at a fence: slots IDX to IDX + 7 get error stamps, then ERR is set (R359 step 5). -/
def State.fenceQueue (s : State) (q : MemQueue) : State :=
  s.queueOwes q.pasid q.hdr fun q => (List.range 8).filterMap fun i => s.fencedSlot q (q.idx + i)

/-- The guest holds and shares no line and no translation, and what it had been asked is at an end: accesses that waited for a line
proceed, a pending invalidation completes, accesses to its register space complete as without a guest (R350, R359). A command that
waits for a save is refused with reason 24 (log 24). -/
def State.guestGone (s : State) (queues : State → State) : State :=
  let s := s.updGuest fun g => { g with owned := [], shared := [], paused := [], messages := [] }
  let s := s.wakeHeld
  let s := s.updGuest fun g => { g with atc := [], invalidation := none }
  let s := (s.out.filter (·.guest)).foldl (fun s q => (s.answered q (.done (match q.op with
    | .read n => List.replicate n 0xFF#8
    | _ => []))).countHub) (queues s)
  match s.guest.save, s.fw.current with
  | some _, some c => (s.updGuest fun g => { g with save := none }).mbRefuse c 24
  | _, _ => s.updGuest fun g => { g with save := none }

/-- The fence (R358, R359): its steps in order, at the first event. Its interrupt is firmware's vector (log 70). -/
def State.fence (s : State) (cause : Nat) : State :=
  if s.io.gsFenced then s
  else
    let s := s.updIo fun io => { io with gsFenced := true, gsCause := BitVec.ofNat 6 cause }
    let s := s.updGuest fun g => { g with lost := g.owned.foldl addLost g.lost }
    let s := s.guestGone fun s => (s.queues.filter (·.engine == .guest)).foldl State.fenceQueue s
    let s := s.addRecord
      { addr := 0, src := 0, pasid := 0, reason := 0x80 + cause, acc := 0, skind := .guest, cls := 6 } .nothing
    s.interrupt .firmware .fence

/-- A request, arrival or record of the guest: dropped and counted from a fenced or disabled guest (log 24), a fence with cause 5 under an
unassigned PASID, else its effect (R353, R358, R359). -/
def State.guestSays (s : State) (pasid : Nat) (eff : State → State) : Out :=
  if !s.guestOn then .next s.countHub
  else if !s.assigned pasid then .next (s.fence 5)
  else .next (eff s)

/-- An answer of the guest to the device: dropped and counted from a fenced guest, else its effect (R358, R359; log 24). -/
def State.guestAnswers (s : State) (eff : State → State) : Out := if s.io.gsFenced then .next s.countHub else .next (eff s)

/-- The translation that the guest's cache holds for a page. -/
def State.guestXlat (s : State) (pasid : Nat) (va : Word) : Option GuestXlat :=
  s.guest.atc.find? fun x => x.pasid == pasid && x.page == vaOf va / 65536

/-- The PA that the guest's translation gives. -/
def GuestXlat.pa (x : GuestXlat) (va : Word) : Nat := x.pfn * 65536 + va.toNat % 65536

/-- The guest is to write a page: D is set in the leaf if the request for its translation named no write (R78, R360); none while the walk
meets a line that the guest owns. -/
def State.guestDirties (s : State) (pasid : Nat) (va : Word) : Option State :=
  match s.walkFor none pasid (vaOf va) with
  | .error .wait => none
  | .error _ => some s
  | .ok x => some (s.markLeaf x .store)

/-- GUEST_TRANSLATION_REQUEST (R355, R360): the device walks and replies; a page of another kind or a PASID without a valid
context is a protection failure. A walk that meets a line the guest owns waits for its recall. -/
def execGuestTranslationRequest (pasid : Nat) (va : Word) (write : Bool) (s : State) : Out :=
  s.guestSays pasid fun s =>
    let page := vaOf va / 65536
    let reply := fun (s : State) (r : GuestReply) => s.updGuest fun g => { g with replies := g.replies ++ [(pasid, page, r)] }
    if !canonical va then reply s .denied
    else match s.walkFor none pasid (vaOf va) with
      | .error .wait => s
      | .error (.fault r) => reply s (.fault r)
      | .error _ => reply s .denied
      | .ok x =>
        if 2 ≤ x.kind then reply s .denied
        else
          let s := (s.noteHint x pasid).markLeaf x (if write && x.w then .store else .load)
          let pfn := x.pa / 65536
          let e : GuestXlat := { pasid := pasid, page := page, pfn := pfn, w := x.w }
          let s := s.updGuest fun g =>
            { g with atc := (e :: g.atc.filter fun y => !(y.pasid == pasid && y.page == page)).take 4096 }
          reply s (.granted pfn x.w x.kind)

/-- A line read by the guest, which shares it from then on (R84, R108); a line in error is answered as poisoned, its page retired
(R327). -/
def State.guestRead (s : State) (pasid : Nat) (va : Word) : State :=
  match s.guestXlat pasid va with
  | none => s.fence 6
  | some x =>
    let line := lineOf (x.pa va)
    let got := fun (s : State) (bs : List Byte) => s.updGuest fun g => { g with reads := g.reads ++ [(line, bs)] }
    if s.badLines.contains line then
      got (s.lineError { addr := 0, src := Config.recordSrc s.seq line, pasid := pasid, reason := 0, acc := 0, skind := .guest, cls := 5 } line)
        []
    else
      let s := s.shareOut line
      got (s.updGuest fun g => { g with shared := line :: g.shared.filter (· != line) }) (s.mem.read line 64)

/-- A guest takes ownership of a line: every other copy goes, which tests the read signatures (R84, R89, R108, R353). A line that a
region holds up, or that it owns already, waits. -/
def State.guestOwn (s : State) (pasid : Nat) (va : Word) : State :=
  match s.guestXlat pasid va with
  | none => s.fence 6
  | some x =>
    let pa := x.pa va
    if !x.w then s.fence 6
    else if s.lineBusy pa then s
    else match s.guestDirties pasid va with
    | none => s
    | some s =>
      let line := lineOf pa
      let s := (s.dropL2 0 line).dropL2 1 line
      let s := { s with hostCopies := s.hostCopies.filter (· != line) }
      (s.updGuest fun g => { g with owned := g.owned ++ [line], shared := g.shared.filter (· != line) }).testSignatures none
        fun _ p => p.isLine line

/-- Bytes of a line that the guest owned reach it, and the line is the guest's no more (R108); the Bool says that a full region has
refused them (R314). -/
def State.guestStore (s : State) (pa : Nat) (data : List Byte) : State × Bool :=
  let s := s.updGuest fun g => { g with owned := g.owned.filter (· != lineOf pa) }
  if data.isEmpty then (s.wakeHeld, false)
  else match s.logLine pa with
    | .ok s => ((s.storeLine none none (data.length == 64) (cellsOf pa data)).wakeHeld, false)
    | .refused s _ _ => (s.wakeHeld, true)

/-- A guest writes bytes of a line it owns, and releases it (R108, R353); a write that a full region refuses is answered as
refused (R314). A write that a region holds up waits (R317). -/
def State.guestWrite (s : State) (pasid : Nat) (va : Word) (data : List Byte) : State :=
  match s.guestXlat pasid va with
  | none => s.fence 6
  | some x =>
    let pa := x.pa va
    if !x.w || data.isEmpty || 64 < pa % 64 + data.length || !s.guest.owned.contains (lineOf pa) then s.fence 6
    else if s.lineHeld pa then s
    else
      let r := s.guestStore pa data
      if r.2 then r.1.tellGuest (.refused va) else r.1

/-- A guest begins the next packet of one of its queues (R143, R352): the doorbell covers it, its valid bit is set, fewer than
eight are under way, and its PASID's work is not pre-empted (R357). -/
def State.guestBegin (s : State) (pasid hdr : Nat) : State :=
  match s.queue? pasid hdr with
  | none => s.fence 6
  | some q =>
    let d := (q.db - toWord q.next).toNat
    if q.engine != .guest then s.fence 6
    else if q.err || !q.bound || d = 0 || 2 ^ 31 < d || 8 ≤ q.begun.length || s.guest.paused.contains pasid then s
    else match s.engineRead pasid (q.slotVa q.next) 64 with
      | .ok s bs =>
        let p := packetOf bs
        if pktFlags p / 128 = 0 then s
        else s.updQueue pasid hdr fun q =>
          { q with
            next := q.next + 1
            begun := q.begun ++ [{ PacketWork.fresh q.next p with done := false }] }
      | _ => s

/-- A guest ends a packet that it has begun (R352): done, or rejected with a code of its own or, for a protection failure, with reason 8
(R355); it is stamped, or put in error, in slot order. A message about another slot is none that the state allows (R358). -/
def State.guestEnd (s : State) (pasid hdr slot : Nat) (reason : Option Nat) : State :=
  match s.queue? pasid hdr with
  | none => s.fence 6
  | some q =>
    if q.engine != .guest then s.fence 6
    else if !q.begun.any (fun w => w.slot == slot && !w.done && w.rejected.isNone) then s.fence 6
    else if s.guest.paused.contains pasid then s
    else
      let s := s.updWork (.queue pasid hdr) slot fun w => match reason with
        | none => { w with done := true }
        | some _ => { w with rejected := reason }
      match s.queue? pasid hdr with
      | some q => s.completeSlot q slot
      | none => s

/-- GUEST_COHERENT_REQUEST (R352, R353). -/
def execGuestCoherentRequest (r : GuestRequest) (s : State) : Out :=
  match r with
  | .own p va => s.guestSays p fun s => s.guestOwn p va
  | .read p va => s.guestSays p fun s => s.guestRead p va
  | .write p va d => s.guestSays p fun s => s.guestWrite p va d
  | .begin p h => s.guestSays p fun s => s.guestBegin p h
  | .complete p h i => s.guestSays p fun s => s.guestEnd p h i none
  | .reject p h i code => s.guestSays p fun s => s.guestEnd p h i (some ((code.map (guestReason + ·)).getD 8))
  | .drop pa => if !s.guestOn then .next s.countHub else .next (s.updGuest fun g => { g with shared := g.shared.filter (· != lineOf pa) })

/-- GUEST_KNOT_ARRIVAL (R271, R353). -/
def execGuestKnotArrival (pasid : Nat) (va : Word) (s : State) : Out := s.guestSays pasid fun s => s.arriveFor .guest pasid va

/-- GUEST_FAULT_RECORD (R356): posted with SKIND 6. Classes 1, 2 and 6 alone are the guest's; a class-6 record puts the queue whose
header it names in error. -/
def execGuestFaultRecord (r : FaultRecord) (s : State) : Out :=
  s.guestSays r.pasid fun s =>
    if r.cls != 1 && r.cls != 2 && r.cls != 6 then s.fence 6
    else
      let s := s.addRecord { r with skind := .guest } (if r.cls = 1 then .guest else .nothing)
      if r.cls = 6 then
        match s.queue? r.pasid r.addr.toNat with
        | some q => if q.engine = .guest then s.queueOwes q.pasid q.hdr (·.begun) else s
        | none => s
      else s

/-- GUEST_SAVE_ACK (R357): the saved state lies in the area and command 0x0E completes; a save that is larger than 1 MiB or the
area fences (R358). -/
def execGuestSaveAck (data : List Byte) (s : State) : Out :=
  s.guestAnswers fun s =>
    match s.guest.save with
    | none => s.fence 6
    | some (pasid, area, n) =>
      if 2 ^ 20 < data.length || n < data.length then s.fence 4
      else if (lineSpans area data.length).any fun sp => s.lineBusy sp.1 then s
      else
        let s := s.storeHw pasid area data
        let s := s.updGuest fun g => { g with save := none, paused := pasid :: g.paused.filter (· != pasid) }
        match s.fw.current with
        | some c => s.mbEnd c 1
        | none => s

/-- The guest's translations in a range dropped. -/
def Guest.dropped (g : Guest) (pasid base len : Nat) : Guest :=
  { g with atc := g.atc.filter fun x => !(x.pasid == pasid && (len == 0 || rangesMeet (x.page * 65536) 65536 base len)) }

/-- GUEST_INVALIDATION_ACK (R355): the guest has dropped the range. -/
def execGuestInvalidationAck (s : State) : Out :=
  s.guestAnswers fun s =>
    match s.guest.invalidation with
    | none => s.fence 6
    | some (pasid, base, len) =>
      s.updGuest fun g => { g.dropped pasid base len with invalidation := none }

/-- GUEST_RECALL_ANSWER (R108): the guest releases the line, with the bytes it had written; accesses that waited proceed. Bytes that a
region holds up wait; the guest may release the line without them (R317). -/
def execGuestRecallAnswer (line : Nat) (data : List Byte) (s : State) : Out :=
  s.guestAnswers fun s =>
    if !s.guest.owned.contains (lineOf line) || (!data.isEmpty && data.length != 64) then s.fence 6
    else if !data.isEmpty && s.lineHeld line then s
    else (s.guestStore (lineOf line) data).1

/-- GUEST_REGISTER_ANSWER (R350): the bytes that a load asked for, or none for a store; another answer is malformed (R358). -/
def execGuestRegisterAnswer (tag : Nat) (data : List Byte) (s : State) : Out :=
  s.guestAnswers fun s =>
    match s.out.find? fun q => q.tag == tag && q.guest with
    | some q =>
      let n := match q.op with
        | .read n => n
        | _ => 0
      if data.length = n then s.answered q (.done data) else s.fence 6
    | none => s.fence 6

/-- GUEST_SNOOP_TIMEOUT (R358 cause 1): of a line that the guest owns or shares. -/
def execGuestSnoopTimeout (line : Nat) (s : State) : Out :=
  if s.guest.owned.contains (lineOf line) || s.guest.shared.contains (lineOf line) then .next (s.fence 1) else .next s
/-- GUEST_INVALIDATION_TIMEOUT (R358 cause 2). -/
def execGuestInvalidationTimeout (s : State) : Out := if s.guest.invalidation.isSome then .next (s.fence 2) else .next s
/-- GUEST_SAVE_TIMEOUT (R358 cause 3). -/
def execGuestSaveTimeout (s : State) : Out := if s.guest.save.isSome then .next (s.fence 3) else .next s
/-- GUEST_LINK_DOWN (R358 cause 7). -/
def execGuestLinkDown (s : State) : Out := .next (s.fence 7)

/-- The signature of some bytes verifies under a certificate's key, as that of an image does (R346, R354; log 66). -/
def certSigns (c : GuestCert) (m sig : List Byte) : Bool :=
  c.key.length == 384 && sig.length == 384 && pssVerify (leNat c.key) (leNat sig) m

/-- Each certificate of a chain verifies under the next. -/
def chainVerifies : List GuestCert → Bool
  | c :: d :: rest => certSigns d (c.key ++ c.body) c.sig && chainVerifies (d :: rest)
  | _ => true

/-- Firmware of a security version accepts what a guest presents (R354). -/
def identityAccepted (who : GuestIdentity) (svn : Nat) : Bool :=
  decide (who.chain.length ≤ 4) && chainVerifies who.chain &&
    match who.chain.head?, who.chain.getLast? with
    | some leaf, some root =>
      Config.guestTrusts svn (BitVec.ofNat 384 (beNat (sha384 root.key))) && who.measurement.length == 48 &&
        certSigns leaf who.measurement who.sig
    | _, _ => false

/-- What a guest presents, as command 0x10 hands it on (R354; log 66). -/
def identityBytes (who : GuestIdentity) : List Byte :=
  (who.chain.flatMap fun c => c.key ++ c.body ++ c.sig) ++ who.measurement ++ who.sig

/-- GUEST_RESET (R351, R354): the guest holds nothing and is disabled; accepted when its chain, root key and measurement verify,
which clears FENCED, else cause 8. -/
def execGuestReset (who : GuestIdentity) (s : State) : Out :=
  if !s.fw.guestSite || s.fw.reduced then .next s
  else
    let ok := identityAccepted who s.fw.svn
    let s := (s.updIo fun io => { io with gsEn := false }).guestGone id
    let s := s.updGuest fun g => { g with chain := identityBytes who, identityOk := ok }
    if ok then .next (s.updIo fun io => { io with gsFenced := false, gsCause := 0 })
    else .next ((s.fence 8).updIo fun io => { io with gsCause := 8 })

end Sys2Proof.Machine
end

