-- ==== Sys2Proof/Machine/Firmware.lean ====
section
/-! DEFINITION. Firmware's mailbox commands (R83, R136 to R143, R229, R236 to R239, R300, R329, R342, R343, R346, R347, R354, R357,
R361, R362, R367). The places in ARG that R342 does not give are those of log 18. -/

namespace Sys2Proof.Machine

/-! Memory queues: 0x01, 0x02, 0x03. -/

/-- The engine that ARG chooses (log 18): a bulk engine of a die, the guest, the launch front end. -/
def engineOf (n : Nat) : Option QueueEngine :=
  if n < 32 then some (.bulk (n / 16) (n % 16)) else if n = 32 then some .guest else if n = 33 then some .launch else none

/-- A header at a PA that breaks R136 or R137, for an engine. -/
def State.headerBad (s : State) (pa : Nat) (e : Option QueueEngine) : Bool :=
  let log := s.mem.nat (pa + 16) 4
  let cmask := s.mem.nat (pa + 20) 4
  let db := s.mem.nat (pa + 24) 8
  s.mem.nat (pa + 32) 32 != 0 || decide (log < 1) || decide (20 < log) || db % 8 != 0 || decide (2 ^ 30 ≤ db) ||
    match e with
    | some (.bulk _ _) => cmask == 0 || decide (32 ≤ cmask)
    | some .guest => cmask != 2 ^ 31
    | some .launch => cmask != 2 ^ 16
    | none => true

/-- A page of a ring of slots that translates to memory that no queue may lie in (R136). -/
def State.ringBad (s : State) (pasid : Nat) (hdr : Word) (log : Nat) : Bool :=
  (pagesOf hdr.toNat (64 + 64 * 2 ^ min log 20)).any fun p =>
    match s.translate none pasid (vaOf (toWord (p * 65536))) .load with
    | .ok x => decide (2 ≤ x.kind)
    | .error _ => false

/-- The PA of a VA under a PASID, if it translates. -/
def State.paAt (s : State) (pasid : Nat) (a : Word) : Nat :=
  match s.translate none pasid (vaOf a) .load with
  | .ok x => x.pa
  | .error _ => 0

/-- 0x01 (R136 to R139, R342, R352): register a memory queue and bind its doorbell. -/
def State.registerQueue (s : State) (c : Mailbox) : State :=
  let pasid := s.mbPasid c
  let hdr := toWord (s.mbArg c 0)
  let e := engineOf (s.mbArg c 1)
  let pa := s.paAt pasid hdr
  let log := s.mem.nat (pa + 16) 4
  let db := s.mem.nat (pa + 24) 8
  let ridx := s.mem.word (pa + 8)
  s.mbWhenFree c (s.readHeld pasid hdr 64 || s.walkHeld pasid hdr.toNat (64 + 64 * 2 ^ min log 20)) fun s => s.mbRun c
    [(17, s.mbReserved c), (18, s.mbDenied c pasid), (19, s.argBad pasid hdr 64 64 .load),
     (20, s.headerBad pa e || s.ringBad pasid hdr log), (21, (s.queue? pasid hdr.toNat).isSome || s.queues.any fun q => q.bound && q.dboff == db),
     (24, match e with
      | some .guest => !s.guestOn || s.fw.reduced
      | some (.bulk d _) => s.fw.reduced && d != s.fw.serviceDie
      | _ => false)]
    fun s =>
      let idx := bits ridx 62 0
      let q : MemQueue :=
        { pasid := pasid, hdr := hdr.toNat, hdrPa := pa, engine := e.getD (.bulk 0 0), log := log, cmask := s.mem.nat (pa + 20) 4
          dboff := db, db := 0, bound := true, next := idx, idx := idx, err := ridx.getLsbD 63, errDue := false, badSlot := none
          begun := [] }
      { s with queues := s.queues ++ [q] }.mbEnd c 1

/-- A command on a registered queue: reasons 17, 18, 19 and 22. -/
def State.onQueue (s : State) (c : Mailbox) (eff : MemQueue → State → State) : State :=
  let pasid := s.mbPasid c
  let hdr := s.mbArg c 0
  let reasons := [(17, s.mbReserved c), (18, s.mbDenied c pasid), (19, s.argBad pasid (toWord hdr) 64 64 .load)]
  s.mbWhenFree c (s.walkHeld pasid hdr 64) fun s => match s.queue? pasid hdr with
    | none => s.mbRun c (reasons ++ [(22, true)]) id
    | some q => s.mbRun c reasons (eff q)

/-- 0x02 in progress: the queue goes, and STATUS is written, after the last stamp of the packets begun. A queue in error stamps none. -/
def State.deregisterGo (s : State) (c : Mailbox) : State :=
  match s.queue? (s.mbPasid c) (s.mbArg c 0) with
  | none => s.mbEnd c 1
  | some q =>
    if q.begun.isEmpty || (q.err && !q.errDue) then
      { s with queues := s.queues.filter fun x => !(x.pasid == q.pasid && x.hdr == q.hdr) }.mbEnd c 1
    else s

/-- 0x02 (R342): the doorbell is unbound at once. -/
def State.deregisterQueue (s : State) (c : Mailbox) : State :=
  s.onQueue c fun q s => ((s.updQueue q.pasid q.hdr fun q => { q with bound := false }).mbHold c).deregisterGo c

/-- A queue whose ERR is cleared: IDX is past the rejected slot, the slots begun behind it go on from where they are, exactly once (R113),
and those that a fence stamped are consumed anew (R359). -/
def MemQueue.cleared (q : MemQueue) : MemQueue :=
  let idx := match q.badSlot with
    | some k => k + 1
    | none => q.idx
  let kept := q.begun.filter fun w => decide (idx ≤ w.slot) && !(w.done && w.rejected.isSome)
  { q with err := false, badSlot := none, idx := idx, next := if kept.isEmpty then idx else q.next, begun := kept }

/-- 0x03 in progress (R142, R342): what the queue owes is stored first; then the valid byte of a rejected slot is cleared (log 19), and
RIDX stored. Where one of the two is refused, the queue stays in error, with a class-4 record (R382). -/
def State.clearGo (s : State) (c : Mailbox) (q : MemQueue) : State :=
  let new := q.cleared
  let slot := q.badSlot.getD q.idx
  let valid := q.slotVa slot + 1#64
  if !q.err then s.mbEnd c 1
  else if q.errDue then (s.storeErr q).mbHold c
  else match (if q.badSlot.isSome then s.queueWrite q valid [0] else .ok s ()) with
    | .held s => s.mbHold c
    | .ok s () => match s.queueWrite q q.ridxVa (wordBytes (ridxOf false new.idx)) with
      | .held s => s.mbHold c
      | .ok s () =>
        ((s.updQueue q.pasid q.hdr fun _ => new).wake fun t =>
          t.wait == Wait.memSlot q.hdrPa && s.pasidOf t.launch == q.pasid).mbEnd c 1
      | r => (r.state.queueDenied q slot q.ridxVa).mbEnd c 1
    | r => (r.state.queueDenied q slot valid).mbEnd c 1

/-- 0x03 (R142, R342). -/
def State.clearError (s : State) (c : Mailbox) : State := s.onQueue c fun q s => s.clearGo c q

/-! Translation invalidation: 0x04 (R83). -/

/-- The range of the command covers bytes of a VA, of which the tables translate the low 55 bits (R74). -/
def covers (base len a n : Nat) : Bool := len == 0 || rangesMeet base len (a % 2 ^ 55) n

/-- Stores of a PASID that were translated and are not yet visible, in the range. -/
def State.storesIn (s : State) (pasid base len : Nat) (committed : Bool) : Bool :=
  s.gangs.any fun g => s.pasidOf g.launch == pasid && g.sb.any fun e => (committed || !e.committed) && match e.place with
    | .mem _ va => covers base len va 64
    | .scratch _ => false

/-- A region of the PASID whose held pages are covered and that rolls. -/
def State.rollingIn (s : State) (pasid base len : Nat) : Bool :=
  s.launches.any fun x => x.pasid == pasid && (List.range 16).any fun i =>
    (x.region i).state == .rolling && (x.region i).pages.any fun p => covers base len (p.1 * 65536) 65536

/-- The regions of a launch under an invalidation (R317): armed becomes full; marked cannot be taken; rolling ends full. -/
def State.regionsUnder (s : State) (l base len : Nat) : State :=
  (List.range 16).foldl (fun s i => match s.launch? l with
    | none => s
    | some x =>
      let r := x.region i
      if !(r.pages.any fun p => covers base len (p.1 * 65536) 65536) then s
      else match r.state with
        | .armed => s.setRegion l i { r with state := .full }
        | .marked | .rolling => s.putRegion l i { r with stale := true }
        | _ => s) s

/-- A watched word, or a header whose slot is waited for, is to be translated again: the instruction of the wait executes again, a YIELD for
the home gang whose condition it is. -/
def State.rewatch (s : State) (t : Stream) : State :=
  match t.wait with
  | .watch _ _ _ => s.updStream t.sid fun t => { t with wait := .none, watchDie := none, due := false }
  | .spin _ => s.updStream t.sid fun t => { t with wait := .none, watchDie := none, due := false }
  | .yieldWatch _ a v pc =>
    let past := t.partsDone.isEmpty
    let parts := if past then t.homes else t.partsDone
    let s := match parts.getLast? with
      | some k => s.updGang t.launch k fun g => { g with armed := some (a, v) }
      | none => s
    s.updStream t.sid fun t =>
      { t with
        wait := .none, watchDie := none, due := false, pc := pc, partsDone := parts.dropLast
        doneLen := if past then (t.pc - pc).toNat else t.doneLen }
  | .memSlot _ => s.updStream t.sid fun t => { t with wait := .none }
  | _ => s

/-- 0x04 in progress: it ends once no access can use a dropped translation (R83). -/
def State.invalidateGo (s : State) (c : Mailbox) : State :=
  let pasid := s.mbPasid c
  let base := s.mbArg c 0 % 2 ^ 55
  let len := s.mbArg c 1
  if s.guest.invalidation.isSome || s.storesIn pasid base len true || s.rollingIn pasid base len ||
      s.out.any (fun q => q.pasid == pasid && match q.src with | .lane _ _ _ | .store _ _ _ _ _ | .late _ => true | _ => false) then s
  else s.mbEnd c 1

/-- 0x04 (R83, R342, R355): every matching translation is dropped, uncommitted stores are discarded by a rollback, the guest is
told; one that is not enabled holds none of them any more. -/
def State.invalidate (s : State) (c : Mailbox) : State :=
  let pasid := s.mbPasid c
  let base := s.mbArg c 0 % 2 ^ 55
  let len := s.mbArg c 1
  s.mbRun c [(17, s.mbReserved c), (18, s.mbDenied c pasid), (19, !canonical (toWord (s.mbArg c 0)))] fun s =>
    let stale := fun (e : TlbEntry) => e.pasid == pasid && covers base len (e.vpage * 65536) (e.pages * 65536)
    let s :=
      { s with
        tlb := s.tlb.filter fun e => !stale e
        ctlb := s.ctlb.filter fun e => !stale e
        walkCache := s.walkCache.filter fun e => !(e.pasid == pasid &&
          covers base len (if e.level = 1 then e.index * 2 ^ 42 else e.index * 2 ^ 29) (if e.level = 1 then 2 ^ 42 else 2 ^ 29))
        queues := s.queues.map fun (q : MemQueue) =>
          if q.pasid == pasid && covers base len q.hdr 64 then { q with hdrPa := s.paAt pasid (toWord q.hdr) } else q
        ibuf := s.ibuf.filter fun x => !(s.pasidOf x.launch == pasid && covers base len x.va 64) }
    let s := (s.gangs.filter fun g => s.pasidOf g.launch == pasid && g.sb.any fun e => !e.committed && match e.place with
      | .mem _ va => covers base len va 64
      | .scratch _ => false).foldl (fun s g => s.rollbackGang g.launch g.idx) s
    let s := (s.streams.filter fun t => s.pasidOf t.launch == pasid).foldl State.rewatch s
    let s := (s.launches.filter (·.pasid == pasid)).foldl (fun s x => s.regionsUnder x.id base len) s
    let s := if s.guestOn then
        (s.tellGuest (.invalidate pasid base len)).updGuest fun g => { g with invalidation := some (pasid, base, len) }
      else s.updGuest fun g => g.dropped pasid base len
    (s.mbHold c).invalidateGo c

/-! Hardware queues: 0x05 (R300). -/

/-- A descriptor at a PA that breaks R300. -/
def State.descriptorRules (s : State) (pasid pa : Nat) (va : Word) : Bool :=
  s.descriptorBad pasid pa va || s.descriptorErr pa || decide (s.mem.nat (pa + 16) 4 < 4) || decide (24 < s.mem.nat (pa + 16) 4) ||
    s.mem.nat (pa + 40) 8 % 65536 != 0

/-- Removal (R300): refused while a queue instruction waits on it; records are discarded and V is cleared. -/
def State.removeHwq (s : State) (c : Mailbox) (q : HwQueue) : State :=
  let flags := s.mem.nat (s.paAt q.pasid (toWord q.desc) + 12) 4
  match s.engineWrite q.pasid (toWord (q.desc + 12)) (leBytes 4 (flags / 2 * 2)) with
  | .held _ => s.mbHold c
  | r => { r.state with hwqs := s.hwqs.filter fun x => !(x.pasid == q.pasid && x.desc == q.desc) }.mbEnd c 1

/-- A stream waits in a queue instruction on a hardware queue. -/
def State.hwqWaited (s : State) (q : HwQueue) : Bool :=
  s.streams.any fun t => s.pasidOf t.launch == q.pasid && match t.wait with
    | .qpop d _ => d == q.desc
    | .hwqMap d => d == q.desc
    | _ => false

/-- 0x05 (R300, R342): register (second value 0) or remove (1) a hardware queue. -/
def State.hardwareQueue (s : State) (c : Mailbox) : State :=
  let pasid := s.mbPasid c
  let va := toWord (s.mbArg c 0)
  if s.mbArg c 1 = 0 then
    let pa := s.paAt pasid va
    s.mbWhenFree c (s.readHeld pasid va 64) fun s => s.mbRun c
      [(17, s.mbReserved c), (18, s.mbDenied c pasid), (19, s.argBad pasid va 64 64 .load), (20, s.descriptorRules pasid pa va),
       (21, (s.hwq? pasid va.toNat).isSome)]
      fun s =>
        let q : HwQueue :=
          { pasid := pasid, desc := va.toNat, descPa := pa, home := (s.mem.get (pa + 20)).toNat % 2, logcap := s.mem.nat (pa + 16) 4
            spill := s.mem.nat (pa + 40) 8, records := [], mapped := false, lastUse := s.ticks }
        { s with hwqs := s.hwqs ++ [q] }.mbEnd c 1
  else
    let reasons := [(17, s.mbReserved c), (18, s.mbDenied c pasid), (19, s.argBad pasid va 64 64 .load)]
    s.mbWhenFree c (s.walkHeld pasid va.toNat 64) fun s => match s.hwq? pasid va.toNat with
      | none => s.mbRun c (reasons ++ [(22, true)]) id
      | some q => s.mbRun c (reasons ++ [(21, s.hwqWaited q)]) fun s => s.removeHwq c q

/-! Halyard: 0x06, 0x07, 0x08 (R236 to R239). -/

/-- A descriptor's fields (R237). -/
structure PlanDesc where
  coll : Nat
  alg : Nat
  opr : Nat
  ndev : Nat
  nbkt : Nat
  root : Nat
  deadline : Nat
  rankVa : Nat
  bktVa : Nat
  knot : Word
  recVa : Word
  maskVa : Word
  rsv : Bool

/-- The descriptor in 64 bytes. -/
def planDesc (bs : List Byte) : PlanDesc :=
  let at_ := fun o n => leNat ((bs.drop o).take n)
  { coll := at_ 0 1, alg := at_ 1 1, opr := at_ 2 1, ndev := at_ 4 2, nbkt := at_ 6 2, root := at_ 8 2, deadline := at_ 12 4
    rankVa := at_ 16 8, bktVa := at_ 24 8, knot := toWord (at_ 32 8), recVa := toWord (at_ 40 8), maskVa := toWord (at_ 48 8)
    rsv := at_ 3 1 != 0 || at_ 10 2 != 0 || at_ 56 8 != 0 }

/-- 2-byte numbers at a VA, none if they cannot be read. -/
def State.readHalves (s : State) (pasid a n : Nat) : Option (List Nat) :=
  match s.engineRead pasid (toWord a) (2 * n) with
  | .ok _ bs => some ((List.range n).map fun i => leNat ((bs.drop (2 * i)).take 2))
  | _ => none

/-- Flag bit 1 of the knot that a plan names. -/
def State.knotTakesEngines (s : State) (pasid : Nat) (h : Word) : Bool :=
  match s.engineRead pasid (h + 12#64) 4 with
  | .ok _ bs => leNat bs / 2 % 2 == 1
  | _ => false

/-- A descriptor that breaks the table of R237. -/
def State.planBad (s : State) (pasid : Nat) (d : PlanDesc) (ranks bufs : Option (List Nat)) : Bool :=
  d.rsv || decide (3 < d.coll) || decide (1 < d.alg) || (d.alg == 1 && d.coll != 0 && d.coll != 3) || decide (2 < d.opr) ||
    decide (d.ndev < 2) || decide (9216 < d.ndev) || decide (d.nbkt < 1) || decide (256 < d.nbkt) || (d.coll == 3 && decide (d.ndev ≤ d.root)) ||
    decide (1000000 < d.deadline) || (d.maskVa == 0 && decide (256 < d.ndev)) || !s.knotTakesEngines pasid d.knot ||
    (match ranks with
      | none => true
      | some l => l.count Config.deviceId.toNat != 1) ||
    match bufs with
    | none => true
    | some l => l.any fun n => decide (4096 ≤ n) || !(s.buffers.any fun b => b.pasid == pasid && b.n == n)

/-- Bytes of a slice of a buffer. -/
def HalyardBuffer.sliceBytes (b : HalyardBuffer) : Nat := b.len * (b.format.width / 8)

/-- The reservation of a plan (R237): its largest slice. -/
def State.reserveOf (s : State) (pasid : Nat) (bufs : List Nat) : Nat :=
  ((s.buffers.filter fun b => b.pasid == pasid && bufs.contains b.n).map HalyardBuffer.sliceBytes).foldl max 0

/-- Reservations in force: those of plans not freed, and of freed plans with a bucket in flight. -/
def State.reserved (s : State) : Nat := ((s.plans.filter fun p => !p.freed || p.buckets.any (·.inFlight)).map (·.reserve)).sum

/-- The lowest free number below a bound. -/
def freeBelow (n : Nat) (used : List Nat) : Option Nat := (List.range (min n (used.length + 1))).find? fun k => !used.contains k

/-- The generation of an index's next plan (R238). -/
def State.nextGen (s : State) (i : Nat) : Nat := ((s.quarantine.find? (·.1 == i)).map fun x => x.2 % 65535 + 1).getD 1

/-- An idle bucket of a new plan. -/
def Bucket.fresh (n : Nat) : Bucket :=
  { n := n, fires := 0, inFlight := false, order := 0, intr := false, own := false, owed := 0, contribs := [], held := [], late := 0
    reason := 0, parked := false, expired := [], written := [], recorded := false, lateDue := 0 }

/-- PA of a Halyard doorbell page (R239). -/
def pagePa (k : Nat) : Nat := 0x3000_C000_0000 + 65536 * k

/-- 0x06 (R237 to R239, R342). The plan takes the lowest free index (log 65). -/
def State.createPlan (s : State) (c : Mailbox) : State :=
  let pasid := s.mbPasid c
  let va := toWord (s.mbArg c 0)
  let d := planDesc (match s.engineRead pasid va 64 with
    | .ok _ bs => bs
    | _ => [])
  let ranks := s.readHalves pasid d.rankVa (min d.ndev 9216)
  let bufs := s.readHalves pasid d.bktVa (min d.nbkt 256)
  let index := freeBelow 4096 (s.plans.map (·.index))
  let page : Option Nat := match s.pages.find? (fun x => x.2 == pasid) with
    | some x => some x.1
    | none => freeBelow 16384 (s.pages.map Prod.fst)
  let res := s.reserveOf pasid (bufs.getD [])
  let held := s.readHeld pasid va 64 || s.readHeld pasid (toWord d.rankVa) (2 * min d.ndev 9216) ||
    s.readHeld pasid (toWord d.bktVa) (2 * min d.nbkt 256) || s.readHeld pasid (d.knot + 12#64) 4
  s.mbWhenFree c held fun s => s.mbRun c
    [(17, s.mbReserved c), (18, s.mbDenied c pasid), (19, s.argBad pasid va 1 64 .load), (20, s.planBad pasid d ranks bufs),
     (23, index.isNone || page.isNone || decide (8 * 2 ^ 20 < s.reserved + res) || !Config.switchPlaneFree s.planCount),
     (24, s.fw.reduced)]
    fun s =>
      let i := index.getD 0
      let k := page.getD 0
      let p : Plan :=
        { gen := s.nextGen i, index := i, pasid := pasid, coll := d.coll, alg := d.alg, opr := d.opr, root := d.root, deadline := d.deadline
          knot := d.knot, recVa := d.recVa, maskVa := d.maskVa, ranks := ranks.getD [], bufs := bufs.getD [], reserve := res, err := false
          freed := false, done := 0, buckets := (List.range d.nbkt).map Bucket.fresh }
      let s :=
        { s with
          plans := s.plans ++ [p], planCount := s.planCount + 1
          pages := if s.pages.any (·.2 == pasid) then s.pages else s.pages ++ [(k, pasid)] }
      s.mbAnswer c [(16, leBytes 4 p.handle), (24, leBytes 8 (pagePa k))]

/-- 0x07 (R238, R342). -/
def State.freePlan (s : State) (c : Mailbox) : State :=
  let pasid := s.mbPasid c
  let h := s.mbArg c 0 % 2 ^ 32
  s.mbRun c [(17, s.mbReserved c), (18, s.mbDenied c pasid), (22, (s.livePlan pasid h).isNone)] fun s =>
    (s.updPlan h fun p => { p with freed := true }).mbEnd c 1

/-- A slice that is not wholly on writable pages pinned to a stack (R236). -/
def State.sliceBad (s : State) (pasid st a n : Nat) : Bool :=
  (pagesOf a n).any fun p =>
    let b := toWord (max a (p * 65536))
    !canonical b || match s.translate none pasid (vaOf b) .store with
      | .ok x => paRange s.memMap x.pa != .pinned st
      | .error _ => true

/-- 0x08 (R236, R342). -/
def State.writeBufferEntry (s : State) (c : Mailbox) : State :=
  let pasid := s.mbPasid c
  let n := s.mbArg c 0
  let va := toWord (s.mbArg c 1)
  let bs := match s.engineRead pasid va 128 with
    | .ok _ bs => bs
    | _ => []
  let at_ := fun o k => leNat ((bs.drop o).take k)
  let valid := at_ 65 1 % 2 == 1
  let b : HalyardBuffer := { pasid := pasid, n := n, fmt := at_ 64 1, len := at_ 72 4, slices := (List.range 8).map fun i => at_ (8 * i) 8 }
  let bad := at_ 65 1 / 2 != 0 || at_ 66 6 != 0 || at_ 76 52 != 0 ||
    (valid && (!([1, 2, 3, 4, 10].contains b.fmt) || decide (b.len < 1) || decide (2 ^ 26 < b.len) ||
      (List.range 8).any fun i => s.sliceBad pasid i (b.slices.getD i 0) b.sliceBytes))
  let held := s.readHeld pasid va 128 || (valid && b.slices.any fun a => s.walkHeld pasid a b.sliceBytes)
  s.mbWhenFree c held fun s => s.mbRun c
    [(17, s.mbReserved c), (18, s.mbDenied c pasid), (19, s.argBad pasid va 1 128 .load), (20, bad),
     (21, s.plans.any fun p => p.pasid == pasid && !p.freed && p.bufs.contains n), (22, decide (4096 ≤ n))]
    fun s =>
      let rest := s.buffers.filter fun x => !(x.pasid == pasid && x.n == n)
      { s with buffers := if valid then b :: rest else rest }.mbEnd c 1

/-! The fabric import table: 0x09 (R229). -/

/-- TYPE of an import entry. -/
def fabricTypeOf (n : Nat) : FabricType := if n = 0 then .physical else if n = 1 then .virtual else .doorbell

/-- 0x09 (R229, R342). -/
def State.writeImport (s : State) (c : Mailbox) : State :=
  let pasid := s.mbPasid c
  let n := s.mbArg c 0
  let va := toWord (s.mbArg c 1)
  let bs := match s.engineRead pasid va 32 with
    | .ok _ bs => bs
    | _ => []
  let at_ := fun o k => leNat ((bs.drop o).take k)
  let ctl := at_ 0 4
  let valid := ctl % 2 == 1
  let e : ImportEntry :=
    { n := n, dev := at_ 6 2, spasid := at_ 8 4, tpasid := at_ 12 4, type := fabricTypeOf (ctl / 2 % 4), perm := BitVec.ofNat 4 (at_ 4 1)
      base := at_ 16 8, limit := at_ 24 8 }
  let bad := decide (8 ≤ ctl) || ctl / 2 % 4 == 3 || decide (16 ≤ at_ 4 1) || at_ 5 1 != 0 || decide (2 ^ 14 ≤ e.dev) ||
    decide (2 ^ 20 ≤ e.spasid) || decide (2 ^ 20 ≤ e.tpasid) || decide (e.limit ≤ e.base) ||
    s.imports.any fun x => x.n != n && x.dev == e.dev && x.spasid == e.spasid && x.type == e.type &&
      rangesMeet x.base (x.limit - x.base) e.base (e.limit - e.base)
  s.mbWhenFree c (s.readHeld pasid va 32) fun s => s.mbRun c
    [(17, s.mbReserved c), (18, s.mbDenied c pasid || (valid && c.vf.isSome && s.mbDenied c e.tpasid)), (19, s.argBad pasid va 1 32 .load),
     (20, bad), (22, decide (1024 ≤ n))]
    fun s =>
      let rest := s.imports.filter (·.n != n)
      { s with imports := if valid then e :: rest else rest }.mbEnd c 1

/-! Format windows and contexts: 0x0A, 0x0B. -/

/-- 0x0A (R95, R96, R342): the four register values are written in order. -/
def State.setWindow (s : State) (c : Mailbox) : State :=
  let n := s.mbArg c 0
  let v := fun i => toWord (s.mbArg c i)
  let cur := vget s.io.fw n FormatWindow.zero
  let new : FormatWindow :=
    { enc := keep (v 1) [(55, 6)], scale := keep (v 2) [(55, 6)], aliasBase := keep (v 3) [(55, 16)], ctl := keep (v 4) [(44, 40), (36, 32), (31, 0)] }
  let enables := (v 4).getLsbD 63
  s.mbRun c
    [(17, s.mbReserved c), (18, s.mbDenied c (s.mbPasid c)), (20, enables && !cur.ctl.getLsbD 63 && s.windowBad n new), (21, enables && cur.ctl.getLsbD 63),
     (22, decide (16 ≤ n))]
    fun s =>
      ((((s.fwStore (.fwEnc n) (v 1)).fwStore (.fwScale n) (v 2)).fwStore (.fwAlias n) (v 3)).fwStore (.fwCtl n) (v 4)).mbEnd c 1

/-- 0x0B (R329, R342): the entry's 64 bytes go to the table at CTXBASE. -/
def State.writeContext (s : State) (c : Mailbox) : State :=
  let pasid := s.mbArg c 0
  let pa := s.mbArg c 1
  let bs := s.mem.read pa 64
  let at_ := fun o k => leNat ((bs.drop o).take k)
  let foreign := match c.vf with
    | some v => at_ 16 1 != v || ((s.context pasid).valid && (s.context pasid).part != v)
    | none => false
  s.mbWhenFree c (s.guest.owned.contains (lineOf pa) || s.lineBusy (s.contextPa pasid)) fun s => s.mbRun c
    [(17, s.mbReserved c), (18, foreign), (19, pa % 64 != 0 || paRange s.memMap pa == .unassigned || decide (2 ^ 56 ≤ pa)),
     (20, decide (2 ≤ at_ 0 1) || at_ 1 7 != 0 || decide (16 ≤ at_ 16 1) || at_ 17 7 != 0 || at_ 48 16 != 0), (22, decide (2 ^ 20 ≤ pasid))]
    fun s => (s.storeHw 0 (s.contextPa pasid) bs).mbEnd c 1

/-! Images and versions: 0x0C, 0x0D (R346, R347). -/

/-- The address lies in memory, of the device or of the host. -/
def State.inMemory (s : State) (pa : Nat) : Bool := match paRange s.memMap pa with
  | .dram | .pinned _ | .host => true
  | _ => false

/-- 0x0C (R346): the image is staged for the next module reset. An image in another kind of memory is refused; one that begins in memory and
runs out of it is a capability fault (R343, R344; log 28). -/
def State.stageImage (s : State) (c : Mailbox) : State :=
  let pa := s.mbArg c 0
  let n := s.mbArg c 1
  s.mbWhenFree c (s.guest.owned.any fun a => rangesMeet a 64 pa n) fun s =>
    s.mbRun c [(17, s.mbReserved c), (18, s.mbDenied c (s.mbPasid c)), (19, decide (2 ^ 56 ≤ pa) || !s.inMemory pa)] fun s =>
      if !s.inMemory (pa + (n - 1)) then s.mbEnd c 3
      else { s with fw := { s.fw with staged := some (s.mem.read pa n) } }.mbEnd c 1

/-- 0x0D (R347): the fuse counter is raised to an SVN from the counter up to the running image's. -/
def State.commitSvn (s : State) (c : Mailbox) : State :=
  let v := s.mbArg c 0
  s.mbRun c [(17, s.mbReserved c), (18, s.mbDenied c (s.mbPasid c)), (25, decide (v < s.fw.fuse) || decide (s.fw.svn < v))] fun s =>
    { s with fw := { s.fw with fuse := v } }.mbEnd c 1

/-! The guest: 0x0E, 0x0F, 0x10 (R354, R357). -/

/-- The guest's services are not available (R343 reason 24). -/
def State.noGuest (s : State) : Bool := s.fw.reduced || !s.guestOn

/-- The bytes lie in coherent device memory: all of them in the interleaved range or in one stack's pinned range. -/
def State.inDevice (s : State) (pa n : Nat) : Bool :=
  let r := paRange s.memMap pa
  (r matches .dram | .pinned _) && paRange s.memMap (pa + (n - 1)) == r && decide (n ≤ 2 ^ 40)

/-- 0x0E (R357): the guest is asked to save; the command ends at its acknowledgement, or at the fence that replaces it. -/
def State.preempt (s : State) (c : Mailbox) : State :=
  let pasid := s.mbArg c 0
  let area := s.mbArg c 1
  let n := s.mbArg c 2
  s.mbRun c [(17, s.mbReserved c), (18, s.mbDenied c pasid), (19, !s.inDevice area n), (24, s.noGuest)] fun s =>
    ((s.updGuest fun g => { g with save := some (pasid, area, n) }).tellGuest (.save pasid area n)).mbHold c

/-- 0x0F (R357): the guest reloads its state and resumes the packets it held. -/
def State.reload' (s : State) (c : Mailbox) : State :=
  let pasid := s.mbArg c 0
  s.mbRun c [(17, s.mbReserved c), (18, s.mbDenied c pasid), (22, !s.guest.paused.contains pasid), (24, s.noGuest)] fun s =>
    ((s.updGuest fun g => { g with paused := g.paused.filter (· != pasid) }).tellGuest
      (.reload pasid (s.mbArg c 1) (s.mbArg c 2))).mbEnd c 1

/-- 0x10 (R354): the certificate chain and measurement as presented, and the verdict in the buffer's last byte (log 18). -/
def State.copyIdentity (s : State) (c : Mailbox) : State :=
  let pa := s.mbArg c 0
  s.mbWhenFree c (s.guest.owned.any fun a => rangesMeet a 64 pa 16384) fun s => s.mbRun c
    [(17, s.mbReserved c), (18, s.mbDenied c (s.mbPasid c)), (19, paRange s.memMap pa != .host || paRange s.memMap (pa + 16383) != .host), (24, s.fw.reduced)] fun s =>
    let body := s.guest.chain.take 16383
    (s.storeHw (s.mbPasid c) pa (body ++ List.replicate (16383 - body.length) 0 ++ [if s.guest.identityOk then 1 else 0])).mbEnd c 1

/-! Fault records: 0x11 (R361). -/

/-- 0x11 (R361): a leaf entry is installed if asked, then FRESUME is written. No entry maps a page that is retired (R327; log 69). -/
def State.resolveRecord (s : State) (c : Mailbox) : State :=
  let seq := s.mbNat c 16 4
  let act := s.mbNat c 20 1
  let ptePa := s.mbNat c 24 8
  let pte := toWord (s.mbNat c 32 8)
  let rec' := s.openFaults.find? fun o => o.seq.toNat == seq
  s.mbWhenFree c (ptePa != 0 && s.lineBusy ptePa) fun s => s.mbRun c
    [(1, rec'.isNone), (2, rec'.any fun o => o.record.pasid != s.mbPasid c), (3, ptePa != 0 && s.inMemory ptePa && (s.mem.get ptePa).getLsbD 0),
     (17, s.mbReserved c || decide (2 ≤ act) || s.mbNat c 21 3 != 0 || s.mbNat c 40 24 != 0), (18, s.mbDenied c (s.mbPasid c)),
     (19, ptePa % 8 != 0 || decide (2 ^ 56 ≤ ptePa) || ptePa != 0 && !s.inMemory ptePa),
     (20, ptePa != 0 && pte.getLsbD 0 && s.retired.contains (pteAddr pte / 65536))]
    fun s =>
      let s := if ptePa = 0 then s else s.storeHw (s.mbPasid c) ptePa (wordBytes pte)
      (s.writeFresume (toWord (act * 2 ^ 62 + seq))).mbEnd c 1

/-! Counters and partitions: 0x12, 0x13 (R362, R367). -/

/-- The listed events (R363). -/
def eventListed (e : Nat) : Bool := [0x1, 0x2, 0x3, 0x4, 0x5, 0x10, 0x11, 0x20, 0x21, 0x30].contains e

/-- An owner of a counter whose counts are not a virtual function's to take: one of another partition (R343, R368). -/
def State.foreignTo (s : State) (c : Mailbox) (owner : Nat) : Bool := match c.vf with
  | some v => owner != 0 && (s.context owner).part != v
  | none => false

/-- 0x12 (R362). A virtual function may take a counter only from its own partition; a counter that comes to another owner counts from 0, with
an empty snapshot (R368; log 52). -/
def State.writeCounter (s : State) (c : Mailbox) : State :=
  let bank := s.mbNat c 16 2
  let n := s.mbNat c 18 1
  let v := toWord (s.mbNat c 24 8)
  let owner := bits v 51 32
  let old := bits (s.counter bank n).control 51 32
  s.mbRun c
    [(1, !eventListed (bits v 15 0)), (2, decide (bankSize bank ≤ n)), (17, s.mbReserved c), (18, s.mbDenied c (s.mbPasid c) || (c.vf.isSome && s.mbDenied c owner) || s.foreignTo c old)]
    fun s =>
      let s := s.fwStore (.control bank n) v
      let k := s.counter bank n
      let k := if owner = old then k else { k with value := 0, snap := 0, control := k.control &&& ~~~0x2000_0000_0000_0000#64 }
      (s.setCounter { k with saveVa := toWord (s.mbNat c 32 8) }).mbEnd c 1

/-- The partition of a PASID. -/
def State.partOf (s : State) (pasid : Nat) : Nat := (s.context pasid).part

/-- A partition with a placed gang, or a registered queue or plan (R367). -/
def State.partUsed (s : State) (p : Nat) : Bool :=
  (s.gangs.any fun g => g.place.isSome && s.partOf (s.pasidOf g.launch) == p) || (s.queues.any fun q => s.partOf q.pasid == p) ||
    (s.hwqs.any fun q => s.partOf q.pasid == p) || s.plans.any fun q => !q.freed && s.partOf q.pasid == p

/-- A strict configuration with an empty field, or one that shares an assignment with another strict partition (R368). -/
def State.partBad (s : State) (p : Nat) (v : Word) : Bool :=
  v.getLsbD 63 && (bits v 55 48 == 0 || bits v 47 32 == 0 || bits v 31 0 == 0 ||
    (List.range 16).any fun k => k != p && s.isStrict k &&
      ((s.partcfg k &&& v) &&& 0x00FF_FFFF_FFFF_FFFF#64) != 0)

/-- 0x13 (R367, R368). -/
def State.writePartition (s : State) (c : Mailbox) : State :=
  let p := s.mbArg c 0
  let v := toWord (s.mbArg c 1)
  s.mbRun c [(17, s.mbReserved c), (18, c.vf.isSome || s.mbDenied c (s.mbPasid c)), (20, s.partBad p v), (21, s.partUsed p), (22, decide (16 ≤ p))] fun s =>
    (s.fwStore (.partcfg p) v).mbEnd c 1

/-! Order. -/

/-- The command of an OP (R342); another OP is refused with reason 16. -/
def State.runOp (s : State) (c : Mailbox) (op : Nat) : State :=
  match op with
  | 0x01 => s.registerQueue c
  | 0x02 => s.deregisterQueue c
  | 0x03 => s.clearError c
  | 0x04 => s.invalidate c
  | 0x05 => s.hardwareQueue c
  | 0x06 => s.createPlan c
  | 0x07 => s.freePlan c
  | 0x08 => s.writeBufferEntry c
  | 0x09 => s.writeImport c
  | 0x0A => s.setWindow c
  | 0x0B => s.writeContext c
  | 0x0C => s.stageImage c
  | 0x0D => s.commitSvn c
  | 0x0E => s.preempt c
  | 0x0F => s.reload' c
  | 0x10 => s.copyIdentity c
  | 0x11 => s.resolveRecord c
  | 0x12 => s.writeCounter c
  | 0x13 => s.writePartition c
  | _ => s.mbRefuse c 16

/-- The command in progress goes on, or the next one that waits begins (R341). -/
def State.mailboxStep (s : State) : State :=
  match s.fw.current with
  | some c =>
    if s.lineBusy c.recPA then s
    else match s.mbNat c 0 2 with
      | 0x02 => s.deregisterGo c
      | 0x04 => s.invalidateGo c
      | 0x0E => s
      | op => s.runOp c op
  | none => match s.fw.waiting with
    | [] => s
    | c :: rest => if s.lineBusy c.recPA then s else { s with fw := { s.fw with waiting := rest } }.runOp c (s.mbNat c 0 2)

/-- A command of one OP is submitted. -/
def State.submitOp (s : State) (c : Mailbox) (op : Nat) : Out := .next (s.submit c (· == op) (fun c s => s.runOp c op) State.mailboxStep)

/-- REGISTER_MEMORY_QUEUE (R136, R342). -/
def execRegisterMemoryQueue (c : Mailbox) (s : State) : Out := s.submitOp c 0x01
/-- DEREGISTER_MEMORY_QUEUE (R342). -/
def execDeregisterMemoryQueue (c : Mailbox) (s : State) : Out := s.submitOp c 0x02
/-- CLEAR_QUEUE_ERROR (R342). -/
def execClearQueueError (c : Mailbox) (s : State) : Out := s.submitOp c 0x03
/-- TRANSLATION_INVALIDATION (R83). -/
def execTranslationInvalidation (c : Mailbox) (s : State) : Out := s.submitOp c 0x04
/-- HARDWARE_QUEUE_REGISTRATION (R300). -/
def execHardwareQueueRegistration (c : Mailbox) (s : State) : Out := s.submitOp c 0x05
/-- CREATE_HALYARD_PLAN (R237). -/
def execCreateHalyardPlan (c : Mailbox) (s : State) : Out := s.submitOp c 0x06
/-- FREE_HALYARD_PLAN (R238). -/
def execFreeHalyardPlan (c : Mailbox) (s : State) : Out := s.submitOp c 0x07
/-- WRITE_BUFFER_TABLE_ENTRY (R236). -/
def execWriteBufferTableEntry (c : Mailbox) (s : State) : Out := s.submitOp c 0x08
/-- WRITE_FABRIC_IMPORT_ENTRY (R229). -/
def execWriteFabricImportEntry (c : Mailbox) (s : State) : Out := s.submitOp c 0x09
/-- SET_FORMAT_WINDOW (R96). -/
def execSetFormatWindow (c : Mailbox) (s : State) : Out := s.submitOp c 0x0A
/-- WRITE_PASID_CONTEXT (R329). -/
def execWritePasidContext (c : Mailbox) (s : State) : Out := s.submitOp c 0x0B
/-- STAGE_FIRMWARE_IMAGE (R346). -/
def execStageFirmwareImage (c : Mailbox) (s : State) : Out := s.submitOp c 0x0C
/-- COMMIT_SECURITY_VERSION (R347). -/
def execCommitSecurityVersion (c : Mailbox) (s : State) : Out := s.submitOp c 0x0D
/-- PREEMPT_GUEST (R357). -/
def execPreemptGuest (c : Mailbox) (s : State) : Out := s.submitOp c 0x0E
/-- RELOAD_GUEST (R357). -/
def execReloadGuest (c : Mailbox) (s : State) : Out := s.submitOp c 0x0F
/-- COPY_GUEST_IDENTITY (R354). -/
def execCopyGuestIdentity (c : Mailbox) (s : State) : Out := s.submitOp c 0x10
/-- RESOLVE_FAULT_RECORD (R361). -/
def execResolveFaultRecord (c : Mailbox) (s : State) : Out := s.submitOp c 0x11
/-- WRITE_COUNTER_CONTROL (R362). -/
def execWriteCounterControl (c : Mailbox) (s : State) : Out := s.submitOp c 0x12
/-- WRITE_PARTITION_CONFIG (R367). -/
def execWritePartitionConfig (c : Mailbox) (s : State) : Out := s.submitOp c 0x13
/-- MAILBOX_UNLISTED_OP (R342, R343): reason 16. -/
def execMailboxUnlistedOp (c : Mailbox) (s : State) : Out :=
  .next (s.submit c (fun op => op == 0 || decide (0x13 < op)) (fun c s => s.mbRefuse c 16) State.mailboxStep)

end Sys2Proof.Machine
end

