-- ==== Sys2Proof/Machine/HostEvents.lean ====
section
/-! DEFINITION. The host's accesses to device memory and to BAR0 (R84, R116, R340, R341), module reset and its images (R346 to R348), host lines across
transitions (R345), and power (R369). -/

namespace Sys2Proof.Machine

/-- The PA lies in device DRAM. -/
def State.isDram (s : State) (pa : Nat) : Bool := (dramHome s.memMap pa).isSome

/-- A host access through the HDM window (R116, R314, R340). A read of an unassigned address, or of a line in error, returns poisoned data,
which hostReads shows as no bytes; a write there is dropped. A refused write is dropped and reported. An access to a line that the guest
owns, or a write to one that a rollback holds, waits. A line that is read becomes a host copy (R84), which a write here takes back. -/
def State.hostMem (s : State) (a : BusAccess) : State :=
  let n := match a.data with
    | some d => d.length
    | none => a.len
  let got := fun (s : State) (bs : List Byte) => { s with hostReads := s.hostReads ++ [(a.pa, bs)] }
  let lines := (lineSpans a.pa n).map fun sp => lineOf sp.1
  if n = 0 then s
  else if 2 ^ 40 ≤ a.pa + (n - 1) || !lines.all s.isDram then
    match a.data with
    | some _ => s.countHub
    | none => got s.countHub []
  else
    match a.data with
    | none =>
      if lines.any s.guest.owned.contains then s
      else if lines.any s.badLines.contains then got s []
      else
        let s := lines.foldl State.shareOut s
        got { s with hostCopies := lines ++ s.hostCopies.filter fun x => !lines.contains x } (s.mem.read a.pa n)
    | some d =>
      if lines.any s.lineBusy then s
      else match s.storeLogged none a.pa d with
        | .ok s => s
        | .refused s _ _ => { s with signals := s.signals ++ [Signal.cxlError] }

/-- MBSTAT (R341, R346, R348). -/
def State.mbstat (s : State) : Word :=
  if s.fw.serving then
    toWord ((if s.fw.current.isSome then 2 ^ 63 else 0) + (if s.fw.reduced then 2 ^ 62 else 0) + s.fw.completed.toNat)
  else 0

/-- SELFTEST (R348). -/
def State.selftest (s : State) : Word :=
  toWord (s.fw.dieOk.toNat + s.fw.stackOk.toNat * 2 ^ 8 + (if s.fw.guestSite then 2 ^ 16 else 0))

/-- A byte of BAR0 (R340): MBSTAT, SELFTEST, the lost-line logs of the dies and of the guest, the copies of fault records (R341, R345, R348,
R359, R361). Any other byte is open. -/
def State.barByte (s : State) (off : Nat) : Byte :=
  let of := fun (bs : List Byte) (base : Nat) => bs.getD (off - base) 0
  let log := fun (l : List Word) (base : Nat) => (wordBytes (l.getD ((off - base) / 8) 0)).getD (off % 8) 0
  if 0x8 ≤ off ∧ off < 0x10 then of (wordBytes s.mbstat) 0x8
  else if 0x10 ≤ off ∧ off < 0x18 then of (wordBytes s.selftest) 0x10
  else if 0x1000 ≤ off ∧ off < 0x1800 then log s.lostLog 0x1000
  else if 0x2000 ≤ off ∧ off < 0x2800 then log s.guest.lost 0x2000
  else if 0x3000 ≤ off ∧ off < 0x3800 then
    match s.fw.faultCopies.find? (·.1 == (off - 0x3000) / 32) with
    | some x => x.2.getD (off % 32) 0
    | none => 0
  else Config.barByte s.ticks off

/-- A store of 8 bytes to MBCMD (R341): the command of the record it names is submitted. -/
def State.mbcmd (s : State) (v : Word) : State :=
  s.submit { recPA := v.toNat, vf := none, dirty := false, go := false } (fun _ => true) (fun c s => s.runOp c (s.mbNat c 0 2)) State.mailboxStep

/-- A host access to BAR0 (R340): a load reads its bytes; a store changes nothing but through MBCMD. -/
def State.hostBar0 (s : State) (a : BusAccess) : State :=
  match a.data with
  | none => { s with hostReads := s.hostReads ++ [(a.pa, (List.range a.len).map fun i => s.barByte (a.pa + i))] }
  | some d => if a.pa = 0 && d.length = 8 then s.mbcmd (bytesWord d) else s

/-- HOST_MEM_ACCESS (R84, R116, R340): through the HDM window, which a device without a service does not answer (R346, R348); to BAR0; or the
host gives up a clean copy of a line. -/
def execHostMemAccess (a : HostAccess) (s : State) : Out :=
  match a with
  | .mem a => .next (if s.fw.serving then s.hostMem a else s)
  | .bar0 a => .next (s.hostBar0 a)
  | .drop pa => .next { s with hostCopies := s.hostCopies.filter (· != lineOf pa) }

/-! Images (R346). -/

/-- The header fields of an image. -/
structure ImageHeader where
  magic : Nat
  flags : Nat
  svn : Nat
  len : Nat
  digest : List Byte
  keyHash : List Byte
  sig : Nat
  modulus : List Byte

/-- The header of an image's bytes. MOD and SIG are little-endian numbers, the hashes byte strings (log 17). -/
def imageHeader (bs : List Byte) : ImageHeader :=
  let at_ := fun o n => (bs.drop o).take n
  { magic := leNat (at_ 0 4), flags := leNat (at_ 4 4), svn := leNat (at_ 8 8), len := leNat (at_ 16 8), digest := at_ 32 48
    keyHash := at_ 80 48, sig := leNat (at_ 128 384), modulus := at_ 512 384 }

/-- The boot ROM accepts an image (R346). -/
def imageAccepted (bs : List Byte) (fuse : Nat) : Bool :=
  let h := imageHeader bs
  decide (896 ≤ bs.length) && h.magic == 0x4855454D && decide (h.flags < 2) && h.keyHash == sha384 h.modulus &&
    beNat h.keyHash == Config.fuseKeyHash.toNat && pssVerify (leNat h.modulus) h.sig (bs.take 128) &&
    decide (h.len ≤ bs.length - 896) && h.digest == sha384 ((bs.drop 896).take h.len) && decide (fuse ≤ h.svn)

/-- The image that a module reset runs: the staged one, else the flash image, where accepted. -/
def bootImage (staged : Option (List Byte)) (flash : List Byte) (fuse : Nat) : Option ImageHeader :=
  match staged with
  | some bs => if imageAccepted bs fuse then some (imageHeader bs) else if imageAccepted flash fuse then some (imageHeader flash) else none
  | none => if imageAccepted flash fuse then some (imageHeader flash) else none

/-- The lower stack of the service pair of a die (R348). -/
def servicePairOf (die : Nat) (stackOk : BitVec 8) : Option Nat :=
  ([4 * die, 4 * die + 2].find? fun k => stackOk.getLsbD k && stackOk.getLsbD (k + 1))

/-- MODULE_RESET (R346, R348): every register and unit is as State.reset gives it; memory, the fuse counter and the lost-line logs
stay (log 6). -/
def execModuleReset (st : SelfTest) (s : State) : Out :=
  let base := { State.reset with mem := s.mem, badLines := s.badLines, lostLog := s.lostLog, guest := { Guest.reset with lost := s.guest.lost } }
  let fw := { Firmware.reset with fuse := s.fw.fuse, dieOk := st.dieOk, stackOk := st.stackOk, guestSite := st.guestOk }
  let none' := { base with fw := { fw with serving := false } }
  match bootImage s.fw.staged st.flash s.fw.fuse with
  | none => .next none'
  | some h =>
    let die := if st.dieOk.getLsbD 0 then 0 else 1
    if h.flags % 2 = 0 && st.dieOk == 3 && st.stackOk == 0xFF then .next { base with fw := { fw with svn := h.svn } }
    else match st.dieOk == 0, servicePairOf die st.stackOk with
      | false, some p =>
        .next { base with fw := { fw with svn := h.svn, reduced := true, serviceDie := die, servicePair := p }, arithMHz := 1000 }
      | _, _ => .next none'

/-! Host lines (R345). -/

/-- Lines that a die's caches drop for good. -/
def State.emptyCaches (s : State) (die : Nat) (hit : Nat → Bool) : State :=
  (s.l2.filter fun x => x.die == die && hit x.pa).foldl (fun s x => s.evictL2 die x.pa) s

/-- The host lines of a die are with the host: the modified ones written back, the clean ones dropped (R345 steps 1 to 4). -/
def State.flushHost (s : State) (die : Nat) : State :=
  let s := s.emptyCaches die isHostPa
  { s with hostLines := s.hostLines.filter (·.die != die) }

/-- HOST_LINE_FLUSH (R345). -/
def execHostLineFlush (die : Nat) (s : State) : Out := .next (s.flushHost die)

/-- FATAL_RESET (R345): the die's modified host lines are lost: the host keeps what it last received, and the lost-line log names
them. The die's caches are empty then. -/
def execFatalReset (die : Nat) (s : State) : Out :=
  let lost := s.hostLines.filter (·.die == die)
  let s := lost.foldl (fun s x =>
    { s with mem := Memory.write s.mem x.pa x.old, lostLog := addLost s.lostLog x.pa }) s
  let s := (s.flushHost die).emptyCaches die fun _ => true
  .next (if lost.isEmpty then s else { s with signals := s.signals ++ [Signal.cxlError] })

/-! Power (R369). -/

/-- A die with a placed gang or engine work. -/
def State.dieBusy (s : State) (die : Nat) : Bool :=
  (s.gangs.any fun g => g.core.map dieOf == some die) || (s.coreCmds.any fun c => dieOf c.core == die) ||
    (s.matCmds.any fun c => dieOf c.core == die) || s.queues.any fun q => match q.engine with
      | .bulk d _ => d == die && (!q.begun.isEmpty || (q.bound && !q.err && (q.db - toWord q.next).toNat != 0))
      | _ => false

/-- DIE_POWER_GATE (R345, R369): the caches and translations of a gated die are gone. -/
def execDiePowerGate (die : Nat) (s : State) : Out :=
  if 2 ≤ die || s.dieBusy die then .next s
  else
    let s := (s.flushHost die).emptyCaches die fun _ => true
    let s :=
      { s with
        tlb := s.tlb.filter fun e => dieOf e.core != die, ctlb := s.ctlb.filter fun e => e.core / 16 != die
        walkCache := s.walkCache.filter (·.die != die), ibuf := s.ibuf.filter fun x => dieOf x.core != die }
    .next { s with gated := s.gated ||| (1#2 <<< die) }

/-- DIE_WAKE (R369). -/
def execDieWake (die : Nat) (s : State) : Out := .next (s.wakeDie die)

/-- POWER_WINDOW (R369): the average of a window above LIMIT lowers the arithmetic clock by 100 MHz, never below FMIN; one below
LIMIT raises it, up to the service's full rate (log 20). -/
def execPowerWindow (watts : Nat) (s : State) : Out :=
  let limit := bits s.io.powctl 11 0
  let fmin := bits s.io.powctl 43 32
  let top := if s.fw.reduced then 1000 else 1900
  .next (if limit < watts then { s with arithMHz := max fmin (s.arithMHz - 100) }
    else if watts < limit then { s with arithMHz := max fmin (min top (s.arithMHz + 100)) }
    else s)

end Sys2Proof.Machine
end

