-- ==== Sys2Proof/Machine/Run.lean ====
section
/-! DEFINITION. What a step does around exec: time passes, the next stream is chosen and its word is fetched and decoded (R20, R21,
R44, R247), and the machine's own events happen in an order of the model's (log 1). -/

namespace Sys2Proof.Machine

/-- Time passes: one step, and clocks that nothing here fixes (log 4). -/
def State.tick (s : State) : State := { s with ticks := s.ticks + 1, clock := s.clock + 1#64 + toWord (Config.freeClocks s.ticks), turn := !s.turn }

/-! The next stream. -/

/-- A resident gang issues, unless it is about to leave or its core is being taken by pre-emption (R297, R310). One about to leave whose
streams have only their EXITs left executes those (R304). -/
def State.issues (s : State) (g : Gang) : Bool :=
  match g.core with
  | none => false
  | some c => if g.evict then s.atExit g else !s.preempting c

/-- A stream may issue: it waits for nothing, no trap stopped it, and its gangs issue. -/
def State.ready (s : State) (t : Stream) : Bool :=
  t.wait == .none && !t.stopped && !t.homes.isEmpty && t.homes.all fun k => (s.gang? t.launch k).any s.issues

/-- The next stream in rotation: the first ready one after the last that issued, else the first. -/
def State.nextStream (s : State) : Option Stream :=
  match s.streams.find? fun t => decide (s.last < t.sid) && s.ready t with
  | some t => some t
  | none => s.streams.find? s.ready

/-- What happens before anything else: the windows that are to close do, and a gang whose own state is in error ends its launch (R255,
R327). -/
def State.forced (s : State) : State := (s.dueWindows.foldl (fun s w => s.closePack w.1 w.2.1 w.2.2) s).failBad

/-! Fetch. -/

/-- The word or pair at a stream's PC: decoded, or the fetch has ended in a trap, a fault or a step toward a commit point. -/
inductive Ready where
  | word (s : State) (d : Decoded)
  | ended (s : State)

/-- Fetch until the word is whole: the line of the first missing byte is fetched (R21). -/
def State.fetchWord (t : Stream) (core : Nat) : Nat → State → Ready
  | 0, s => .ended s
  | fuel + 1, s =>
    let bs := s.codeBytes t core t.pc
    match decode bs with
    | .more _ =>
      let a := t.pc + toWord bs.length
      match s.fetchLine t core (lineOf (vaOf a)) a with
      | .line s => State.fetchWord t core fuel s
      | .ended s => .ended s
    | d => .word s d

/-- The deferred report that a stream has to raise (R133, R314). -/
def State.report? (s : State) (t : Stream) : Bool :=
  t.homes.any fun k => (s.gang? t.launch k).any fun g => g.deferred.any (·.sid == t.sid)

/-! The machine's own events. -/

/-- The state that an event leaves, none if it changes nothing. -/
def changed (s : State) (o : Out) : Option State :=
  match o with
  | .next t => if t = s then none else some t
  | _ => none

/-- The first event of a list that changes the state. -/
def firstOf (s : State) : List (State → Out) → Option State
  | [] => none
  | e :: es => match changed s (e s) with
    | some t => some t
    | none => firstOf s es

/-- The events of the caches and the walkers: signatures are tested for lines that are gone, walks end (R82, R89). -/
def State.cacheEvents (s : State) : List (State → Out) :=
  (if s.dropped.isEmpty then [] else [fun s => .next s.testDropped]) ++
    (s.walking 0 ++ s.walking 1).map fun m => fun s => .next (s.walkMiss m)

/-- The events of streams: results return, stores become visible, instructions commit, watched lines are loaded again, pool entries are
granted. -/
def State.streamEvents (s : State) : List (State → Out) :=
  (s.gangs.filter fun g => !g.pending.isEmpty).map (fun g => execRegisterResultReturn g.launch g.idx 0) ++
    s.streams.flatMap fun t =>
      [execStoreVisibility t.sid, execInstructionCommit t.sid] ++ (if t.due then [execWatchReload t.sid] else []) ++
        match t.wait with
        | .pool _ _ => match s.waitCore t with
          | some c => [execQueuePoolGrant c t.sid]
          | none => []
        | .resize _ => [fun s => .next s.wakeResize]
        | _ => []

/-- The next work of an engine on some packets, by class. -/
def workEvents (e : EngineRef) (ws : List PacketWork) : List (State → Out) :=
  ws.flatMap fun w => match pktClass w.words with
    | 1 => [execCopyPacket e w.slot 1]
    | 2 => [execCopyQuantizePacket e w.slot 1]
    | 3 => [execCopyDecodePacket e w.slot 1]
    | 4 => [execReduceCopyPacket e w.slot 1]
    | 5 => [execFillPacket e w.slot 1]
    | _ => []

/-- The events of queues, engines and fabric. -/
def State.engineEvents (s : State) : List (State → Out) :=
  (s.queues.flatMap fun q =>
    let e := EngineRef.queue q.pasid q.hdr
    (if q.err then [execPacketComplete e 0] else []) ++ q.begun.map (fun w => execPacketComplete e w.slot) ++ workEvents e q.begun ++
      (if q.engine = .launch then q.begun.map fun w => execLaunchPacket q.pasid q.hdr w.slot else []) ++ [execQueueSlotFetch q.pasid q.hdr]) ++
    (s.coreCmds.flatMap fun c => execPacketComplete (.core c.core) c.seq :: workEvents (.core c.core) [c.work]) ++
    (s.matCmds.flatMap fun c => [execMatrixCommandStart c.core c.seq, execMatrixCommandComplete c.core c.seq]) ++
    (s.xcmds.map fun c => execXnetComplete c.seq) ++
    (s.plans.flatMap fun p => (p.buckets.filter fun b => b.inFlight || b.lateDue != 0).map fun b => execHalyardBucketComplete p.handle b.n) ++
    (s.launches.flatMap fun x => ((List.range 16).filter fun i => (x.region i).state == .rolling).map fun i => execCkrollComplete x.id i)

/-- The cores that hold or may hold gangs at work, ascending (R384). -/
def State.coresInUse (s : State) : List Nat :=
  sortNat (s.gangs.filterMap Gang.core ++ s.gangs.filterMap (·.blockCore) ++ s.splices.filterMap (·.core) ++
    s.marks.filterMap (·.reserve)).eraseDups

/-- The events of gangs and launches, of firmware and of fault records. -/
def State.placeEvents (s : State) : List (State → Out) :=
  (s.gangs.map fun g => execRegangCombine g.launch g.idx) ++
    (s.gangs.map fun g => execGangFinish g.launch g.idx) ++
    ((s.gangs.filter (·.evict)).map fun g => execGangEviction g.launch g.idx) ++ (s.launches.map fun x => execLaunchComplete x.id) ++
    [execFaultRecordPost, fun s => .next s.mailboxStep, State.retryHeld,
     fun s => .next s.closeWindows, execPlacementDecision] ++
    (s.coresInUse.flatMap fun c => [execExtendedBlockGrant c, execResidencyDecision c]) ++
    if s.streams.any fun t => match t.wait with | .hwqMap _ => true | _ => false then [execRunListTurn 0, execRunListTurn 1] else []

/-- What happens when nothing else does: time has passed, and spinners and watchers look again (R152, R283). -/
def State.idleEvents (s : State) : List (State → Out) := s.streams.map fun t => execWatchRecheckExpiry t.sid

/-- The next of the machine's own events; with none, nothing happens. -/
def State.internal (s : State) : State :=
  (firstOf s (s.cacheEvents ++ s.streamEvents ++ s.engineEvents ++ s.placeEvents ++ s.idleEvents)).getD s

end Sys2Proof.Machine
end

