-- ==== Sys2Proof/Machine/Dispatch.lean ====
section
/-! DEFINITION. One instruction or event: its meaning, by constructor. -/

namespace Sys2Proof.Machine

def exec (i : Instr) (s : State) : Host.Outcome State Fault Refusal :=
  match i with
  | .nop => Sys2Proof.Machine.execNop s
  | .iadd16 f => Sys2Proof.Machine.execIadd16 f s
  | .isub16 f => Sys2Proof.Machine.execIsub16 f s
  | .and16 f => Sys2Proof.Machine.execAnd16 f s
  | .or16 f => Sys2Proof.Machine.execOr16 f s
  | .xor16 f => Sys2Proof.Machine.execXor16 f s
  | .shl16 f => Sys2Proof.Machine.execShl16 f s
  | .mov16 f => Sys2Proof.Machine.execMov16 f s
  | .fadd16 f => Sys2Proof.Machine.execFadd16 f s
  | .fsub16 f => Sys2Proof.Machine.execFsub16 f s
  | .fmul16 f => Sys2Proof.Machine.execFmul16 f s
  | .fmax16 f => Sys2Proof.Machine.execFmax16 f s
  | .imin16 f => Sys2Proof.Machine.execImin16 f s
  | .imax16 f => Sys2Proof.Machine.execImax16 f s
  | .sadd16 f => Sys2Proof.Machine.execSadd16 f s
  | .smov16 f => Sys2Proof.Machine.execSmov16 f s
  | .prefixedInstruction p op f => Sys2Proof.Machine.execPrefixedInstruction p op f s
  | .illegalInstruction info => Sys2Proof.Machine.execIllegalInstruction info s
  | .iadd f => Sys2Proof.Machine.execIadd f s
  | .isub f => Sys2Proof.Machine.execIsub f s
  | .iadds f => Sys2Proof.Machine.execIadds f s
  | .isubs f => Sys2Proof.Machine.execIsubs f s
  | .imul f => Sys2Proof.Machine.execImul f s
  | .imulh f => Sys2Proof.Machine.execImulh f s
  | .umulh f => Sys2Proof.Machine.execUmulh f s
  | .imad f => Sys2Proof.Machine.execImad f s
  | .imin f => Sys2Proof.Machine.execImin f s
  | .imax f => Sys2Proof.Machine.execImax f s
  | .umin f => Sys2Proof.Machine.execUmin f s
  | .umax f => Sys2Proof.Machine.execUmax f s
  | .iabs f => Sys2Proof.Machine.execIabs f s
  | .shl f => Sys2Proof.Machine.execShl f s
  | .shr f => Sys2Proof.Machine.execShr f s
  | .sar f => Sys2Proof.Machine.execSar f s
  | .and f => Sys2Proof.Machine.execAnd f s
  | .or f => Sys2Proof.Machine.execOr f s
  | .xor f => Sys2Proof.Machine.execXor f s
  | .andn f => Sys2Proof.Machine.execAndn f s
  | .popc f => Sys2Proof.Machine.execPopc f s
  | .clz f => Sys2Proof.Machine.execClz f s
  | .brev f => Sys2Proof.Machine.execBrev f s
  | .bfx f => Sys2Proof.Machine.execBfx f s
  | .bfi f => Sys2Proof.Machine.execBfi f s
  | .lea f => Sys2Proof.Machine.execLea f s
  | .icmpeq f => Sys2Proof.Machine.execIcmpeq f s
  | .icmplt f => Sys2Proof.Machine.execIcmplt f s
  | .icmpltu f => Sys2Proof.Machine.execIcmpltu f s
  | .sel f => Sys2Proof.Machine.execSel f s
  | .mov f => Sys2Proof.Machine.execMov f s
  | .fadd f => Sys2Proof.Machine.execFadd f s
  | .fsub f => Sys2Proof.Machine.execFsub f s
  | .fmul f => Sys2Proof.Machine.execFmul f s
  | .ffma f => Sys2Proof.Machine.execFfma f s
  | .fmin f => Sys2Proof.Machine.execFmin f s
  | .fmax f => Sys2Proof.Machine.execFmax f s
  | .fabs f => Sys2Proof.Machine.execFabs f s
  | .fneg f => Sys2Proof.Machine.execFneg f s
  | .fcmpeq f => Sys2Proof.Machine.execFcmpeq f s
  | .fcmplt f => Sys2Proof.Machine.execFcmplt f s
  | .fcmple f => Sys2Proof.Machine.execFcmple f s
  | .fcmpun f => Sys2Proof.Machine.execFcmpun f s
  | .frcp f => Sys2Proof.Machine.execFrcp f s
  | .frsq f => Sys2Proof.Machine.execFrsq f s
  | .fsqrt f => Sys2Proof.Machine.execFsqrt f s
  | .fexp2 f => Sys2Proof.Machine.execFexp2 f s
  | .flog2 f => Sys2Proof.Machine.execFlog2 f s
  | .fsin f => Sys2Proof.Machine.execFsin f s
  | .fcos f => Sys2Proof.Machine.execFcos f s
  | .ftanh f => Sys2Proof.Machine.execFtanh f s
  | .fround f => Sys2Proof.Machine.execFround f s
  | .fscale f => Sys2Proof.Machine.execFscale f s
  | .fclass f => Sys2Proof.Machine.execFclass f s
  | .fdot2 f => Sys2Proof.Machine.execFdot2 f s
  | .cvt f => Sys2Proof.Machine.execCvt f s
  | .cbld f => Sys2Proof.Machine.execCbld f s
  | .cbst f => Sys2Proof.Machine.execCbst f s
  | .shfl f => Sys2Proof.Machine.execShfl f s
  | .bcast f => Sys2Proof.Machine.execBcast f s
  | .perm f => Sys2Proof.Machine.execPerm f s
  | .mred f => Sys2Proof.Machine.execMred f s
  | .scan f => Sys2Proof.Machine.execScan f s
  | .red f => Sys2Proof.Machine.execRed f s
  | .ballot f => Sys2Proof.Machine.execBallot f s
  | .mset f => Sys2Proof.Machine.execMset f s
  | .movsv f => Sys2Proof.Machine.execMovsv f s
  | .movvs f => Sys2Proof.Machine.execMovvs f s
  | .first f => Sys2Proof.Machine.execFirst f s
  | .iota f => Sys2Proof.Machine.execIota f s
  | .sadd f => Sys2Proof.Machine.execSadd f s
  | .ssub f => Sys2Proof.Machine.execSsub f s
  | .smul f => Sys2Proof.Machine.execSmul f s
  | .sand f => Sys2Proof.Machine.execSand f s
  | .sor f => Sys2Proof.Machine.execSor f s
  | .sxor f => Sys2Proof.Machine.execSxor f s
  | .sshl f => Sys2Proof.Machine.execSshl f s
  | .sshr f => Sys2Proof.Machine.execSshr f s
  | .ssar f => Sys2Proof.Machine.execSsar f s
  | .scmp f => Sys2Proof.Machine.execScmp f s
  | .smov f => Sys2Proof.Machine.execSmov f s
  | .slea f => Sys2Proof.Machine.execSlea f s
  | .li f => Sys2Proof.Machine.execLi f s
  | .lih f => Sys2Proof.Machine.execLih f s
  | .getsr f => Sys2Proof.Machine.execGetsr f s
  | .setsr f => Sys2Proof.Machine.execSetsr f s
  | .ld f => Sys2Proof.Machine.execLd f s
  | .st f => Sys2Proof.Machine.execSt f s
  | .lds f => Sys2Proof.Machine.execLds f s
  | .sts f => Sys2Proof.Machine.execSts f s
  | .sld f => Sys2Proof.Machine.execSld f s
  | .sst f => Sys2Proof.Machine.execSst f s
  | .atom f => Sys2Proof.Machine.execAtom f s
  | .atomx f => Sys2Proof.Machine.execAtomx f s
  | .satom f => Sys2Proof.Machine.execSatom f s
  | .pref f => Sys2Proof.Machine.execPref f s
  | .zero f => Sys2Proof.Machine.execZero f s
  | .commit f => Sys2Proof.Machine.execCommit f s
  | .br f => Sys2Proof.Machine.execBr f s
  | .jmp f => Sys2Proof.Machine.execJmp f s
  | .jmpReg f => Sys2Proof.Machine.execJmpReg f s
  | .call f => Sys2Proof.Machine.execCall f s
  | .callReg f => Sys2Proof.Machine.execCallReg f s
  | .ret f => Sys2Proof.Machine.execRet f s
  | .regang f => Sys2Proof.Machine.execRegang f s
  | .yield f => Sys2Proof.Machine.execYield f s
  | .yieldContinuation f => Sys2Proof.Machine.execYieldContinuation f s
  | .exit f => Sys2Proof.Machine.execExit f s
  | .trap f => Sys2Proof.Machine.execTrap f s
  | .rte f => Sys2Proof.Machine.execRte f s
  | .brk f => Sys2Proof.Machine.execBrk f s
  | .mma f => Sys2Proof.Machine.execMma f s
  | .mmas f => Sys2Proof.Machine.execMmas f s
  | .mmat f => Sys2Proof.Machine.execMmat f s
  | .mfence f => Sys2Proof.Machine.execMfence f s
  | .mwait f => Sys2Proof.Machine.execMwait f s
  | .accld f => Sys2Proof.Machine.execAccld f s
  | .accldZero f => Sys2Proof.Machine.execAccldZero f s
  | .accst f => Sys2Proof.Machine.execAccst f s
  | .omset f => Sys2Proof.Machine.execOmset f s
  | .cpyCopy f => Sys2Proof.Machine.execCpyCopy f s
  | .cpyQuant f => Sys2Proof.Machine.execCpyQuant f s
  | .cpyDec f => Sys2Proof.Machine.execCpyDec f s
  | .cpyRed f => Sys2Proof.Machine.execCpyRed f s
  | .cpyFill f => Sys2Proof.Machine.execCpyFill f s
  | .pkt f => Sys2Proof.Machine.execPkt f s
  | .qpush f => Sys2Proof.Machine.execQpush f s
  | .qpop f => Sys2Proof.Machine.execQpop f s
  | .qtry f => Sys2Proof.Machine.execQtry f s
  | .qlen f => Sys2Proof.Machine.execQlen f s
  | .spawn f => Sys2Proof.Machine.execSpawn f s
  | .xput f => Sys2Proof.Machine.execXput f s
  | .xget f => Sys2Proof.Machine.execXget f s
  | .xatom f => Sys2Proof.Machine.execXatom f s
  | .hfire f => Sys2Proof.Machine.execHfire f s
  | .hstat f => Sys2Proof.Machine.execHstat f s
  | .knew f => Sys2Proof.Machine.execKnew f s
  | .kjoin f => Sys2Proof.Machine.execKjoin f s
  | .kleave f => Sys2Proof.Machine.execKleave f s
  | .karrive f => Sys2Proof.Machine.execKarrive f s
  | .kwait f => Sys2Proof.Machine.execKwait f s
  | .karrw f => Sys2Proof.Machine.execKarrw f s
  | .kfree f => Sys2Proof.Machine.execKfree f s
  | .kquery f => Sys2Proof.Machine.execKquery f s
  | .warm f => Sys2Proof.Machine.execWarm f s
  | .wwait f => Sys2Proof.Machine.execWwait f s
  | .wstamp f => Sys2Proof.Machine.execWstamp f s
  | .racq f => Sys2Proof.Machine.execRacq f s
  | .rrel f => Sys2Proof.Machine.execRrel f s
  | .resize f => Sys2Proof.Machine.execResize f s
  | .ckmark f => Sys2Proof.Machine.execCkmark f s
  | .cktake f => Sys2Proof.Machine.execCktake f s
  | .ckroll f => Sys2Proof.Machine.execCkroll f s
  | .ckdrop f => Sys2Proof.Machine.execCkdrop f s
  | .instructionFetch sid line => Sys2Proof.Machine.execInstructionFetch sid line s
  | .instructionCommit sid => Sys2Proof.Machine.execInstructionCommit sid s
  | .registerResultReturn launch gang n => Sys2Proof.Machine.execRegisterResultReturn launch gang n s
  | .storeVisibility sid => Sys2Proof.Machine.execStoreVisibility sid s
  | .rollback launch gang => Sys2Proof.Machine.execRollback launch gang s
  | .pageWalk sid va write => Sys2Proof.Machine.execPageWalk sid va write s
  | .aliasReadDecode a => Sys2Proof.Machine.execAliasReadDecode a s
  | .aliasWriteBack sid => Sys2Proof.Machine.execAliasWriteBack sid s
  | .hostSnoop a => Sys2Proof.Machine.execHostSnoop a s
  | .hostMemAccess a => Sys2Proof.Machine.execHostMemAccess a s
  | .ioHoleAccess ag a => Sys2Proof.Machine.execIoHoleAccess ag a s
  | .registerWrite ag pa v => Sys2Proof.Machine.execRegisterWrite ag pa v s
  | .memcarveWrite ag v => Sys2Proof.Machine.execMemcarveWrite ag v s
  | .l2mrgWrite ag die v => Sys2Proof.Machine.execL2mrgWrite ag die v s
  | .fwCtlEnable ag n v => Sys2Proof.Machine.execFwCtlEnable ag n v s
  | .fwCtlDisable ag n v => Sys2Proof.Machine.execFwCtlDisable ag n v s
  | .qpoolWrite ag core v => Sys2Proof.Machine.execQpoolWrite ag core v s
  | .harbWrite ag stack v => Sys2Proof.Machine.execHarbWrite ag stack v s
  | .ruqWrite ag die v => Sys2Proof.Machine.execRuqWrite ag die v s
  | .schctlWrite ag die v => Sys2Proof.Machine.execSchctlWrite ag die v s
  | .hqctlWrite ag die v => Sys2Proof.Machine.execHqctlWrite ag die v s
  | .fqctlWrite ag v => Sys2Proof.Machine.execFqctlWrite ag v s
  | .fresumeRetry ag v => Sys2Proof.Machine.execFresumeRetry ag v s
  | .fresumeFail ag v => Sys2Proof.Machine.execFresumeFail ag v s
  | .wdctlWrite ag die v => Sys2Proof.Machine.execWdctlWrite ag die v s
  | .gsctlWrite ag v => Sys2Proof.Machine.execGsctlWrite ag v s
  | .counterValueStore ag pasid bank n v => Sys2Proof.Machine.execCounterValueStore ag pasid bank n v s
  | .snapctlArm ag v => Sys2Proof.Machine.execSnapctlArm ag v s
  | .snapshotTrigger src => Sys2Proof.Machine.execSnapshotTrigger src s
  | .powctlWrite ag v => Sys2Proof.Machine.execPowctlWrite ag v s
  | .doorbellStore off width pasid v => Sys2Proof.Machine.execDoorbellStore off width pasid v s
  | .halyardDoorbellStore page off width pasid v => Sys2Proof.Machine.execHalyardDoorbellStore page off width pasid v s
  | .guestRegisterAccess tag a => Sys2Proof.Machine.execGuestRegisterAccess tag a s
  | .registerMemoryQueue c => Sys2Proof.Machine.execRegisterMemoryQueue c s
  | .deregisterMemoryQueue c => Sys2Proof.Machine.execDeregisterMemoryQueue c s
  | .clearQueueError c => Sys2Proof.Machine.execClearQueueError c s
  | .translationInvalidation c => Sys2Proof.Machine.execTranslationInvalidation c s
  | .hardwareQueueRegistration c => Sys2Proof.Machine.execHardwareQueueRegistration c s
  | .createHalyardPlan c => Sys2Proof.Machine.execCreateHalyardPlan c s
  | .freeHalyardPlan c => Sys2Proof.Machine.execFreeHalyardPlan c s
  | .writeBufferTableEntry c => Sys2Proof.Machine.execWriteBufferTableEntry c s
  | .writeFabricImportEntry c => Sys2Proof.Machine.execWriteFabricImportEntry c s
  | .setFormatWindow c => Sys2Proof.Machine.execSetFormatWindow c s
  | .writePasidContext c => Sys2Proof.Machine.execWritePasidContext c s
  | .stageFirmwareImage c => Sys2Proof.Machine.execStageFirmwareImage c s
  | .commitSecurityVersion c => Sys2Proof.Machine.execCommitSecurityVersion c s
  | .preemptGuest c => Sys2Proof.Machine.execPreemptGuest c s
  | .reloadGuest c => Sys2Proof.Machine.execReloadGuest c s
  | .copyGuestIdentity c => Sys2Proof.Machine.execCopyGuestIdentity c s
  | .resolveFaultRecord c => Sys2Proof.Machine.execResolveFaultRecord c s
  | .writeCounterControl c => Sys2Proof.Machine.execWriteCounterControl c s
  | .writePartitionConfig c => Sys2Proof.Machine.execWritePartitionConfig c s
  | .mailboxUnlistedOp c => Sys2Proof.Machine.execMailboxUnlistedOp c s
  | .queueSlotFetch pasid hdr => Sys2Proof.Machine.execQueueSlotFetch pasid hdr s
  | .copyPacket e slot n => Sys2Proof.Machine.execCopyPacket e slot n s
  | .copyQuantizePacket e slot n => Sys2Proof.Machine.execCopyQuantizePacket e slot n s
  | .copyDecodePacket e slot n => Sys2Proof.Machine.execCopyDecodePacket e slot n s
  | .reduceCopyPacket e slot n => Sys2Proof.Machine.execReduceCopyPacket e slot n s
  | .fillPacket e slot n => Sys2Proof.Machine.execFillPacket e slot n s
  | .packetComplete e slot => Sys2Proof.Machine.execPacketComplete e slot s
  | .launchPacket pasid hdr slot => Sys2Proof.Machine.execLaunchPacket pasid hdr slot s
  | .queuePoolGrant core sid => Sys2Proof.Machine.execQueuePoolGrant core sid s
  | .extendedBlockGrant core => Sys2Proof.Machine.execExtendedBlockGrant core s
  | .matrixCommandStart core seq => Sys2Proof.Machine.execMatrixCommandStart core seq s
  | .matrixCommandComplete core seq => Sys2Proof.Machine.execMatrixCommandComplete core seq s
  | .watchReload sid => Sys2Proof.Machine.execWatchReload sid s
  | .watchRecheckExpiry sid => Sys2Proof.Machine.execWatchRecheckExpiry sid s
  | .spinRecognised sid => Sys2Proof.Machine.execSpinRecognised sid s
  | .engineKnotArrival kind pasid va => Sys2Proof.Machine.execEngineKnotArrival kind pasid va s
  | .residencyDecision core => Sys2Proof.Machine.execResidencyDecision core s
  | .gangEviction launch gang => Sys2Proof.Machine.execGangEviction launch gang s
  | .fairnessRotation core launch => Sys2Proof.Machine.execFairnessRotation core launch s
  | .gangFinish launch gang => Sys2Proof.Machine.execGangFinish launch gang s
  | .launchComplete launch => Sys2Proof.Machine.execLaunchComplete launch s
  | .placementDecision => Sys2Proof.Machine.execPlacementDecision s
  | .spliceAged launch splice die => Sys2Proof.Machine.execSpliceAged launch splice die s
  | .splicePreemption launch a => Sys2Proof.Machine.execSplicePreemption launch a s
  | .packWindowClose launch splice addr => Sys2Proof.Machine.execPackWindowClose launch splice addr s
  | .regangCombine launch gang => Sys2Proof.Machine.execRegangCombine launch gang s
  | .deferredTrap sid => Sys2Proof.Machine.execDeferredTrap sid s
  | .watchdogExpiry sid => Sys2Proof.Machine.execWatchdogExpiry sid s
  | .faultRecordPost => Sys2Proof.Machine.execFaultRecordPost s
  | .hwQueueIdleUnmap pasid desc => Sys2Proof.Machine.execHwQueueIdleUnmap pasid desc s
  | .runListTurn die => Sys2Proof.Machine.execRunListTurn die s
  | .fabricRequestArrival r => Sys2Proof.Machine.execFabricRequestArrival r s
  | .fabricResponseArrival tag r => Sys2Proof.Machine.execFabricResponseArrival tag r s
  | .fabricRequestTimeout tag => Sys2Proof.Machine.execFabricRequestTimeout tag s
  | .xnetComplete seq => Sys2Proof.Machine.execXnetComplete seq s
  | .halyardPacketArrival p => Sys2Proof.Machine.execHalyardPacketArrival p s
  | .halyardBucketComplete handle bucket => Sys2Proof.Machine.execHalyardBucketComplete handle bucket s
  | .halyardDeadlineExpiry handle a => Sys2Proof.Machine.execHalyardDeadlineExpiry handle a s
  | .planFreeDrainExpiry handle => Sys2Proof.Machine.execPlanFreeDrainExpiry handle s
  | .planIndexQuarantineEnd index => Sys2Proof.Machine.execPlanIndexQuarantineEnd index s
  | .ckrollComplete launch region => Sys2Proof.Machine.execCkrollComplete launch region s
  | .moduleReset st => Sys2Proof.Machine.execModuleReset st s
  | .fatalReset die => Sys2Proof.Machine.execFatalReset die s
  | .hostLineFlush die => Sys2Proof.Machine.execHostLineFlush die s
  | .diePowerGate die => Sys2Proof.Machine.execDiePowerGate die s
  | .dieWake die => Sys2Proof.Machine.execDieWake die s
  | .powerWindow watts => Sys2Proof.Machine.execPowerWindow watts s
  | .guestReset id => Sys2Proof.Machine.execGuestReset id s
  | .guestCoherentRequest r => Sys2Proof.Machine.execGuestCoherentRequest r s
  | .guestKnotArrival pasid va => Sys2Proof.Machine.execGuestKnotArrival pasid va s
  | .guestTranslationRequest pasid va write => Sys2Proof.Machine.execGuestTranslationRequest pasid va write s
  | .guestFaultRecord r => Sys2Proof.Machine.execGuestFaultRecord r s
  | .guestSaveAck data => Sys2Proof.Machine.execGuestSaveAck data s
  | .guestSnoopTimeout line => Sys2Proof.Machine.execGuestSnoopTimeout line s
  | .guestInvalidationTimeout => Sys2Proof.Machine.execGuestInvalidationTimeout s
  | .guestSaveTimeout => Sys2Proof.Machine.execGuestSaveTimeout s
  | .guestLinkDown => Sys2Proof.Machine.execGuestLinkDown s
  | .launchKill launch => Sys2Proof.Machine.execLaunchKill launch s
  | .partitionReset p => Sys2Proof.Machine.execPartitionReset p s
  | .guestInvalidationAck => Sys2Proof.Machine.execGuestInvalidationAck s
  | .guestRecallAnswer line data => Sys2Proof.Machine.execGuestRecallAnswer line data s
  | .guestRegisterAnswer tag data => Sys2Proof.Machine.execGuestRegisterAnswer tag data s

end Sys2Proof.Machine
end

