-- ==== Sys2Proof/Machine/Step.lean ====
section
/-! DEFINITION. The step: an event of the agenda, or an instruction of the next stream, or one of the machine's own events. -/

namespace Sys2Proof.Machine

/-- The next stream's instruction: a report or a recognised spinner first, else the word at its PC. -/
def issueStep (t : Stream) (s : State) : Out :=
  if s.report? t then Sys2Proof.Machine.execDeferredTrap t.sid s
  else if 16 ≤ t.spin.count then Sys2Proof.Machine.execSpinRecognised t.sid s
  else match s.streamCore t with
    | none => .next s
    | some core => match State.fetchWord t core 3 s with
      | .ended s => .next s
      | .word s (.instr i _) => exec i s
      | .word s (.illegal info _) => exec (.illegalInstruction info) s
      | .word s (.more _) => .next s

/-- One step: time passes, what is due happens, and then an event, an instruction or one of the machine's own events. -/
def step (s : State) : Out :=
  let turn := s.turn
  let s := s.tick.forced
  match s.agenda with
  | i :: rest => exec i { s with agenda := rest, cur := none }
  | [] =>
    match (if turn || s.internal = s then s.nextStream else none) with
    | some t => issueStep t { s with cur := some t.sid, last := t.sid }
    | none => .next s.internal

/-- PASID 1, launch, gang 0 and stream of the instruction that withFetchWord places (log 21). -/
def probeLaunch (s : State) (hpc : Word) : Launch :=
  { id := s.nextLaunch, pasid := 1, queue := 0, slot := 0, epc := 0x10_0000, hpc := hpc, args := 0, scr := 0, rlim := 0, prio := 0, tiles := 16
    xreg := true, spl := 1, gangs := 1, since := s.ticks, nextSplice := 1, finished := 0, spawns := []
    regions := Vector.replicate 16 Region.unmarked, aborting := false, ended := false }

/-- The instruction of a table word stored where the next step fetches: at VA 0x10_0000 of PASID 1, which core 0's TLB maps to
PA 0x10_0000, with a launch of one gang, resident on core 0, whose stream is the next to issue (log 21). -/
def State.withFetchWord (s : State) (nbits w : Nat) : State :=
  let x := probeLaunch s 0
  let core := 0
  let s :=
    { s with
      agenda := [], turn := true, last := s.nextSid - 1
      mem := s.mem.write 0x10_0000 (leBytes (nbits / 8) w ++ leBytes (8 - nbits / 8) 0)
      badLines := s.badLines.filter (· != 0x10_0000)
      tlb := { core := core, pasid := 1, vpage := 0x10, pages := 1, pa := 0x10_0000, w := true, x := true, kind := 0, dirty := true } :: s.tlb
      launches := s.launches ++ [x], nextLaunch := s.nextLaunch + 1
      splices := s.splices ++ [({ launch := x.id, idx := 0, size := 0, scratch := [], badBlocks := [], core := some core, record := none
                                  windows := [] } : Splice)] }
  let n := s.nextSid
  { s.startGang x core 0 0 with last := n - 1 }

end Sys2Proof.Machine
end

