-- ==== Sys2Proof/Safety.lean ====
section
/-! DEFINITION. The terms the statements use: which states a stream issues in undisturbed, what an instruction that completes
leaves and what it leaves alone, how a trap is taken, and the spec's own tables written a second time, independently of the
machine. -/

namespace Sys2Proof.Machine

/-! Which states. -/

/-- The invariant that every step keeps: memory is in its one canonical form. -/
def State.Inv (s : State) : Prop := s.mem.wf = true

/-- Stream t is the one that issues, holds slices of gang g alone (it is not packed), and is at a commit point with every older
access performed (R118, R305); g is on a core, its buffers hold what they may (R126, R306), no long-class result is outstanding
(R163), and no write of another of its streams is unordered with t (R171). -/
structure Issues (s : State) (t : Stream) (g : Gang) : Prop where
  cur : s.cur = some t.sid
  stream : s.stream? t.sid = some t
  homes : t.homes = [g.idx]
  gang : s.gang? t.launch g.idx = some g
  placed : g.place.isSome = true
  drained : s.drained t = true
  belay : g.belayUsed ≤ 8
  stores : g.storesUsed ≤ 32
  quiet : g.pending = []
  joined : g.races = []

/-- Every register named that is above v31 is held (R159). -/
def Held (g : Gang) (regs : List Nat) : Prop := g.xb = true ∨ ∀ r ∈ regs, r < 32

/-! How an instruction ends, from the state `s1` that its own effect leaves. -/

/-- The stream's one part, when it is not packed. -/
def Stream.part (t : Stream) (g : Gang) : Part := { sid := t.sid, launch := t.launch, gang := g.idx, slots := t.slotsOf g.idx }

/-- Done: the PC advances past the instruction, which commits (R44, R305). -/
def State.completed (s1 : State) (t : Stream) (i : Issue) : State := (s1.advance t.sid i.len).retire t i false

/-- Done, with the PC where the effect put it. -/
def State.jumped (s1 : State) (t : Stream) (i : Issue) : State := s1.retire t i false

/-- Done, and the stream waits. -/
def State.parkedAt (s1 : State) (t : Stream) (i : Issue) (w : Wait) : State :=
  ((s1.advance t.sid i.len).updStream t.sid fun t => { t with wait := w }).retire t i false

/-- The stream waits and will execute the instruction again. -/
def State.waits (s1 : State) (t : Stream) (w : Wait) : State := s1.updStream t.sid fun t => { t with wait := w }

/-- Gang g changed by f. -/
def State.withGang (s : State) (t : Stream) (g : Gang) (f : Gang → Gang) : State := s.updGang t.launch g.idx f

/-- A 32-bit word that may run under speculation; one that may not (R308). -/
def plainIssue (h : Bool) : Issue := { len := 4, hold := h }

/-- What a result in flight, or a write that nothing orders with another stream's, is known by: the instruction's number, and whether its
stream is the only one of its gang. -/
structure Writing where
  alone : Bool
  seq : Nat

/-- The writing of stream t of gang g. -/
def writingOf (s : State) (t : Stream) (g : Gang) : Writing :=
  { alone := decide ((s.streamsOf t.launch g.idx).length ≤ 1), seq := s.seq }

/-- Stream t has written x to a register of gang g in some lanes. A long-class result is outstanding until it returns (R161, R163); in a
parted gang the other streams may still read what was there before (R171, R195, R199). -/
def Gang.wrote (g : Gang) (wr : Writing) (t : Stream) (long : Bool) (rows : Mask) (w : Nat) (r : RegRef) (x : RegVal) : Gang :=
  if rows = 0 then g
  else
    { g.setReg r x with
      pending :=
        (if long then [{ sids := [t.sid], seq := wr.seq, reg := r, old := g.reg r, val := x, rows := rows, width := w, tag := g.tagOf r, net := false }]
          else []) ++
          g.pending
      races := (if wr.alone then [] else [{ sids := [t.sid], seq := wr.seq, reg := r, old := g.reg r, val := x, rows := rows }]) ++ g.races }

/-- A short-class result in a scalar register (R163). -/
def Gang.sets (g : Gang) (wr : Writing) (t : Stream) (d : Nat) (x : Word) : Gang := g.wrote wr t false allRows 64 (.s d) (.s x)

/-- A long-class result in a scalar register (R163). -/
def Gang.gets (g : Gang) (wr : Writing) (t : Stream) (d : Nat) (x : Word) : Gang := g.wrote wr t true allRows 64 (.s d) (.s x)

/-- The newest outstanding result holds an entry of the core's cross-lane queue until it returns (R226). -/
def Gang.holdsEntry (g : Gang) : Gang :=
  { g with pending := match g.pending with
      | p :: rest => { p with net := true } :: rest
      | [] => [] }

/-- Flags gathered in sr_fflags (R56); what other streams have logged of it stands on them (R57). -/
def Gang.flagged (fl : Flags) (g : Gang) : Gang :=
  { g with
    fflags := g.fflags ||| fl.setWidth 64
    belay := g.belay.map fun e => match e.old with
      | .flags before set x => { e with old := .flags (before ||| fl.setWidth 64) set x }
      | _ => e }

/-- sr_fflags written (R56); what other streams have logged of it stands on the new value. -/
def Gang.flagsSet (x : Word) (g : Gang) : Gang :=
  { g with
    fflags := x
    belay := g.belay.map fun e => match e.old with
      | .flags _ set y => { e with old := .flags x set y }
      | _ => e }

/-! Vector operands, as R27, R28, R38 and R40 give them. -/

/-- Element j of width w of a lane (R38). -/
def elemOf (x : Word) (w j : Nat) : BitVec w := x.extractLsb' (w * j) w

/-- The lanes an instruction is active in (R40, R248): the stream's, under the mask that the prefix names; m0 is all of them. -/
def laneActive (t : Stream) (g : Gang) (p : Prefix) (l : Nat) : Bool :=
  t.active.getLsbD l && (p.mask == 0#4 || (vget g.m p.mask.toNat 0).getLsbD l)

/-- Element j of operand B of a lane at width w (R28), an immediate as `imm` reads it. -/
def elemB (g : Gang) (f : VRFields) (w l j : Nat) (imm : BitVec w) : BitVec w :=
  match f.x.toNat with
  | 0 => elemOf (lane (vget g.v f.b.toNat zeroV) l) w j
  | 1 => (vget g.s f.b.toNat 0).setWidth w
  | _ => imm

/-- The written register after an instruction whose active lanes get `res` (R173): with no active lane nothing changes; other
lanes of the stream become zero under Z; all other lanes stay. -/
def ResultRows (t : Stream) (g : Gang) (p : Prefix) (old new : VReg) (res : Nat → Word → Prop) : Prop :=
  ((∀ l, l < 32 → laneActive t g p l = false) → new = old) ∧
  ((∃ l, l < 32 ∧ laneActive t g p l = true) → ∀ l, l < 32 →
    if laneActive t g p l then res l (lane new l)
    else if p.z && t.active.getLsbD l then lane new l = 0
    else lane new l = lane old l)

/-! The table of R175, on elements of width w. -/

/-- SAT clamps to the signed range of w bits; without it the result is cut to w bits (R173). -/
def satInt (sat : Bool) (w : Nat) (r : Int) : BitVec w :=
  BitVec.ofInt w (if sat then max (-2 ^ (w - 1)) (min r (2 ^ (w - 1) - 1)) else r)

/-- All ones where a comparison holds, else zero (R175, R180). -/
def flagElem (w : Nat) (c : Bool) : BitVec w := if c then BitVec.allOnes w else 0

/-- The field control of R178: position and length. -/
def fieldOf (w : Nat) (b : BitVec w) : Nat × Nat :=
  let h := Nat.log2 w
  ((b.extractLsb' 0 h).toNat, min (b.extractLsb' h (h + 1)).toNat (w - (b.extractLsb' 0 h).toNat))

/-- r of R175 for the operations that work element by element; none for the others. -/
def intElem (op : VROp) (sat : Bool) (w : Nat) (a b c d : BitVec w) : Option (BitVec w) :=
  match op with
  | .iadd => some (if sat then satInt true w (a.toInt + b.toInt) else a + b)
  | .isub => some (if sat then satInt true w (a.toInt - b.toInt) else a - b)
  | .iadds => some (if a.toNat + b.toNat < 2 ^ w then a + b else BitVec.allOnes w)
  | .isubs => some (if b ≤ a then a - b else 0)
  | .imul => some (if sat then satInt true w (a.toInt * b.toInt) else a * b)
  | .imulh => some (BitVec.ofInt w (a.toInt * b.toInt / 2 ^ w))
  | .umulh => some (BitVec.ofNat w (a.toNat * b.toNat / 2 ^ w))
  | .imad => some (if sat then satInt true w (c.toInt + a.toInt * b.toInt) else c + a * b)
  | .imin => some (if a.slt b then a else b)
  | .imax => some (if b.slt a then a else b)
  | .umin => some (if a < b then a else b)
  | .umax => some (if b < a then a else b)
  | .iabs => some (satInt sat w |a.toInt|)
  | .shl => some (if sat then satInt true w (a.toInt * 2 ^ (b.toNat % w)) else a <<< (b.toNat % w))
  | .shr => some (a >>> (b.toNat % w))
  | .sar => some (a.sshiftRight (b.toNat % w))
  | .and => some (a &&& b)
  | .or => some (a ||| b)
  | .xor => some (a ^^^ b)
  | .andn => some (a &&& ~~~b)
  | .popc => some (BitVec.ofNat w ((List.range w).countP fun k => a.getLsbD k))
  | .clz => some (BitVec.ofNat w (((List.range w).find? fun k => a.getLsbD (w - 1 - k)).getD w))
  | .brev => some a.reverse
  | .bfx => some ((a >>> (fieldOf w b).1) &&& BitVec.ofNat w (2 ^ (fieldOf w b).2 - 1))
  | .bfi =>
    let m := BitVec.ofNat w (2 ^ (fieldOf w b).2 - 1) <<< (fieldOf w b).1
    some ((d &&& ~~~m) ||| ((a <<< (fieldOf w b).1) &&& m))
  | .icmpeq => some (flagElem w (a == b))
  | .icmplt => some (flagElem w (a.slt b))
  | .icmpltu => some (flagElem w (decide (a < b)))
  | .sel => some (if d ≠ 0 then a else b)
  | .mov => some a
  | _ => none

/-- A VR operation as a word, or under a prefix, or in 16 bits (R24, R41, R181, R196): instruction, operation, prefix, fields,
length, and whether its result is short class for being a 16-bit form. -/
inductive VRForm : Instr → VROp → Prefix → VRFields → Nat → Bool → Prop where
  | word (op : VROp) (f : VRFields) : VRForm (op.toInstr f) op Prefix.none f 4 false
  | pair (p : Prefix) (op : VROp) (f : VRFields) : VRForm (.prefixedInstruction p op f) op p f 8 false
  | iadd16 (f : HalfFields) : VRForm (.iadd16 f) .iadd Prefix.none (halfBinary f 1) 2 true
  | isub16 (f : HalfFields) : VRForm (.isub16 f) .isub Prefix.none (halfBinary f 1) 2 true
  | and16 (f : HalfFields) : VRForm (.and16 f) .and Prefix.none (halfBinary f 0) 2 true
  | or16 (f : HalfFields) : VRForm (.or16 f) .or Prefix.none (halfBinary f 0) 2 true
  | xor16 (f : HalfFields) : VRForm (.xor16 f) .xor Prefix.none (halfBinary f 0) 2 true
  | shl16 (f : HalfFields) : VRForm (.shl16 f) .shl Prefix.none (halfBinary f 1) 2 true
  | imin16 (f : HalfFields) : VRForm (.imin16 f) .imin Prefix.none (halfBinary f 1) 2 true
  | imax16 (f : HalfFields) : VRForm (.imax16 f) .imax Prefix.none (halfBinary f 1) 2 true
  | mov16 (f : HalfFields) : VRForm (.mov16 f) .mov Prefix.none (halfUnary f) 2 true
  | fadd16 (f : HalfFields) : VRForm (.fadd16 f) .fadd Prefix.none (halfBinary f 1) 2 true
  | fsub16 (f : HalfFields) : VRForm (.fsub16 f) .fsub Prefix.none (halfBinary f 1) 2 true
  | fmul16 (f : HalfFields) : VRForm (.fmul16 f) .fmul Prefix.none (halfBinary f 1) 2 true
  | fmax16 (f : HalfFields) : VRForm (.fmax16 f) .fmax Prefix.none (halfBinary f 1) 2 true

/-! Floating point: what an operation gives for one result, from the exact operations on values (R183 to R193). -/

/-- The exact result of an arithmetic operation on values (R186, R188, R190). -/
def exactOf (op : VROp) (mode : RMode) (a b c : FVal) : Option (FVal × Flags) :=
  match op with
  | .fadd => some (FVal.add (mode == .rdn) a b)
  | .fsub => some (FVal.add (mode == .rdn) a b.neg)
  | .fmul => some (a.mul b)
  | .ffma => some (FVal.fma (mode == .rdn) a b c)
  | .frcp => some (rcpVal a)
  | .frsq => some (rsqVal a)
  | .fsqrt => some (sqrtVal a)
  | .fexp2 => some (fexp2Val a)
  | .flog2 => some (flog2Val a)
  | .fsin => some (fsinVal a)
  | .fcos => some (fcosVal a)
  | .ftanh => some (ftanhVal a)
  | .fscale => some (scaleVal a b)
  | _ => none

/-- Result and flags of an operation that rounds nothing, on encodings (R187, R191). -/
def patternOf (op : VROp) (t : Fmt) (cb : Codebook) (a b : Nat) : Option (Nat × Flags) :=
  match op with
  | .fmin => some (minMaxElem false t cb a b)
  | .fmax => some (minMaxElem true t cb a b)
  | .fabs => some (signElem false t cb a)
  | .fneg => some (signElem true t cb a)
  | .fcmpeq => some (compareElem .eq t cb a b)
  | .fcmplt => some (compareElem .lt t cb a b)
  | .fcmple => some (compareElem .le t cb a b)
  | .fcmpun => some (compareElem .un t cb a b)
  | .fclass => some (classOf (workFmt t) (dec t cb a), 0)
  | _ => none

/-- Result j of a lane: the operation on decoded elements, rounded once in the mode, saturated, with every flag raised on the
way (R183). -/
def floatResult (op : VROp) (f : VRFields) (sat : Bool) (cb : Codebook) (a b c : Word) (j : Nat) (mode : RMode) : Option (Nat × Flags) :=
  let t := floatType f.t
  let el := fun (x : Word) => dec t cb (subElem x t.width j)
  match op with
  | .fround =>
    let r := toIntFlags mode (-(2 ^ (t.width - 1) : Int)) (2 ^ (t.width - 1) - 1) (el a)
    some (truncZ r.1 t.width, r.2)
  | .fdot2 =>
    let p0 := (dec t cb (subElem a 16 (2 * j))).mul (dec t cb (subElem b 16 (2 * j)))
    let p1 := (dec t cb (subElem a 16 (2 * j + 1))).mul (dec t cb (subElem b 16 (2 * j + 1)))
    let x := ffF32.decode (subElem c 32 j)
    let u := FVal.add (mode == .rdn) x p0.1
    let v := FVal.add (mode == .rdn) u.1 p1.1
    let r := enc .f32 cb mode sat v.1
    some (r.1, p0.2 ||| p1.2 ||| u.2 ||| v.2 ||| r.2 ||| Flags.when (bothInfinities [x, p0.1, p1.1]) Flags.nv)
  | .cvt =>
    let src := (Fmt.ofCode (f.b.toNat % 32)).getD .f32
    some (enc t cb mode sat (dec src cb (subElem a src.width j)))
  | op =>
    match exactOf op mode (el a) (el b) (el c) with
    | some (v, f1) => some ((enc t cb mode sat v).1, f1 ||| (enc t cb mode sat v).2)
    | none => patternOf op t cb (subElem a t.width j) (subElem b t.width j)

/-- Width and number of the results in a lane (R192, R193). -/
def floatShape (op : VROp) (f : VRFields) : Nat × Nat :=
  match op with
  | .fdot2 => (32, 2)
  | .cvt => ((floatType f.t).width, min (64 / ((Fmt.ofCode (f.b.toNat % 32)).getD .f32).width) (64 / (floatType f.t).width))
  | _ => ((floatType f.t).width, 64 / (floatType f.t).width)

/-- Operand B of a float word in a lane: a register, a scalar in every element, or an integer constant in every element (R28). -/
def floatOperandB (g : Gang) (op : VROp) (f : VRFields) (l : Nat) : Word :=
  let w := if op = .fdot2 then 16 else (floatType f.t).width
  match f.x.toNat with
  | 0 => lane (vget g.v f.b.toNat zeroV) l
  | 1 => splat w ((vget g.s f.b.toNat 0).toNat % 2 ^ w)
  | _ => splat w (immFloat (floatType f.t) f.b.toInt)

/-- The generator of a lane after n draws (R58). -/
def drawsOn (st : BitVec 32) (n : Nat) : BitVec 32 := st + BitVec.ofNat 32 n * 0x9E3779B9#32

/-! Cross-lane words (R198 to R206) and scalars (R165 to R170). -/

/-- The active mask of an instruction with a mask (R40). -/
def activeOf (t : Stream) (g : Gang) (p : Prefix) : Mask := t.active &&& (if p.mask = 0 then t.active else vget g.m p.mask.toNat 0)

/-- The lanes that an instruction with a mask writes: none with an empty mask, all of the stream's under Z (R173). -/
def writtenRows (t : Stream) (g : Gang) (p : Prefix) : Mask :=
  if activeOf t g p = 0 then 0 else if p.z then t.active else activeOf t g p

/-- Two results of R67 combined, either of which may be empty. -/
def joined (combine : α → α → α) : Option α → Option α → Option α
  | some a, some b => some (combine a b)
  | some a, none => some a
  | none, b => b

/-- Node i of level k of the pairwise tree over the elements x (R67). -/
def pairTree (combine : α → α → α) (x : Nat → Option α) : Nat → Nat → Option α
  | 0, i => x i
  | k + 1, i => joined combine (pairTree combine x k (2 * i)) (pairTree combine x k (2 * i + 1))

/-- The running result over the elements before position p (R68). -/
def runBefore (combine : α → α → α) (x : Nat → Option α) : Nat → Option α
  | 0 => none
  | p + 1 => joined combine (runBefore combine x p) (x p)

/-- Position p of the source of a reduction over the lanes m (R67). -/
def sourceElem (r : Reducer) (cb : Codebook) (a : VReg) (m : Mask) (p : Nat) : Option RVal :=
  let n := 64 / r.w
  if m.getLsbD (p / n) then some (r.widen cb (elemOf (lane a (p / n)) r.w (p % n)).toNat) else none

/-- The result over the lanes m and its flags: the root of the tree narrowed, of no lane the identity (R67, R69). -/
def reducedOf (r : Reducer) (cb : Codebook) (a : VReg) (m : Mask) : Nat × Flags :=
  match pairTree r.combine (sourceElem r cb a m) (Nat.log2 (32 * (64 / r.w))) 0 with
  | some v => r.narrow cb v
  | none => (r.identity cb, 0)

/-- What SCAN puts at position p: the running result up to p, or before it in the exclusive form (R68). -/
def scannedAt (r : Reducer) (excl : Bool) (cb : Codebook) (a : VReg) (m : Mask) (p : Nat) : Nat × Flags :=
  match runBefore r.combine (sourceElem r cb a m) (if excl then p else p + 1) with
  | some v => r.narrow cb v
  | none => (r.identity cb, 0)

/-- Stream t gets an entry of a queue of its core at once: it has been granted one, or one is free, and nobody who has asked before could be
given one (R227). -/
def EntryFree (s : State) (t : Stream) (g : Gang) (q : PoolQueue) : Prop :=
  ∃ c, g.core = some c ∧ (t.grant = some q ∨ s.poolFree c q = true ∧ ∀ x ∈ s.poolRequests c, x.2.1 ≠ q ∧ s.poolFree c x.2.1 = false)

/-- The result of a move between lanes in lane l, and whether it is long class (R202). -/
def moveLane (op : VROp) (g : Gang) (f : VRFields) (l : Nat) : Option (Word × Bool) :=
  let w := intWidth f.t
  let n := 64 / w
  let a := vget g.v f.a.toNat zeroV
  let pos := if f.x = 1 then (vget g.s f.b.toNat 0).toNat else f.b.toNat
  match op with
  | .shfl =>
    let from' : Int := match f.x.toNat with
      | 0 => (lane (vget g.v f.b.toNat zeroV) l).toNat % 32
      | 1 => l - f.b.toNat
      | 2 => l + f.b.toNat
      | _ => (l ^^^ f.b.toNat : Nat)
    some (if 0 ≤ from' ∧ from' < 32 then lane a from'.toNat else lane a l, true)
  | .bcast => some (splat w (elemAt a w (pos % (32 * n))), true)
  | .perm => some (packElems w ((List.range n).map fun j => elemAt a w (elemAt (vget g.v f.b.toNat zeroV) w (n * l + j) % (32 * n))), true)
  | .movsv => some (splat w ((vget g.s f.a.toNat 0).toNat % 2 ^ w), false)
  | .iota =>
    let b : Word := match f.x.toNat with
      | 0 => 0
      | 1 => vget g.s f.b.toNat 0
      | _ => BitVec.ofInt 64 f.b.toInt
    some (packElems w ((List.range n).map fun j => (b.toNat + n * l + j) % 2 ^ w), true)
  | _ => none

/-- The registers above v31 that a move may name (R159). -/
def moveRegs (op : VROp) (f : VRFields) : List Nat :=
  match op with
  | .movsv | .iota => [f.d.toNat]
  | _ => [f.d.toNat, f.a.toNat] ++ (if f.x = 0 then [f.b.toNat] else [])

/-- The vector registers that a VR word names, which its gang must hold (R159). -/
def vectorRegs (op : VROp) (p : Prefix) (f : VRFields) : List Nat :=
  match op with
  | .cbld | .ballot | .movvs => [f.a.toNat]
  | .cbst | .movsv | .iota => [f.d.toNat]
  | .mset | .first => []
  | .red => [f.a.toNat] ++ (if f.x = 0 then [f.d.toNat] else [])
  | .scan | .mred | .bcast => [f.d.toNat, f.a.toNat]
  | .perm => [f.d.toNat, f.a.toNat, f.b.toNat]
  | .shfl => [f.d.toNat, f.a.toNat] ++ (if f.x = 0 then [f.b.toNat] else [])
  | _ => vrRegs p f

/-- Those that a memory word of fields f names: D or its pair, and B as an index (R119, R121). -/
def memoryRegs (f : MFields) (pair : Bool) : List Nat :=
  [f.d.toNat] ++ (if pair then [f.d.toNat + 1] else []) ++ (if f.mode = 2 then [] else [f.b.toNat])

/-- An S word at width w: a and b cut to w bits, the result sign-extended (R165). -/
def scalarAt (g : Gang) (f : VRFields) (fn : (w : Nat) → BitVec w → BitVec w → BitVec w) : Word :=
  let w := 64 / 2 ^ f.t.toNat
  (fn w ((vget g.s f.a.toNat 0).setWidth w) (if f.x = 0 then (vget g.s f.b.toNat 0).setWidth w else f.b.signExtend w)).signExtend 64

/-- sD of a scalar word (R24, R165 to R168): the register, the new value, the word's length and H. -/
def scalarResult (g : Gang) (i : Instr) : Option (Nat × Word × Nat × Bool) :=
  let S := fun r => vget g.s r (0 : Word)
  let put := fun (f : VRFields) (x : Word) => some (f.d.toNat, x, 4, f.h)
  match i with
  | .sadd f => put f (scalarAt g f fun _ a b => a + b)
  | .ssub f => put f (scalarAt g f fun _ a b => a - b)
  | .smul f => put f (scalarAt g f fun _ a b => a * b)
  | .sand f => put f (scalarAt g f fun _ a b => a &&& b)
  | .sor f => put f (scalarAt g f fun _ a b => a ||| b)
  | .sxor f => put f (scalarAt g f fun _ a b => a ^^^ b)
  | .sshl f => put f (scalarAt g f fun w a b => a <<< (b.toNat % w))
  | .sshr f => put f (scalarAt g f fun w a b => a >>> (b.toNat % w))
  | .ssar f => put f (scalarAt g f fun w a b => a.sshiftRight (b.toNat % w))
  | .smov f => put f (scalarAt g f fun _ a _ => a)
  | .scmp f =>
    let w := 64 / 2 ^ f.t.toNat
    let a := (S f.a.toNat).setWidth w
    let b := if f.x = 0 then (S f.b.toNat).setWidth w else f.b.signExtend w
    let set : BitVec 5 := BitVec.ofBool (decide (b < a)) ++ BitVec.ofBool (b.slt a) ++ BitVec.ofBool (decide (a < b)) ++
      BitVec.ofBool (a.slt b) ++ BitVec.ofBool (a == b)
    put f (set.setWidth 64)
  | .slea f => put f (S f.a.toNat + (if f.x = 0 then S f.b.toNat else f.b.signExtend 64) * BitVec.ofNat 64 (8 / 2 ^ f.t.toNat))
  | .li f => some (f.d.toNat, f.imm.signExtend 64, 4, f.h)
  | .lih f => some (f.d.toNat, (S f.d.toNat).extractLsb' 0 48 ++ f.imm, 4, f.h)
  | .sadd16 f => some (f.d.toNat, S f.d.toNat + S f.a.toNat, 2, f.h)
  | .smov16 f => some (f.d.toNat, S f.a.toNat, 2, f.h)
  | _ => none

/-- The special registers (R170) of a stream whose lowest slot is k; the launch's by x. -/
def specialValue (s : State) (g : Gang) (x : Launch) (core k n : Nat) : Option Word :=
  match n with
  | 0 => some (BitVec.ofNat 64 (4 * k))
  | 1 => some (BitVec.ofNat 64 k)
  | 2 => some (BitVec.ofNat 64 g.idx)
  | 3 => some (BitVec.ofNat 64 x.gangs)
  | 4 => some (BitVec.ofNat 64 (32 * g.idx + 4 * k))
  | 5 => some (BitVec.ofNat 64 (g.idx / x.spl))
  | 6 => some (BitVec.ofNat 64 core)
  | 7 => some (BitVec.ofNat 64 (core / 128))
  | 8 => some (Config.deviceId.setWidth 64)
  | 9 => some (BitVec.ofNat 64 x.id)
  | 10 => some x.args
  | 11 => some s.clock
  | 12 => some g.fflags
  | 13 => some g.seed
  | 14 => some g.trapCause
  | 15 => some g.trapInfo
  | 16 => some g.trapPc
  | 17 => some (if g.xb then 1 else 0)
  | 18 => some (BitVec.ofNat 64 x.tiles)
  | 19 => some (BitVec.ofNat 64 x.prio)
  | 20 => some (BitVec.ofNat 64 x.pasid)
  | _ => none

/-! What an instruction leaves alone, and traps (R319 to R322). -/

/-- s' differs from s in streams, gangs and counts alone. -/
def OnlyStreams (s s' : State) : Prop :=
  s' =
    { s with
      streams := s'.streams, gangs := s'.gangs, counters := s'.counters, signals := s'.signals, seq := s'.seq, nextSid := s'.nextSid }

/-- As `OnlyStreams`, and what was tagged with a stream's number is tagged with another's where the streams of a gang have been divided
or joined (R102). -/
def OnlyDivided (s s' : State) : Prop :=
  s' =
    { s with
      streams := s'.streams, gangs := s'.gangs, counters := s'.counters, signals := s'.signals, seq := s'.seq, nextSid := s'.nextSid
      xcmds := s'.xcmds, out := s'.out }

/-- A stream but for what its spin detector notes and whether a line that it watches has changed. -/
def Stream.unnoted (t : Stream) : Stream := { t with spin := Spin.empty, due := false }

/-- s' differs from s only in what TLBs, caches and directories hold, the events that they count, and what streams note of loads and of
writes to watched lines (R81, R84, R282, R285). -/
def Cached (s s' : State) : Prop :=
  s'.streams.map Stream.unnoted = s.streams.map Stream.unnoted ∧
  s' =
    { s with
      tlb := s'.tlb, l1 := s'.l1, l2 := s'.l2, hostCopies := s'.hostCopies, hostLines := s'.hostLines, dropped := s'.dropped
      aliasLines := s'.aliasLines, walkCache := s'.walkCache, counters := s'.counters, signals := s'.signals, streams := s'.streams
      guest := { s.guest with shared := s'.guest.shared } }

/-- Likewise with other bytes in memory. -/
def CachedWith (s : State) (m : Memory) (s' : State) : Prop := Cached { s with mem := m } s'

/-- A store to lines of some VAs leaves the hardware queues as they are, but for the records of those whose lines it writes (R300). -/
def QueuesKept (s : State) (pasid : Nat) (vas : List Nat) (s' : State) : Prop :=
  s'.hwqs.map (fun q => { q with records := [] }) = s.hwqs.map (fun q => { q with records := [] }) ∧
  ((∀ q ∈ s.hwqs, ∀ va ∈ vas, q.covers pasid va = false) → s'.hwqs = s.hwqs)

/-- s' differs from s in memory, as `CachedWith` says, and in what a store to lines of some VAs does to hardware queues. -/
def StoredWith (s : State) (pasid : Nat) (vas : List Nat) (m : Memory) (s' : State) : Prop :=
  CachedWith { s with hwqs := s'.hwqs } m s' ∧ QueuesKept s pasid vas s'

/-- g' has every register and mark of g; its buffers, outstanding results and signatures may differ. -/
def SameRegs (g g' : Gang) : Prop :=
  g' = { g with pending := g'.pending, races := g'.races, belay := g'.belay, sig := g'.sig, sb := g'.sb, deferred := g'.deferred }

/-- The gang of stream t has a handler and is outside it; its other streams have nothing uncommitted and slices of their own. -/
structure TrapReady (s : State) (t : Stream) (g : Gang) (x : Launch) : Prop where
  launch : s.launch? t.launch = some x
  handler : x.hpc ≠ 0
  outside : g.hm = false
  others : ∀ u ∈ s.streamsOf t.launch g.idx, s.stream? u.sid = some u ∧
    (u.sid = t.sid ∨ u.unc = [] ∧ u.homes = [g.idx] ∧ u.slotsOf g.idx ≠ t.slotsOf g.idx)

/-- Gang g of stream t has taken a trap (R319 to R321): the three trap registers are written, HM is set, the stream is at HPC, the
gang's other streams are stopped where they are, and nothing else has changed. -/
def TrapTaken (s : State) (t : Stream) (g : Gang) (x : Launch) (cause : Nat) (info pc : Word) (s' : State) : Prop :=
  (∃ g', s'.gang? t.launch g.idx = some g' ∧
    g' = { g with trapCause := BitVec.ofNat 64 cause, trapInfo := info, trapPc := pc, hm := true, hmSlices := g'.hmSlices } ∧
    ∀ k, k < 8 → g'.hmSlices.getLsbD k = (t.slotsOf g.idx).contains k) ∧
  (∃ u, s'.stream? t.sid = some u ∧
    u = { t with pc := x.hpc, wait := .none, spin := u.spin, answers := [], walkFails := [], partsDone := [], loading := false, claim := none, grant := none
                 operands := [] }) ∧
  (∀ u ∈ s.streamsOf t.launch g.idx, u.sid ≠ t.sid → s'.stream? u.sid = some { u with stopped := true }) ∧
  s' = { s with streams := s'.streams, gangs := s'.gangs }

/-- A P-branch window is to close (R255): 64 clocks have passed since it opened, or every stream of the splice's resident gangs is at its
address or waits as R276 says. -/
def WindowDue (s : State) (sp : Splice) (w : PackWindow) : Prop :=
  64 ≤ (s.clock - w.opened).toNat ∨
    ∀ g ∈ s.gangs, g.launch = sp.launch → g.place.isSome = true → s.spliceOf g.launch g.idx = sp.idx →
      ∀ t ∈ s.streamsOf g.launch g.idx, t.wait = .pack w.addr ∨ t.wait.waiting = true

/-- The TLBs give an access of z bytes a translation whose W bit or memory kind forbids it (R80, R120, R123). -/
def Forbidden (s : State) (t : Stream) (g : Gang) (z : Nat) (acc : Access) (a : Word) : Prop :=
  ∃ c e, g.core = some c ∧ s.tlbHit c (s.pasidOf t.launch) (vaOf a) acc = some e ∧
    (acc.writes = true ∧ e.w = false ∨ acc = .atomic ∧ (e.kind = 3 ∨ e.kind = 4) ∨ acc = .zero ∧ e.kind = 3 ∨ z = 16 ∧ e.kind = 3 ∨
      e.kind = 4 ∧ s.aliasAt (e.pa + (vaOf a - e.vpage * 65536)) = none)

/-! Branches (R251). -/

/-- The condition of a branch in a lane: a mask register, the active mask for m0, or a scalar register that is not zero. -/
def laneCond (t : Stream) (g : Gang) (c l : Nat) : Bool :=
  if c = 0 then t.active.getLsbD l
  else if c < 16 then t.active.getLsbD l && (vget g.m c 0).getLsbD l
  else vget g.s (c - 16) 0 != 0

/-- A slice takes the branch if the condition holds in any of its four lanes, N inverting that. -/
def sliceTakes (t : Stream) (g : Gang) (f : BRFields) (k : Nat) : Bool :=
  ((List.range 4).any fun j => laneCond t g f.c.toNat (4 * k + j)) != f.n

/-- A branch with U whose condition differs among the active lanes. -/
def disagrees (t : Stream) (g : Gang) (f : BRFields) : Bool :=
  f.u && ((List.range 32).any fun l => t.active.getLsbD l && laneCond t g f.c.toNat l) &&
    (List.range 32).any fun l => t.active.getLsbD l && !laneCond t g f.c.toNat l

/-- PC + 2 × the signed offset of a BR or J word (R251, R260). -/
def relative (pc : Word) (off : BitVec 14) : Word := pc + off.signExtend 64 * 2

/-! Memory words (R119 to R130). -/

/-- The address of a lane: two registers, scaled or not, a scaled immediate with the lane's own place, or a register (R119). -/
def laneAddress (g : Gang) (f : MFields) (z l : Nat) : Word :=
  let base := vget g.s f.a.toNat 0
  let index := lane (vget g.v f.b.toNat zeroV) l
  match f.mode.toNat with
  | 0 => base + index
  | 1 => base + index * BitVec.ofNat 64 z
  | 2 => base + f.b.signExtend 64 * BitVec.ofNat 64 z + BitVec.ofNat 64 (l * z)
  | _ => index

/-- The address of a scalar form (R119, R122). -/
def scalarAddress (g : Gang) (f : MFields) (z : Nat) : Word :=
  let base := vget g.s f.a.toNat 0
  let index := vget g.s f.b.toNat 0
  match f.mode.toNat with
  | 0 => base + index
  | 1 => base + index * BitVec.ofNat 64 z
  | 2 => base + f.b.signExtend 64 * BitVec.ofNat 64 z
  | _ => index

/-- The bytes that a load's or store's W names (R119). -/
def wBytes (w : BitVec 3) : Nat := [1, 2, 4, 8, 16, 1, 2, 4].getD w.toNat 0

/-- The low word that a load makes of a number of z bytes: sign-extended by widths 5 to 7 (R121). -/
def loadedWord (w : BitVec 3) (n : Nat) : Word :=
  match w.toNat with
  | 5 => (BitVec.ofNat 8 n).signExtend 64
  | 6 => (BitVec.ofNat 16 n).signExtend 64
  | 7 => (BitVec.ofNat 32 n).signExtend 64
  | _ => BitVec.ofNat 64 n

/-- An access passes the checks of R120 and R123 and reaches coherent memory; its core has the translation (R81). -/
structure Reached (s : State) (t : Stream) (g : Gang) (z : Nat) (acc : Access) (a : Word) (x : Xlat) : Prop where
  aligned : a.toNat % z = 0
  canonical : canonical a = true
  mapped : s.translate g.core (s.pasidOf t.launch) (vaOf a) acc = .ok x
  coherent : x.kind < 2

/-- No read signature, format window, region, guest line or data error stands in the way of an access. -/
structure Calm (s : State) : Prop where
  signatures : ∀ g ∈ s.gangs, g.sig = []
  windows : s.windows = []
  regions : ∀ x ∈ s.launches, ∀ i, i < 16 → (x.region i).state = .unmarked
  guest : s.guest.owned = []
  errors : s.badLines = []

/-- The new value of an atomic (R129). -/
def atomicValue (op : Nat) (old x y : BitVec n) : BitVec n :=
  match op with
  | 0 => old + x
  | 1 => old &&& x
  | 2 => old ||| x
  | 3 => old ^^^ x
  | 4 => if x.slt old then x else old
  | 5 => if old.slt x then x else old
  | 6 => x
  | _ => if old = x then y else old

/-- Atomics of z bytes on (lane, PA, operand, second operand), one after the other: the memory they leave and the old value of each
lane (R106, R129). -/
def atomics (op z : Nat) : List (Nat × Nat × Word × Word) → Memory → Memory × List (Nat × Word)
  | [], m => (m, [])
  | (l, pa, x, y) :: rest, m =>
    let old := BitVec.ofNat (8 * z) (m.nat pa z)
    let new := atomicValue op old (x.setWidth (8 * z)) (y.setWidth (8 * z))
    let r := atomics op z rest (m.write pa (leBytes z new.toNat))
    (r.1, (l, old.setWidth 64) :: r.2)

/-- The lanes of a stream, ascending. -/
def lanesIn (t : Stream) : List Nat := (List.range 32).filter fun l => t.active.getLsbD l

/-- The byte that a store leaves at an address: of the highest lane whose z bytes cover it, else what was there (R106). `place`
gives a lane's first byte, `data` its bytes. -/
def storedByte (lanes : List Nat) (place : Nat → Nat) (data : Nat → List Byte) (old : Byte) (a : Nat) : Byte :=
  lanes.foldl (fun b l => if place l ≤ a ∧ a < place l + (data l).length then (data l).getD (a - place l) 0 else b) old

/-! Knots (R266 to R275). -/

/-- The record that an operation leaves: with every arrival in, the next generation begins (R269). -/
def Knot.settled (k : Knot) : Knot :=
  if 0 < k.exp ∧ k.arr = k.exp then { k with gen := (k.gen + 1) % 2 ^ 32, arr := 0, head := 0 } else k

/-- sA of a K word. -/
def handleOf (g : Gang) (f : KFields) : Word := vget g.s f.a.toNat 0

/-- The handle of something in coherent memory, aligned to n, passes the checks of R272, R275 and R302, its core having the translation:
it lies at pa. -/
def HandleAt (s : State) (t : Stream) (g : Gang) (h : Word) (n pa : Nat) : Prop :=
  ∃ x, Reached s t g n .store h x ∧ x.pa = pa

/-- The record of a knot handle lies at pa and may be used (R267, R272). -/
structure KnotAt (s : State) (t : Stream) (g : Gang) (h : Word) (pa : Nat) : Prop where
  reached : HandleAt s t g h 32 pa
  good : (s.knot pa).refusal h (s.pasidOf t.launch) = none

/-- Entry i of a gang's membership table. -/
def Gang.entry (g : Gang) (i : Nat) : Member := vget g.members i { handle := 0, av := false, agen := 0 }

/-- Entry i is the first that holds the knot h. -/
def MemberAt (g : Gang) (h : Word) (i : Nat) : Prop := i < 16 ∧ h ≠ 0 ∧ (g.entry i).handle = h ∧ ∀ j, j < i → (g.entry j).handle ≠ h

/-- The gang's members with the arrival mark set at a generation in the entry of the knot, if there is one (R270). -/
def Gang.marked (g : Gang) (h : Word) (gen : Nat) : Vector Member 16 :=
  match (List.range 16).find? fun i => (g.entry i).handle == h && h != 0 with
  | some i => vset g.members i { g.entry i with av := true, agen := BitVec.ofNat 32 gen }
  | none => g.members

/-- The register group of a queue record: the key, then the payload (R302). -/
def Gang.getsRecord (g : Gang) (wr : Writing) (t : Stream) (d : Nat) (r : HwRecord) : Gang :=
  (((g.gets wr t d r.key).gets wr t (d + 1) r.pay.1).gets wr t (d + 2) r.pay.2.1).gets wr t (d + 3) r.pay.2.2

/-- A usable hardware queue (R300 to R302): its descriptor lies at pa, is sound and not in error, and the queue is mapped. -/
structure QueueAt (s : State) (t : Stream) (g : Gang) (h : Word) (pa : Nat) (q : HwQueue) : Prop where
  reached : HandleAt s t g h 64 pa
  registered : s.hwq? (s.pasidOf t.launch) h.toNat = some q
  keyed : q.pasid = s.pasidOf t.launch ∧ q.desc = h.toNat ∧ q.descPa = pa
  good : s.descriptorBad (s.pasidOf t.launch) pa h = false ∧ s.descriptorErr pa = false
  mapped : q.mapped = true

/-- The record that a pop takes: the lowest key, pushed earliest (R302). -/
def Foremost (q : HwQueue) (r : HwRecord) : Prop :=
  r ∈ q.records ∧ ∀ r' ∈ q.records, r' ≠ r → r.key < r'.key ∨ r.key = r'.key ∧ r.order < r'.order

/-! Matrix words (R207 to R224). -/

/-- Stream t is the whole of gang g (R214). -/
def Whole (t : Stream) (g : Gang) : Prop := t.active = BitVec.allOnes 32 ∧ t.slotsOf g.idx = List.range 8

/-- The operand that map n of a gang names now. -/
def mapOperand (g : Gang) (n : BitVec 3) : Operand :=
  let m := vget g.om n.toNat { isSet := false, low := 0, high := 0, cursor := 0 }
  { low := m.low, high := m.high, cursor := m.cursor.toNat }

/-- Map n is set and its format is one of some. -/
def MapOk (g : Gang) (n : BitVec 3) (ok : Fmt → Bool) : Prop :=
  (vget g.om n.toNat { isSet := false, low := 0, high := 0, cursor := 0 }).isSet = true ∧ ok (mapOperand g n).fmt = true

/-- Map n moved on by k positions if its INC says so (R209). -/
def movedOn (om : Vector OMap 8) (n : BitVec 3) (k : Nat) : Vector OMap 8 :=
  let m := vget om n.toNat { isSet := false, low := 0, high := 0, cursor := 0 }
  if m.low.getLsbD 44 then vset om n.toNat { m with cursor := m.cursor + BitVec.ofNat 32 k } else om

/-- The maps of a product's two operands moved on: one named twice, once by the larger count (R209). -/
def mapsAfter (om : Vector OMap 8) (a b : BitVec 3) (ka kb : Nat) : Vector OMap 8 :=
  if a = b then movedOn om a (max ka kb) else movedOn (movedOn om a ka) b kb

/-- s with a matrix command queued behind the others, its rows locked (R109, R215). -/
def State.queued (s : State) (t : Stream) (g : Gang) (core sp batch : Nat) (op : MatOp) : State :=
  { s with
    seq := s.seq + 1
    matCmds := s.matCmds ++
      [{ seq := s.seq, core := core, launch := t.launch, gang := g.idx, splice := sp, batch := batch, op := op, started := false }]
    locks := s.locks ++ op.rows.1.map (fun r => { launch := t.launch, splice := sp, row := r, excl := false, seq := s.seq }) ++
      op.rows.2.map (fun r => { launch := t.launch, splice := sp, row := r, excl := true, seq := s.seq }) }

/-- The core's matrix queue takes a command of gang g whose bytes all lie in splice sp (R214, R227). -/
structure Queueable (s : State) (t : Stream) (g : Gang) (core : Nat) (sp : Splice) (bytes : List Nat) : Prop where
  whole : Whole t g
  home : g.core = some core
  splice : s.splice? t.launch (s.spliceOf t.launch g.idx) = some sp
  inside : ∀ a ∈ bytes, a < sp.size
  sound : sp.badBlocks = []
  room : EntryFree s t g .matrix

/-! Packets (R140 to R149). -/

/-- The packet that a CPY or PKT word submits from a vector register (R150): word i is lane i, V set, and the class that the word
names. -/
def submitted (cls : Option Nat) (v : VReg) : Packet :=
  vtab 8 fun i =>
    if i = 0 then
      match cls with
      | some c => (lane v 0 ||| 0x8000#64).extractLsb' 8 56 ++ BitVec.ofNat 8 c
      | none => lane v 0 ||| 0x8000#64
    else lane v i

/-- A map whose lines lie as they are numbered, of a format without scale: neither transposed nor swizzled (R208). -/
structure Plain (m : Operand) : Prop where
  straight : m.tr = false
  unswizzled : m.swz = 0
  unscaled : m.fmt.scaled = false

/-- The encoding of element q of line r from the cursor on, of a plain map (R51, R208). -/
def mapElem (sc : Memory) (m : Operand) (r q : Nat) : Nat :=
  let b := m.fmt.width
  let p := b * (m.cursor + q)
  sc.nat (m.base + r * m.pitch + p / 8) (b / 8 + 2) / 2 ^ (p % 8) % 2 ^ b

/-- The stored element that a 2:4 code puts at logical position q of a row, none where it is pruned (R217). -/
def keptElem (code : Nat → Nat) (x : Nat → α) (q : Nat) : Option α :=
  let kept := keptPositions (code (q / 4))
  if q % 4 = kept.1 then some (x (2 * (q / 4))) else if q % 4 = kept.2 then some (x (2 * (q / 4) + 1)) else none

/-- One element of a tile after a product of n positions (R65, R66, R217): of integers the sum modulo 2^32, else group by group of sixteen.
A pruned position is a product of +0, whatever the other operand holds there: the model's choice of log 51. -/
def dotOf (ints sg : Bool) (fa fb : Fmt) (n : Nat) (x : Nat → Option Nat) (y : Nat → Nat) (acc : BitVec 32) : BitVec 32 :=
  if ints then acc + BitVec.ofInt 32 (((List.range n).map fun q => ((x q).map (intCode fa sg)).getD 0 * intCode fb sg (y q)).sum)
  else (List.range (n / 16)).foldl (fun acc h => accumulate acc (groupSum ((List.range 16).map fun e =>
    match x (16 * h + e) with
    | some v => (mapValue fa sg v 127).mul (mapValue fb sg (y (16 * h + e)) 127)
    | none => (.fin false 0 0, 0)))) acc

/-- A queue's engine has work: its die is awake (R369). -/
def State.awakeFor (s : State) (e : QueueEngine) : State :=
  match e with
  | .bulk d _ => { s with gated := s.gated &&& ~~~(1#2 <<< d) }
  | _ => s

/-- A copy event and the class of its packets. -/
inductive CopyForm (e : EngineRef) (slot n : Nat) : Instr → Nat → Prop where
  | copy : CopyForm e slot n (.copyPacket e slot n) 1
  | quantize : CopyForm e slot n (.copyQuantizePacket e slot n) 2
  | decode : CopyForm e slot n (.copyDecodePacket e slot n) 3
  | reduce : CopyForm e slot n (.reduceCopyPacket e slot n) 4
  | fill : CopyForm e slot n (.fillPacket e slot n) 5

/-- Element i of some bytes, of a format of whole bytes. -/
def elemAtByte (f : Fmt) (bs : List Byte) (i : Nat) : Nat := leNat ((bs.drop (f.width / 8 * i)).take (f.width / 8))

/-- The bytes that a packet of one row in one line writes, from its source bytes and what its destination holds: formats of whole
bytes without scale (R144 to R148). -/
def oneLine (p : Packet) (src old : List Byte) : List Byte :=
  let n := pktLen p
  let sf := (pktFormats p).1
  let df := (pktFormats p).2
  match pktClass p with
  | 1 => src
  | 2 => (List.range n).flatMap fun i => leBytes (df.width / 8) (quantElem df (sf.decode (elemAtByte sf src i))).1
  | 3 => (List.range n).flatMap fun i => leBytes (df.width / 8) (decodeInto df (sf.decode (elemAtByte sf src i)))
  | 4 => (List.range n).flatMap fun i =>
      leBytes (df.width / 8) (reduceElem df (pktOpb p % 4) (pktOpb p / 128 == 1) (elemAtByte df old i) (elemAtByte df src i)).1
  | _ => (List.range n).map fun i => BitVec.ofNat 8 ((pktSrc p).toNat / 2 ^ (8 * (i % 8)))

/-! The mailbox (R341 to R343). -/

/-- The i-th 8-byte value of a command's ARG. -/
def State.arg (s : State) (c : Mailbox) (i : Nat) : Nat := s.mem.nat (c.recPA + 16 + 8 * i) 8

/-- A command record of an OP that firmware takes at once: no other is in progress or waits, and no reserved field is set. -/
structure Submitted (s : State) (c : Mailbox) (op : Nat) : Prop where
  serving : s.fw.serving = true
  full : s.fw.reduced = false
  place : c.recPA % 64 = 0 ∧ c.recPA < 2 ^ 56
  free : s.fw.current = none ∧ s.fw.waiting = []
  asked : s.mem.nat c.recPA 2 = op
  sound : s.mem.nat (c.recPA + 4) 4 < 2 ^ 20 ∧ s.mem.nat (c.recPA + 2) 2 = 0
  physical : c.vf = none
  fresh : c.go = false ∧ c.dirty = false
  calm : Calm s

/-- The end of a command (R341): STATUS is written and MBSTAT counts it. -/
def State.ends (u : State) (c : Mailbox) (status : Nat) : State :=
  { u with
    mem := u.mem.write (c.recPA + 2) (leBytes 2 status)
    fw := { u.fw with current := none, completed := u.fw.completed + 1 } }

/-- The number in n bytes from an offset of some bytes. -/
def numAt (bs : List Byte) (o n : Nat) : Nat := leNat ((bs.drop o).take n)

end Sys2Proof.Machine
end

