-- ==== Sys2Proof/Certificates/Slice0/Obligations.lean ====
section
/-! DEFINITION. The statements for the provers. -/

open Sys2Proof Sys2Proof.Machine

/-- NOP (R25) changes only the PC. -/
def Obligations.NopOnlyMovesPc : Prop :=
  ∀ (s : State) (t : Stream) (g : Gang), Issues s t g →
    exec .nop s = .next (s.completed t { len := 2, hold := false })

/-- The integer and logic words of R175 and LEA (R179), alone, prefixed or in 16 bits: every element of every active lane takes r of the
table, LEA a 64-bit address per lane; inactive lanes stay or become zero under Z; nothing else of the gang changes (R173 to R181). -/
def Obligations.VectorIntegerResults : Prop :=
  (∀ (s : State) (t : Stream) (g : Gang) (i : Instr) (op : VROp) (p : Prefix) (f : VRFields) (len : Nat) (short : Bool),
     Issues s t g → VRForm i op p f len short → op.wf f = true → p.fits op f = true → Held g (vrRegs p f) →
     (intElem op false 8 0 0 0 0).isSome = true →
     let w := intWidth f.t
     let A := vget g.v f.a.toNat zeroV
     let D := vget g.v f.d.toNat zeroV
     let C := if p.cv then vget g.v p.c.toNat zeroV else D
     ∃ new : VReg,
       ResultRows t g p D new (fun l x => ∀ j, j < 64 / w →
         some (elemOf x w j) = intElem op p.sat w (elemOf (lane A l) w j) (elemB g f w l j (f.b.signExtend w))
           (elemOf (lane C l) w j) (elemOf (lane D l) w j)) ∧
       exec i s = .next ((s.withGang t g fun g =>
         g.wrote (writingOf s t g) t false (writtenRows t g p) w (.v f.d.toNat) (.v new)).completed t { len := len, hold := f.h })) ∧
  (∀ (s : State) (t : Stream) (g : Gang) (i : Instr) (p : Prefix) (f : VRFields) (len : Nat) (short : Bool),
     Issues s t g → VRForm i .lea p f len short → VROp.wf .lea f = true → p.fits .lea f = true → Held g (vrRegs p f) →
     let D := vget g.v f.d.toNat zeroV
     ∃ new : VReg,
       ResultRows t g p D new (fun l x => x = lane (vget g.v f.a.toNat zeroV) l +
         elemB g f 64 l 0 (f.b.signExtend 64) * BitVec.ofNat 64 (8 / 2 ^ f.t.toNat)) ∧
       exec i s = .next ((s.withGang t g fun g =>
         g.wrote (writingOf s t g) t false (writtenRows t g p) 64 (.v f.d.toNat) (.v new)).completed t { len := len, hold := f.h }))

/-- The float words of R185 but CBLD and CBST, alone, prefixed or in 16 bits: each result of each active lane, the bits above the
results zero; the flags of every result gathered in sr_fflags; under stoch a draw for each result (R59, R183 to R193, R196). -/
def Obligations.VectorFloatResults : Prop :=
  ∀ (s : State) (t : Stream) (g : Gang) (i : Instr) (op : VROp) (p : Prefix) (f : VRFields) (len : Nat) (short : Bool),
    Issues s t g → VRForm i op p f len short → op.wf f = true → p.fits op f = true → Held g (vrRegs p f) →
    (floatResult op f false g.codebook 0 0 0 0 .rne).isSome = true →
    let W := (floatShape op f).1
    let K := (floatShape op f).2
    let A := vget g.v f.a.toNat zeroV
    let D := vget g.v f.d.toNat zeroV
    let C := if p.cv then vget g.v p.c.toNat zeroV else D
    let res := fun l j => (floatResult op f p.sat g.codebook (lane A l) (floatOperandB g op f l) (lane C l) j
      (modeOf p.rnd (drawFrom (drawsOn (vget g.st l 0) j)).2)).getD (0, 0)
    ∃ (new : VReg) (fl : Flags) (st : Vector (BitVec 32) 32),
      ResultRows t g p D new (fun l x => (∀ j, j < K → elemOf x W j = BitVec.ofNat W (res l j).1) ∧
        ∀ b, K * W ≤ b → x.getLsbD b = false) ∧
      (∀ b, b < 5 → (fl.getLsbD b = true ↔ ∃ l j, l < 32 ∧ laneActive t g p l = true ∧ j < K ∧ (res l j).2.getLsbD b = true)) ∧
      (∀ l, l < 32 → vget st l 0 = if p.rnd = 6 ∧ laneActive t g p l = true then drawsOn (vget g.st l 0) K else vget g.st l 0) ∧
      exec i s = .next ((s.withGang t g fun g =>
        { (g.wrote (writingOf s t g) t (!short) (writtenRows t g p) W (.v f.d.toNat) (.v new)).flagged fl with st := st }).completed t
          { len := len, hold := f.h })

/-- CBLD and CBST (R195): entry n of the codebook takes element n mod 4 of the highest active lane whose number is n / 4 modulo 4; each
active lane of CBST takes the four entries of its number modulo 4. -/
def Obligations.CodebookWords : Prop :=
  (∀ (s : State) (t : Stream) (g : Gang) (i : Instr) (p : Prefix) (f : VRFields) (len : Nat) (short : Bool),
    Issues s t g → VRForm i .cbld p f len short → VROp.wf .cbld f = true → p.fits .cbld f = true → Held g [f.a.toNat] →
    ∃ cb : Codebook,
      (∀ n, n < 16 → ∀ l, l < 32 → l % 4 = n / 4 → laneActive t g p l = true →
        (∀ l', l < l' → l' < 32 → l' % 4 = n / 4 → laneActive t g p l' = false) →
        vget cb n 0 = elemOf (lane (vget g.v f.a.toNat zeroV) l) 16 (n % 4)) ∧
      (∀ n, n < 16 → (∀ l, l < 32 → l % 4 = n / 4 → laneActive t g p l = false) → vget cb n 0 = vget g.codebook n 0) ∧
      exec i s = .next ((s.withGang t g fun g =>
        g.wrote (writingOf s t g) t false (if activeOf t g p = 0 then 0 else allRows) 16 .codebook (.codebook cb)).completed t
          { len := len, hold := f.h })) ∧
  (∀ (s : State) (t : Stream) (g : Gang) (i : Instr) (p : Prefix) (f : VRFields) (len : Nat) (short : Bool),
    Issues s t g → VRForm i .cbst p f len short → VROp.wf .cbst f = true → p.fits .cbst f = true → Held g [f.d.toNat] →
    let D := vget g.v f.d.toNat zeroV
    ∃ new : VReg,
      ResultRows t g p D new (fun l x => ∀ j, j < 4 → elemOf x 16 j = vget g.codebook (4 * (l % 4) + j) 0) ∧
      exec i s = .next ((s.withGang t g fun g =>
        g.wrote (writingOf s t g) t true (writtenRows t g p) 16 (.v f.d.toNat) (.v new)).completed t { len := len, hold := f.h }))

/-- FIRST (R204): sD becomes the lowest position that is active in the issuing stream and set in mA (under a prefix, also set in its
mask), or 32. -/
def Obligations.FirstLane : Prop :=
  ∀ (s : State) (t : Stream) (g : Gang) (i : Instr) (p : Prefix) (f : VRFields) (len : Nat) (short : Bool),
    Issues s t g → VRForm i .first p f len short → VROp.wf .first f = true →
    let set := activeOf t g p &&& (if f.a = 0 then t.active else vget g.m f.a.toNat 0)
    ∃ n, n ≤ 32 ∧ (∀ l, l < n → set.getLsbD l = false) ∧ (n < 32 → set.getLsbD n = true) ∧
      exec i s = .next ((s.withGang t g fun g => g.gets (writingOf s t g) t f.d.toNat (BitVec.ofNat 64 n)).completed t
        { len := len, hold := f.h })

/-- SHFL, BCAST, PERM, MOVSV and IOTA (R202). -/
def Obligations.CrossLaneMoves : Prop :=
  ∀ (s : State) (t : Stream) (g : Gang) (i : Instr) (op : VROp) (p : Prefix) (f : VRFields) (len : Nat) (short : Bool) (long : Bool),
    Issues s t g → VRForm i op p f len short → op.wf f = true → p.fits op f = true → Held g (moveRegs op f) →
    (moveLane op g f 0).map (·.2) = some long →
    let D := vget g.v f.d.toNat zeroV
    ∃ new : VReg,
      ResultRows t g p D new (fun l x => (moveLane op g f l).map (·.1) = some x) ∧
      exec i s = .next ((s.withGang t g fun g =>
        g.wrote (writingOf s t g) t long (writtenRows t g p) (if op = .shfl then 64 else intWidth f.t) (.v f.d.toNat) (.v new)).completed
          t { len := len, hold := f.h })

/-- BALLOT and MSET write bits of a mask register (R203), MOVVS a scalar register (R202). That a BALLOT prefixed with Z also writes 0 to
the bits of the stream's lanes outside the prefix's mask is the model's reading (log 31). -/
def Obligations.MaskMoves : Prop :=
  ∀ (s : State) (t : Stream) (g : Gang) (i : Instr) (p : Prefix) (f : VRFields) (len : Nat) (short : Bool),
    Issues s t g →
    let m := activeOf t g p
    let A := vget g.v f.a.toNat zeroV
    let rows := writtenRows t g p
    let old := vget g.m f.d.toNat 0
    let ends := fun (upd : Gang → Gang) => exec i s = .next ((s.withGang t g upd).completed t { len := len, hold := f.h })
    (VRForm i .ballot p f len short → VROp.wf .ballot f = true → Held g [f.a.toNat] →
      ∃ x : Mask, (∀ l, l < 32 → x.getLsbD l = (m.getLsbD l && lane A l != 0)) ∧
      ends fun g => g.wrote (writingOf s t g) t true rows 1 (.m f.d.toNat) (.m ((old &&& ~~~rows) ||| x))) ∧
    (VRForm i .mset p f len short → VROp.wf .mset f = true →
      ∃ x : Mask, (∀ l, l < 32 → x.getLsbD l = (m.getLsbD l && (vget g.s f.a.toNat 0).getLsbD l)) ∧
      ends fun g => g.wrote (writingOf s t g) t false rows 1 (.m f.d.toNat) (.m ((old &&& ~~~rows) ||| x))) ∧
    (VRForm i .movvs p f len short → VROp.wf .movvs f = true → Held g [f.a.toNat] →
      let w := intWidth f.t
      let q := (if f.x = 1 then (vget g.s f.b.toNat 0).toNat else f.b.toNat) % (32 * (64 / w))
      ends fun g => g.gets (writingOf s t g) t f.d.toNat ((elemOf (lane A (q / (64 / w))) w (q % (64 / w))).signExtend 64))

/-- RED, SCAN and MRED (R65 to R69, R201, R205) complete where the core's cross-lane queue has an entry for them (R226): the root of the
pairwise tree of R67, or the running results of R68, over the active elements, to the rows or the scalar register, with the flags of
every combination; MRED's leaders in m15. -/
def Obligations.Reductions : Prop :=
  (∀ (s : State) (t : Stream) (g : Gang) (i : Instr) (p : Prefix) (f : VRFields) (len : Nat) (short : Bool),
     Issues s t g → EntryFree s t g .cross → VRForm i .red p f len short → VROp.wf .red f = true → p.fits .red f = true →
     Held g ([f.a.toNat] ++ if f.x = 0 then [f.d.toNat] else []) →
     let r := reducerOf p f
     let D := vget g.v f.d.toNat zeroV
     let out := reducedOf r g.codebook (vget g.v f.a.toNat zeroV) (activeOf t g p)
     ∃ new : VReg, ResultRows t g p D new (fun _ x => ∀ j, j < 64 / r.w → elemOf x r.w j = BitVec.ofNat r.w out.1) ∧
     exec i s = .next ((s.withGang t g fun g =>
       ((if f.x = 0 then g.wrote (writingOf s t g) t true (writtenRows t g p) r.w (.v f.d.toNat) (.v new)
         else g.gets (writingOf s t g) t f.d.toNat
           (if r.float then BitVec.ofNat 64 out.1 else (BitVec.ofNat r.w out.1).signExtend 64)).flagged out.2).holdsEntry).completed t
       { len := len, hold := f.h })) ∧
  (∀ (s : State) (t : Stream) (g : Gang) (i : Instr) (p : Prefix) (f : VRFields) (len : Nat) (short : Bool),
     Issues s t g → EntryFree s t g .cross → VRForm i .scan p f len short → VROp.wf .scan f = true → p.fits .scan f = true →
     Held g [f.a.toNat, f.d.toNat] →
     let r := reducerOf p f
     let n := 64 / r.w
     let m := activeOf t g p
     let A := vget g.v f.a.toNat zeroV
     let out := scannedAt r (decide (f.x = 1)) g.codebook A m
     ∃ (new : VReg) (fl : Flags),
       ResultRows t g p (vget g.v f.d.toNat zeroV) new (fun l x => ∀ j, j < n → elemOf x r.w j = BitVec.ofNat r.w (out (n * l + j)).1) ∧
       (∀ b, b < 5 → (fl.getLsbD b = true ↔
         (∃ q, q < 32 * n ∧ m.getLsbD (q / n) = true ∧ (out q).2.getLsbD b = true) ∨
           ∃ v y, runBefore r.combine (sourceElem r g.codebook A m) (32 * n) = some (.flt v y) ∧ y.getLsbD b = true)) ∧
       exec i s = .next ((s.withGang t g fun g =>
         ((g.wrote (writingOf s t g) t true (writtenRows t g p) r.w (.v f.d.toNat) (.v new)).flagged fl).holdsEntry).completed t
         { len := len, hold := f.h })) ∧
  (∀ (s : State) (t : Stream) (g : Gang) (i : Instr) (p : Prefix) (f : VRFields) (len : Nat) (short : Bool),
     Issues s t g → EntryFree s t g .cross → VRForm i .mred p f len short → VROp.wf .mred f = true → p.fits .mred f = true →
     Held g [f.a.toNat, f.d.toNat] →
     let r := reducerOf p f
     let m := activeOf t g p
     let A := vget g.v f.a.toNat zeroV
     let D := vget g.v f.d.toNat zeroV
     let groupOf := fun l => maskOf fun q => m.getLsbD q && lane D q == lane D l
     let res := fun l => reducedOf r g.codebook A (groupOf l)
     ∃ (new : VReg) (lead : Mask) (fl : Flags),
       ResultRows t g p D new (fun l x => ∀ j, j < 64 / r.w → elemOf x r.w j = BitVec.ofNat r.w (res l).1) ∧
       (∀ l, l < 32 → lead.getLsbD l = (m.getLsbD l && decide (∀ q, q < l → (groupOf l).getLsbD q = false))) ∧
       (∀ b, b < 5 → (fl.getLsbD b = true ↔ ∃ l, l < 32 ∧ m.getLsbD l = true ∧ (res l).2.getLsbD b = true)) ∧
       exec i s = .next ((s.withGang t g fun g =>
         (((g.wrote (writingOf s t g) t true (writtenRows t g p) r.w (.v f.d.toNat) (.v new)).wrote (writingOf s t g) t true t.active 1 (.m 15)
           (.m ((vget g.m 15 0 &&& ~~~t.active) ||| lead))).flagged fl).holdsEntry).completed t { len := len, hold := f.h }))

/-- The scalar words of R165 to R168 and their 16-bit forms. -/
def Obligations.ScalarResults : Prop :=
  ∀ (s : State) (t : Stream) (g : Gang) (i : Instr) (d len : Nat) (x : Word) (h : Bool),
    Issues s t g → i.wf = true → scalarResult g i = some (d, x, len, h) →
    exec i s = .next ((s.withGang t g fun g => g.sets (writingOf s t g) t d x).completed t { len := len, hold := h })

/-- GETSR (R169, R170) reads each special register, the per-lane ones as of the lowest active lane. -/
def Obligations.SpecialRegisterRead : Prop :=
  ∀ (s : State) (t : Stream) (g : Gang) (x : Launch) (core k : Nat) (f : SRFields) (v : Word),
    Issues s t g → s.launch? t.launch = some x → 1 ≤ x.spl → g.core = some core → (t.slotsOf g.idx).head? = some k →
    specialValue s g x core k f.n.toNat = some v →
    exec (.getsr f) s = .next ((s.withGang t g fun g => g.sets (writingOf s t g) t f.d.toNat v).completed t (plainIssue f.h))

/-- SETSR (R58, R169): sr_fflags keeps five bits; sr_seed reseeds the generator of every lane. -/
def Obligations.SpecialRegisterWrite : Prop :=
  ∀ (s : State) (t : Stream) (g : Gang) (f : SRFields), Issues s t g →
    let x := vget g.s f.d.toNat 0
    (f.n = 12 → exec (.setsr f) s =
      .next ((s.withGang t g fun g => g.flagsSet ((x.setWidth 5).setWidth 64)).completed t (plainIssue f.h))) ∧
    (f.n = 13 → ∃ st : Vector (BitVec 32) 32,
      (∀ l, l < 32 → vget st l 0 = BitVec.ofNat 32 (x.toNat % 2 ^ 32 + l * 2 ^ 27) ^^^ x.extractLsb' 32 32) ∧
      exec (.setsr f) s = .next ((s.withGang t g fun g => { g with seed := x, st := st }).completed t (plainIssue f.h)))

/-- BR without P (R33, R251, R253, R284) completes in every state: with a canonical target, or no slice that takes it, every slice that
the stream held goes on at the target if one of its four lanes takes the branch, else past the word, whether the stream divides or
not; without W nothing waits. No register, no memory and no other stream changes. -/
def Obligations.BranchMovesSlices : Prop :=
  ∀ (s : State) (t : Stream) (g : Gang) (f : BRFields), Issues s t g → f.p = false → disagrees t g f = false →
    canonical (relative t.pc f.off) = true ∨ (∀ k, k < 8 → vget t.slots k none = some g.idx → sliceTakes t g f k = false) →
    ∃ s', exec (.br f) s = .next s' ∧
      (∀ k, k < 8 → vget t.slots k none = some g.idx →
        ∃ u ∈ s'.streams, (u.sid = t.sid ∨ u.sid = s.nextSid) ∧ u.launch = t.launch ∧ vget u.slots k none = some g.idx ∧
          u.pc = (if sliceTakes t g f k then relative t.pc f.off else t.pc + 4) ∧ (f.w = false → u.wait = t.wait)) ∧
      (∃ g', s'.gang? t.launch g.idx = some g' ∧ SameRegs g g') ∧
      (∀ n, n ≠ t.sid → n ≠ s.nextSid → (s'.stream? n).map Stream.unnoted = (s.stream? n).map Stream.unnoted) ∧
      (∀ l k, l ≠ t.launch ∨ k ≠ g.idx → s'.gang? l k = s.gang? l k) ∧
      s'.mem = s.mem ∧ s'.launches = s.launches ∧ s'.splices = s.splices ∧ s'.io = s.io

/-- BR with P, and PACK_WINDOW_CLOSE (R255): the stream joins the window of its address; once the window is due,
every slice in it whose stream no trap has stopped goes on in its own slot, at its destination, and the window is gone; before, nothing
happens. -/
def Obligations.PackWindows : Prop :=
  (∀ (s : State) (t : Stream) (g : Gang) (f : BRFields) (sp : Splice), Issues s t g → f.p = true → g.hm = false →
    disagrees t g f = false → s.splice? t.launch t.splice = some sp →
    ∃ s', exec (.br f) s = .next s' ∧
      (∃ u, s'.stream? t.sid = some u ∧ u.wait = .pack t.pc ∧ u.pc = t.pc ∧ u.slots = t.slots) ∧
      (∃ sp' w, s'.splice? t.launch t.splice = some sp' ∧ w ∈ sp'.windows ∧ w.addr = t.pc ∧ t.sid ∈ w.sids) ∧
      (∃ g', s'.gang? t.launch g.idx = some g' ∧ SameRegs g g') ∧ s'.mem = s.mem) ∧
  (∀ (s : State) (l i : Nat) (addr : Word) (sp : Splice) (w : PackWindow), s.splice? l i = some sp →
    sp.windows.find? (·.addr == addr) = some w → WindowDue s sp w → canonical (relative addr w.branch.off) = true →
    ∃ s', exec (.packWindowClose l i addr) s = .next s' ∧
      s'.splice? l i = some { sp with windows := sp.windows.filter (·.addr != addr) } ∧
      (∀ u ∈ s.streams, ∀ g, u.sid ∈ w.sids → u.wait = .pack addr → u.stopped = false → u.homes = [g.idx] →
        s.gang? u.launch g.idx = some g → g.pending = [] → g.races = [] → ∀ k, k < 8 → vget u.slots k none = some g.idx →
        ∃ v ∈ s'.streams, vget v.slots k none = some g.idx ∧ v.wait = .none ∧
          v.pc = if sliceTakes u g w.branch k then relative addr w.branch.off else addr + 4) ∧
      s'.mem = s.mem) ∧
  (∀ (s : State) (l i : Nat) (addr : Word) (sp : Splice), s.splice? l i = some sp →
    (∀ w ∈ sp.windows, w.addr = addr → ¬WindowDue s sp w) → exec (.packWindowClose l i addr) s = .next s)

/-- JMP, CALL and RET (R260): the stream goes on at an even canonical address, CALL leaving the next address in s63; an odd address raises
0x06 and an even one that is not canonical 0x05, precisely, with the address in sr_trapinfo. -/
def Obligations.JumpsAndCalls : Prop :=
  ∀ (s : State) (t : Stream) (g : Gang) (f : JFields), Issues s t g →
    let fits := fun (a : Word) => a.getLsbD 0 = false ∧ canonical a = true
    let goes := fun (i : Instr) (a : Word) (regs : Vector Word 64) =>
      ∃ s', exec i s = .next s' ∧ (∃ u, s'.stream? t.sid = some u ∧ u.pc = a ∧ u.slots = t.slots ∧ u.wait = t.wait) ∧
        (∃ g', s'.gang? t.launch g.idx = some g' ∧ SameRegs { g with s := regs } g') ∧ OnlyStreams s s'
    let near := relative t.pc f.imm
    let far := vget g.s f.a.toNat 0
    (fits near → goes (.jmp f) near g.s) ∧ (fits far → goes (.jmpReg f) far g.s) ∧
    (fits near → goes (.call f) near (vset g.s 63 (t.pc + 4))) ∧ (fits far → goes (.callReg f) far (vset g.s 63 (t.pc + 4))) ∧
    (fits (vget g.s 63 0) → goes (.ret f) (vget g.s 63 0) g.s) ∧
    (∀ x, TrapReady s t g x →
      let traps := fun (i : Instr) (a : Word) => ¬fits a → ∃ s', exec i s = .next s' ∧
        TrapTaken s t g x (if a.getLsbD 0 then 0x06 else 0x05) a t.pc s'
      traps (.jmp f) near ∧ traps (.jmpReg f) far ∧ traps (.call f) near ∧ traps (.callReg f) far ∧ traps (.ret f) (vget g.s 63 0))

/-- REGANG and REGANG_COMBINE (R259): a stream with every unexited slice of its gang completes, another waits; once all of them wait,
the slices of each address go on as one stream past it. -/
def Obligations.Regang : Prop :=
  (∀ (s : State) (t : Stream) (g : Gang) (f : JFields), Issues s t g → g.hm = false →
    let whole := t.slotsOf g.idx = (List.range 8).filter fun k => !g.exited.getLsbD k
    (whole → exec (.regang f) s = .next (s.completed t (controlIssue f.h))) ∧
    (¬whole → exec (.regang f) s = .next (s.waits t (.regang t.pc f.h)))) ∧
  (∀ (s : State) (l k : Nat) (g : Gang), s.gang? l k = some g → g.exited ≠ 0xFF → s.streamsOf l k ≠ [] →
    (∀ u ∈ s.streamsOf l k, u.homes = [k] ∧ u.stopped = false ∧ ∃ a h, u.wait = .regang a h) →
    ∃ s', exec (.regangCombine l k) s = .next s' ∧
      (∀ u ∈ s.streamsOf l k, ∀ a h, u.wait = .regang a h → ∃ v ∈ s'.streams, v.pc = a + 4 ∧ v.wait = .none ∧
        ∀ w ∈ s.streamsOf l k, ∀ h', w.wait = .regang a h' → ∀ i ∈ w.slotsOf k, vget v.slots i none = some k) ∧
      s'.mem = s.mem)

/-- YIELD (R261) and YIELD with a continuation (R153): the stream waits for the residency unit; with a condition armed it goes to the
continuation, at once if the condition holds, else once it does, and the condition is armed no more. -/
def Obligations.Yields : Prop :=
  ∀ (s : State) (t : Stream) (g : Gang) (f : JFields), Issues s t g →
    let i := controlIssue f.h
    let next := relative t.pc f.imm
    let goes := fun (s : State) (f : Stream → Stream) => (s.updStream t.sid fun u => { f u with pc := next }).jumped t i
    exec (.yield f) s = .next (s.parkedAt t i .yielded) ∧
    (g.armed = none → exec (.yieldContinuation f) s = .next (goes s fun u => { u with wait := .yielded })) ∧
    (∀ a v x, g.armed = some (a, v) → Reached s t g 8 .load a x → Calm s →
      ∃ (s1 : State) (die : Option Nat), Cached s s1 ∧
        exec (.yieldContinuation f) s = .next (goes (s1.withGang t g fun g => { g with armed := none }) fun u =>
          if v ≤ s.mem.word x.pa then u else { u with wait := .yieldWatch x.pa a v t.pc, watchDie := die, due := false }))

/-- EXIT (R262, R321): the stream is gone, and its slices have exited, in a handler too while another slice that entered it has not. With
the last of them the handler ends: the gang's stopped streams, whose committed stores are all visible, exit with it. -/
def Obligations.ExitEndsStream : Prop :=
  ∀ (s : State) (t : Stream) (g : Gang) (f : JFields), Issues s t g →
    let leaves := fun k => g.hmSlices.getLsbD k = true → g.exited.getLsbD k = true ∨ k ∈ t.slotsOf g.idx
    let goes := (g.hm = false ∨ ∃ k, k < 8 ∧ ¬leaves k)
    (goes → ∃ s', exec (.exit f) s = .next s' ∧ s'.streams = s.streams.filter (·.sid != t.sid) ∧
      (∃ g', s'.gang? t.launch g.idx = some g' ∧ SameRegs { g with exited := g'.exited } g' ∧
        ∀ k, k < 8 → g'.exited.getLsbD k = (g.exited.getLsbD k || (t.slotsOf g.idx).contains k)) ∧
      OnlyStreams s s') ∧
    (g.hm = true → (∀ k, k < 8 → leaves k) →
      (∀ u ∈ s.streamsOf t.launch g.idx, u.homes = [g.idx] ∧ s.storesOf u = []) →
      ∃ s', exec (.exit f) s = .next s' ∧
        s'.streams = s.streams.filter (fun u => !(s.streamsOf t.launch g.idx).any fun v => v.sid == u.sid) ∧
        (∃ g', s'.gang? t.launch g.idx = some g' ∧ SameRegs { g with hm := false, hmSlices := 0, exited := 0xFF } g') ∧ OnlyStreams s s')

/-- TRAP and BRK (R264), an illegal word (R43, R44), a branch with U whose condition differs (R251), and RTE outside a handler
(R321): each takes its trap, precisely but for TRAP and BRK, which first complete: sr_trappc is the next word. Of a gang
without a handler, or inside it, a trap ends the launch (R322): its gangs and streams, none in a knot, are gone, with no store of theirs
left to become visible, and its class-7 record waits. -/
def Obligations.TrapsTaken : Prop :=
  (∀ (s : State) (t : Stream) (g : Gang) (x : Launch), Issues s t g → TrapReady s t g x →
     let takes := fun (i : Instr) (cause : Nat) (info pc : Word) =>
       ∃ s', exec i s = .next s' ∧ TrapTaken s t g x cause info pc s'
     let completes := fun (i : Instr) (h : Bool) (cause : Nat) (info : Word) =>
       let s1 := s.completed t (controlIssue h)
       ∃ s' t1 g1, exec i s = .next s' ∧ s1.stream? t.sid = some t1 ∧ s1.gang? t.launch g.idx = some g1 ∧
         TrapTaken s1 t1 g1 x cause info (t.pc + 4) s'
     (∀ f, completes (.trap f) f.h 0x0F (f.imm.setWidth 64)) ∧
     (∀ f, completes (.brk f) f.h 0x10 t.pc) ∧
     (∀ info, takes (.illegalInstruction info) 0x01 info t.pc) ∧
     (∀ f, disagrees t g f = true → ∃ info : Word, takes (.br f) 0x02 info t.pc ∧ ∀ l, l < 32 →
       info.getLsbD l = (t.active.getLsbD l && laneCond t g f.c.toNat l) ∧ info.getLsbD (32 + l) = t.active.getLsbD l) ∧
     (∀ f, takes (.rte f) 0x01 (BitVec.ofNat 64 (leNat (encode (.rte f)))) t.pc)) ∧
  (∀ (s : State) (t : Stream) (g : Gang) (x : Launch) (f : JFields), Issues s t g → s.launch? t.launch = some x →
     x.hpc = 0 ∨ g.hm = true → (∀ h ∈ s.gangs, h.launch = t.launch → h.sb = []) →
     (∀ h ∈ s.gangs, h.launch = t.launch → ∀ m ∈ h.members.toList, m.handle = 0) →
     (∀ u ∈ s.streams, u.launch = t.launch → (∀ a n, u.wait ≠ .knot a n) ∧ u.homes ≠ [] ∧
       ∀ k ∈ u.homes, (s.gang? t.launch k).isSome = true) →
     ∃ s', exec (.trap f) s = .next s' ∧ (∀ h ∈ s'.gangs, h.launch ≠ t.launch) ∧ (∀ u ∈ s'.streams, u.launch ≠ t.launch) ∧
       ∃ w ∈ s'.waitingRecords, w.record.cls = 7 ∧ w.record.reason = 0x0F ∧ w.record.addr = t.pc + 4 ∧ w.record.skind = .gang)

/-- RTE (R264, R321): in a stream that holds every slice that entered and has not exited, HM is cleared, the stream goes on at
sr_trappc, and the streams that the trap stopped are released. -/
def Obligations.ReturnFromTrap : Prop :=
  ∀ (s : State) (t : Stream) (g : Gang) (f : JFields), Issues s t g → g.hm = true →
    (∀ k, k < 8 → (g.hmSlices.getLsbD k && !g.exited.getLsbD k) = (t.slotsOf g.idx).contains k) →
    ∃ s', exec (.rte f) s = .next s' ∧ (∃ u, s'.stream? t.sid = some u ∧ u.pc = g.trapPc ∧ u.slots = t.slots ∧ u.wait = t.wait) ∧
      (∀ u ∈ s.streamsOf t.launch g.idx, u.sid ≠ t.sid → s.stream? u.sid = some u → s'.stream? u.sid = some { u with stopped := false }) ∧
      (∃ g', s'.gang? t.launch g.idx = some g' ∧ SameRegs { g with hm := false, hmSlices := 0 } g') ∧ OnlyStreams s s'

/-- The traps that are events: a deferred report (R133, R320), and the watchdog, whose stream first rolls back to its belay point
(R328). -/
def Obligations.TrapEvents : Prop :=
  (∀ (s : State) (t : Stream) (g : Gang) (x : Launch) (d : Deferred), s.stream? t.sid = some t → t.homes = [g.idx] →
    s.gang? t.launch g.idx = some g → g.place.isSome = true → TrapReady s t g x → t.unc = [] → t.wait = .none → t.stopped = false →
    g.deferred.find? (·.sid == t.sid) = some d →
    ∃ s', exec (.deferredTrap t.sid) s = .next s' ∧
      TrapTaken (s.withGang t g fun g => { g with deferred := g.deferred.erase d }) t { g with deferred := g.deferred.erase d } x d.cause
        d.info t.pc s') ∧
  (∀ (s : State) (t : Stream) (g : Gang) (x : Launch) (u : Unc) (c : Nat), s.stream? t.sid = some t → t.homes = [g.idx] →
    s.gang? t.launch g.idx = some g → g.core = some c → TrapReady s t g x → t.unc.head? = some u → t.wait = .none → t.stopped = false →
    s.streamsOf t.launch g.idx = [t] → vget s.io.wdctl (c / 128) 0 ≠ 0 →
    ∃ s' g' v, exec (.watchdogExpiry t.sid) s = .next s' ∧ s'.gang? t.launch g.idx = some g' ∧ g'.trapCause = 0x12 ∧ g'.trapPc = u.pc ∧
      g'.hm = true ∧ s'.stream? t.sid = some v ∧ v.pc = x.hpc ∧ v.unc = [] ∧ v.wait = .none ∧ s'.mem = s.mem)

/-- SPIN_RECOGNISED (R283, R285): a stream at its loop's start, sixteen equal iterations behind it and nothing uncommitted, waits on the
lines its run has read, in its die's watch table if that has room; one of whose lines has been written since goes on. WATCH_RELOAD after a
write to one of the lines releases it, its count at zero. -/
def Obligations.SpinnerWaits : Prop :=
  ∀ (s : State) (t : Stream), s.stream? t.sid = some t → t.wait = .none → t.stopped = false → 16 ≤ t.spin.count →
    t.pc = t.spin.target → s.drained t = true →
    (t.due = false → ∃ (s1 : State) (die : Option Nat), Cached s s1 ∧ exec (.spinRecognised t.sid) s =
      .next (s1.updStream t.sid fun u =>
        { u with wait := .spin t.spin.runLines, spin := { t.spin with count := 0 }, watchDie := die, due := false })) ∧
    (t.due = true → exec (.spinRecognised t.sid) s =
      .next (s.updStream t.sid fun u => { u with spin := { t.spin with count := 0 }, due := false })) ∧
    (∀ s1 : State, s1.stream? t.sid = some { t with wait := .spin t.spin.runLines, spin := { t.spin with count := 0 }, due := true } →
      exec (.watchReload t.sid) s1 = .next (s1.updStream t.sid fun u => { u with wait := .none, watchDie := none, due := false }))

/-- LD, SLD and LDS (R119 to R122, R124, R127): each active lane's bytes, extended as W says, are in its row; a scalar form's in sD; the
second register of .128 has the high word. -/
def Obligations.Loads : Prop :=
  ∀ (s : State) (t : Stream) (g : Gang) (f : MFields), Issues s t g → Calm s → loadWf f = true →
    let z := wBytes f.w
    let d := f.d.toNat
    let wr := writingOf s t g
    let held := Held g ([d] ++ if f.mode = 2 then [] else [f.b.toNat])
    let inRows := fun (val : Nat → Nat) (i : Instr) => ∃ (lo hi : VReg) (s1 : State), Cached s s1 ∧
      (∀ l, l < 32 →
        lane lo l = (if t.active.getLsbD l then loadedWord f.w (val l) else lane (vget g.v d zeroV) l) ∧
        lane hi l = (if t.active.getLsbD l then BitVec.ofNat 64 (val l / 2 ^ 64) else lane (vget g.v (d + 1) zeroV) l)) ∧
      exec i s = .next ((s1.withGang t g fun g =>
        let g := g.wrote wr t true t.active 64 (.v d) (.v lo)
        if f.w = 4 then g.wrote wr t true t.active 64 (.v (d + 1)) (.v hi) else g).completed t (plainIssue f.h))
    (∀ X : Nat → Xlat, held → (∀ l, l < 32 → t.active.getLsbD l = true → Reached s t g z .load (laneAddress g f z l) (X l)) →
      inRows (fun l => s.mem.nat (X l).pa z) (.ld f)) ∧
    (∀ sp : Splice, held → s.splice? t.launch t.splice = some sp → s.locks = [] → sp.badBlocks = [] →
      (∀ l, l < 32 → t.active.getLsbD l = true →
        (laneAddress g f z l).toNat % z = 0 ∧ (laneAddress g f z l).toNat + z ≤ sp.size) →
      inRows (fun l => sp.scratch.nat (laneAddress g f z l).toNat z) (.lds f)) ∧
    (∀ x : Xlat, Reached s t g z .load (scalarAddress g f z) x → ∃ s1, Cached s s1 ∧
      exec (.sld f) s = .next ((s1.withGang t g fun g =>
        let g := g.gets wr t d (loadedWord f.w (s.mem.nat x.pa z))
        if f.w = 4 then g.gets wr t (d + 1) (BitVec.ofNat 64 (s.mem.nat x.pa z / 2 ^ 64)) else g).completed t (plainIssue f.h)))

/-- ST, SST and STS, and STORE_VISIBILITY after them (R87, R105, R106, R125 to R127): the instruction only fills the store buffer; once
visible, every byte that a lane stored holds the highest such lane's, and every other byte what it held; a hardware queue to whose lines no
lane stores keeps its records (R300). -/
def Obligations.Stores : Prop :=
  ∀ (s : State) (t : Stream) (g : Gang) (f : MFields), Issues s t g → s.Inv → Calm s → storeWf f = true → g.sb = [] →
    let z := wBytes f.w
    let d := f.d.toNat
    let held := Held g ([d] ++ if f.mode = 2 then [] else [f.b.toNat])
    let bytes := fun (lo hi : Word) => leBytes z (lo.toNat + if f.w = 4 then hi.toNat * 2 ^ 64 else 0)
    let data := fun l => bytes (lane (vget g.v d zeroV) l) (lane (vget g.v (d + 1) zeroV) l)
    let stores := fun (i : Instr) (after : State → Prop) => ∃ (es : List StoreEntry) (s0 s2 : State), Cached s s0 ∧
      let s1 := (s0.withGang t g fun g => { g with sb := es }).completed t (storeWord f.h)
      exec i s = .next s1 ∧ exec (.storeVisibility t.sid) s1 = .next s2 ∧ after s2 ∧
        ∃ g', s2.gang? t.launch g.idx = some g' ∧ SameRegs g g' ∧ g'.sb = []
    (∀ X : Nat → Xlat, held → (∀ l, l < 32 → t.active.getLsbD l = true →
        Reached s t g z .store (laneAddress g f z l) (X l) ∧ s.plainPa (lineOf (X l).pa) = true) →
      stores (.st f) fun s2 => QueuesKept s (s.pasidOf t.launch) ((lanesIn t).map fun l => vaOf (laneAddress g f z l)) s2 ∧
        ∀ a, s2.mem.get a = storedByte (lanesIn t) (fun l => (X l).pa) data (s.mem.get a) a) ∧
    (∀ x : Xlat, Reached s t g z .store (scalarAddress g f z) x → s.plainPa (lineOf x.pa) = true →
      stores (.sst f) fun s2 => QueuesKept s (s.pasidOf t.launch) [vaOf (scalarAddress g f z)] s2 ∧ ∀ a, s2.mem.get a =
        storedByte [0] (fun _ => x.pa) (fun _ => bytes (vget g.s d 0) (vget g.s (d + 1) 0)) (s.mem.get a) a) ∧
    (∀ sp : Splice, held → s.splice? t.launch t.splice = some sp → s.spliceOf t.launch g.idx = t.splice → s.locks = [] →
      sp.scratch.wf = true →
      (∀ l, l < 32 → t.active.getLsbD l = true →
        (laneAddress g f z l).toNat % z = 0 ∧ (laneAddress g f z l).toNat + z ≤ sp.size) →
      stores (.sts f) fun s2 => s2.mem = s.mem ∧ s2.hwqs = s.hwqs ∧ ∃ sp', s2.splice? t.launch t.splice = some sp' ∧ ∀ a, sp'.scratch.get a =
        storedByte (lanesIn t) (fun l => (laneAddress g f z l).toNat) data (sp.scratch.get a) a)

/-- ATOM, ATOMX and SATOM (R106, R129): the lanes' operations on memory one after the other, ascending, each lane taking the value it
found. -/
def Obligations.Atomics : Prop :=
  ∀ (s : State) (t : Stream) (g : Gang) (f : MFields), Issues s t g → Calm s → atomWf f = true → t.answers = [] →
    let d := f.d.toNat
    let D := vget g.v d zeroV
    let ends := fun (w : Instr) (vas : List Word) (m : Memory) (upd : Gang → Gang) =>
      ∃ s1, StoredWith s (s.pasidOf t.launch) (vas.map vaOf) m s1 ∧
        exec w s = .next ((s1.withGang t g upd).completed t (irrevocableWord f.h))
    let onLanes := fun (z : Nat) (w : Instr) => ∀ X : Nat → Xlat,
      Held g ([d] ++ if f.mode = 2 then [] else [f.b.toNat]) →
      (∀ l, l < 32 → t.active.getLsbD l = true → Reached s t g z .atomic (laneAddress g f z l) (X l)) →
      let r := atomics f.w.toNat z ((lanesIn t).map fun l => (l, (X l).pa, lane D l, lane (vget g.v (d + 1) zeroV) l)) s.mem
      ∃ new : VReg, (∀ l, l < 32 → lane new l = ((r.2.find? (·.1 == l)).map (·.2)).getD (lane D l)) ∧
        ends w ((lanesIn t).map fun l => laneAddress g f z l) r.1 fun g => g.wrote (writingOf s t g) t true t.active 64 (.v d) (.v new)
    onLanes 4 (.atom f) ∧ onLanes 8 (.atomx f) ∧
    (∀ x : Xlat, Reached s t g 8 .atomic (scalarAddress g f 8) x →
      let old := s.mem.word x.pa
      let new := atomicValue f.w.toNat old (vget g.s d 0) (vget g.s (d + 1) 0)
      ends (.satom f) [scalarAddress g f 8] (s.mem.write x.pa (leBytes 8 new.toNat)) fun g => g.gets (writingOf s t g) t d old)

/-- ZERO (R130): the bytes of every active lane's block are zero, and no other byte of memory changes. -/
def Obligations.ZeroBlocks : Prop :=
  ∀ (s : State) (t : Stream) (g : Gang) (f : MFields) (X : Nat → Xlat), Issues s t g → s.Inv → Calm s → extentWf f = true →
    t.answers = [] → Held g (if f.mode = 2 then [] else [f.b.toNat]) →
    let n := 64 * 2 ^ f.w.toNat
    (∀ l, l < 32 → t.active.getLsbD l = true → Reached s t g n .zero (laneAddress g f n l) (X l)) →
    let lines := (lanesIn t).flatMap fun l => (List.range (2 ^ f.w.toNat)).map fun i =>
      vaOf (laneAddress g f n l + BitVec.ofNat 64 (64 * i))
    ∃ (m : Memory) (s1 : State), StoredWith s (s.pasidOf t.launch) lines m s1 ∧
      exec (.zero f) s = .next (s1.completed t (irrevocableWord f.h)) ∧
      ∀ a, ((∃ l, l < 32 ∧ t.active.getLsbD l = true ∧ (X l).pa ≤ a ∧ a < (X l).pa + n) → m.get a = 0) ∧
        ((∀ l, l < 32 → t.active.getLsbD l = true → a < (X l).pa ∨ (X l).pa + n ≤ a) → m.get a = s.mem.get a)

/-- PREF (R131) changes only the PC and what the caches hold; COMMIT (R132) at a commit point only the PC. -/
def Obligations.PrefAndCommit : Prop :=
  ∀ (s : State) (t : Stream) (g : Gang) (f : MFields), Issues s t g →
    (∃ s1, Cached s s1 ∧ exec (.pref f) s = .next (s1.completed t (plainIssue f.h))) ∧
    exec (.commit f) s = .next (s.completed t (plainIssue f.h))

/-- The traps of an access's address (R120, R123, R127): misaligned, not canonical, forbidden by the leaf's W or its memory kind, or
outside the splice's scratchpad; of a vector form the lowest lane that fails is reported, and no lane is performed. -/
def Obligations.AddressTraps : Prop :=
  ∀ (s : State) (t : Stream) (g : Gang) (x : Launch) (f : MFields), Issues s t g → TrapReady s t g x →
    let held := Held g ([f.d.toNat] ++ if f.mode = 2 then [] else [f.b.toNat])
    let takes := fun (i : Instr) (cause info : Nat) =>
      ∃ s', exec i s = .next s' ∧ TrapTaken s t g x cause (BitVec.ofNat 64 info) t.pc s'
    let fails := fun (i : Instr) (z : Nat) (acc : Access) (a : Word) (info : Nat) =>
      (a.toNat % z ≠ 0 → takes i 0x06 info) ∧ (a.toNat % z = 0 → canonical a = false → takes i 0x05 info) ∧
      (a.toNat % z = 0 → canonical a = true → Forbidden s t g z acc a → takes i 0x05 info)
    let onLane := fun (i : Instr) (z code : Nat) (acc : Access) => ∀ (l : Nat) (X : Nat → Xlat), l < 32 → t.active.getLsbD l = true →
      (∀ k, k < l → t.active.getLsbD k = true → Reached s t g z acc (laneAddress g f z k) (X k)) →
      fails i z acc (laneAddress g f z l) (l * 2 ^ 59 + code * 2 ^ 56 + (laneAddress g f z l).toNat % 2 ^ 55)
    let onScalar := fun (i : Instr) (z code : Nat) (acc : Access) =>
      fails i z acc (scalarAddress g f z) (code * 2 ^ 56 + (scalarAddress g f z).toNat % 2 ^ 55)
    let inScratch := fun (i : Instr) (code : Nat) => ∀ (sp : Splice) (l : Nat), l < 32 → t.active.getLsbD l = true →
      s.splice? t.launch t.splice = some sp →
      let z := wBytes f.w
      let at' := fun k => (laneAddress g f z k).toNat
      let info := l * 2 ^ 59 + code * 2 ^ 56 + 2 ^ 55 + at' l % 2 ^ 55
      (∀ k, k < l → t.active.getLsbD k = true → at' k % z = 0 ∧ at' k + z ≤ sp.size) →
      (at' l % z ≠ 0 → takes i 0x06 info) ∧ (at' l % z = 0 → sp.size < at' l + z → takes i 0x0A info)
    (loadWf f = true → onScalar (.sld f) (wBytes f.w) 0 .load) ∧ (storeWf f = true → onScalar (.sst f) (wBytes f.w) 1 .store) ∧
    (atomWf f = true → onScalar (.satom f) 8 2 .atomic) ∧
    (extentWf f = true → Held g (if f.mode = 2 then [] else [f.b.toNat]) → onLane (.zero f) (64 * 2 ^ f.w.toNat) 3 .zero) ∧
    (held → (loadWf f = true → onLane (.ld f) (wBytes f.w) 0 .load ∧ inScratch (.lds f) 0) ∧
      (storeWf f = true → onLane (.st f) (wBytes f.w) 1 .store ∧ inScratch (.sts f) 1) ∧
      (atomWf f = true → onLane (.atom f) 4 2 .atomic ∧ onLane (.atomx f) 8 2 .atomic))

/-- A scalar load without a translation (R77, R82, R323, R326): where the walk has failed, its class-1 record waits to be posted and the
stream for the resolution; else the stream joins the outstanding miss of its page, or begins one where its die has fewer than 256,
and waits. Its PC stays at the load. -/
def Obligations.TranslationFaultWaits : Prop :=
  ∀ (s : State) (t : Stream) (g : Gang) (f : MFields), Issues s t g → loadWf f = true →
    let z := wBytes f.w
    let a := scalarAddress g f z
    let pasid := s.pasidOf t.launch
    a.toNat % z = 0 → canonical a = true →
    (∀ r, s.translate g.core pasid (vaOf a) .load = .error (.fault r) →
      ∃ s' w, exec (.sld f) s = .next s' ∧ s'.waitingRecords = s.waitingRecords ++ [w] ∧
        w.record = { addr := a, src := BitVec.ofNat 64 (g.idx % 2 ^ 32 * 2 ^ 32 + t.launch % 2 ^ 32), pasid := pasid, reason := r
                     acc := 0, skind := .gang, cls := 1 } ∧
        s'.stream? t.sid = some { t with wait := .fault w.serial, walkFails := [], spin := Spin.empty } ∧ s'.gangs = s.gangs ∧ s'.mem = s.mem) ∧
    (∀ c, g.core = some c → s.translate g.core pasid (vaOf a) .load = .error .wait →
      ∃ s', exec (.sld f) s = .next s' ∧ s'.stream? t.sid = some { t with wait := .walk } ∧
        ((s.misses.filter (·.die == c / 128)).length < 256 → ∃ m ∈ s'.misses, m.die = c / 128 ∧ m.pasid = pasid ∧
          m.page = vaOf a / 65536 ∧ (t.sid, .load) ∈ m.waiters) ∧
        s' = { s with misses := s'.misses, streams := s'.streams })

/-- INSTRUCTION_COMMIT and REGISTER_RESULT_RETURN (R126, R161, R305): the oldest uncommitted instruction is that no more, its logged
values go and its stores may leave; a returned result is outstanding no more, and one whose tag no longer matches is counted as
dropped. Neither changes a register or memory. -/
def Obligations.CommitAndReturn : Prop :=
  (∀ (s : State) (t : Stream) (g : Gang) (u : Unc) (rest : List Unc), s.stream? t.sid = some t → t.homes = [g.idx] →
    s.gang? t.launch g.idx = some g → t.unc = u :: rest → (∀ e ∈ g.sb, e.sid = t.sid → u.seq ≤ e.seq) →
    ∃ s' t' g', exec (.instructionCommit t.sid) s = .next s' ∧ s'.stream? t.sid = some t' ∧ t'.unc = rest ∧ t'.pc = t.pc ∧
      s'.gang? t.launch g.idx = some g' ∧ SameRegs g g' ∧ g'.pending = g.pending ∧ g'.races = g.races ∧
      g'.belay.map (fun e => (e.sid, e.seq, e.reg)) =
        (g.belay.filter fun e => !(e.sid == t.sid && e.seq == u.seq)).map (fun e => (e.sid, e.seq, e.reg)) ∧
      ((∀ e ∈ g.belay, ∀ b set y, e.old ≠ .flags b set y) → g'.belay = g.belay.filter fun e => !(e.sid == t.sid && e.seq == u.seq)) ∧
      g'.sb = g.sb.map (fun e => { e with committed := e.committed || (e.sid == t.sid && e.seq == u.seq) }) ∧ OnlyStreams s s') ∧
  (∀ (s : State) (g : Gang) (n : Nat), s.gang? g.launch g.idx = some g →
    let returned := fun (s : State) => s.updGang g.launch g.idx fun _ => { g with pending := g.pending.eraseIdx n }
    ((∀ p, g.pending[n]? = some p → p.tag = g.tagOf p.reg) →
      exec (.registerResultReturn g.launch g.idx n) s = .next (returned s)) ∧
    (∀ p c, g.pending[n]? = some p → p.tag ≠ g.tagOf p.reg → g.core = some c →
      exec (.registerResultReturn g.launch g.idx n) s = .next (returned (s.count c 4 (s.pasidOf g.launch) 1))))

/-- ROLLBACK (R89, R161, R306, R307) of a gang with one stream: it is back at its oldest uncommitted instruction; a scalar register has the
value that it had there; uncommitted stores are lost, the results in flight of what is discarded no longer match their tags, those of what
has committed still do (log 54); the signature is empty and the tags have moved on. -/
def Obligations.RollbackRestores : Prop :=
  ∀ (s : State) (t : Stream) (g : Gang) (u : Unc), s.stream? t.sid = some t → t.homes = [g.idx] →
    s.gang? t.launch g.idx = some g → s.streamsOf t.launch g.idx = [t] → t.unc.head? = some u → (∀ e ∈ g.belay, e.sid = t.sid) →
    ∃ s' t' g', exec (.rollback t.launch g.idx) s = .next s' ∧ s'.stream? t.sid = some t' ∧ t'.pc = u.pc ∧ t'.unc = [] ∧
      t'.slots = t.slots ∧ s'.gang? t.launch g.idx = some g' ∧
      (∀ r, r < 64 → (∀ e ∈ g.belay, e.reg ≠ .s r) → vget g'.s r 0 = vget g.s r 0) ∧
      (∀ r w, r < 64 → (∀ e ∈ g.belay, e.reg = .s r → ∃ y, e.old = .s y) →
        ((g.belay.filter (·.reg == .s r)).getLast?.map (·.old)) = some (.s w) → vget g'.s r 0 = w) ∧
      g'.sb = g.sb.filter (fun e => e.sid != t.sid || e.committed) ∧
      (∀ p ∈ g'.pending, p.sids.contains t.sid = true → u.seq ≤ p.seq → p.tag ≠ g'.tagOf p.reg) ∧
      (∀ p ∈ g.pending, p.tag = g.tagOf p.reg → p.sids.contains t.sid = false ∨ p.seq < u.seq →
        ∃ p' ∈ g'.pending, p'.seq = p.seq ∧ p'.reg = p.reg ∧ p'.val = p.val ∧ p'.tag = g'.tagOf p'.reg) ∧ g'.belay = [] ∧ g'.sig = [] ∧
      g'.tagBase = g.tagBase + 1 ∧ g'.tagExt = g.tagExt + 1 ∧ g'.tagScalar = g.tagScalar + 1 ∧ OnlyStreams s s'

/-- PAGE_WALK (R76, R78, R81, R82) of a miss that a stream waits for: A is set in the leaf that the walk reached, D too for a write, the
core's TLB holds the translation, the miss is over and the stream tries again.
INSTRUCTION_FETCH (R21): the line of code as memory holds it is in the core's buffer for the launch. HOST_SNOOP (R93): no die holds the
line any more, and of a host line memory has the bytes that the host has written. -/
def Obligations.TranslationAndLines : Prop :=
  (∀ (s : State) (t : Stream) (c : Nat) (va : Word) (m : TlbMiss) (acc : Access) (x : Xlat), s.Inv → Calm s → s.stream? t.sid = some t →
     s.streamCore t = some c → m.die = c / 128 → m.die < 2 → m.page = vaOf va / 65536 → m.waiters = [(t.sid, acc)] → s.misses = [m] →
     s.walkFor (some m.die) m.pasid (m.page * 65536) = .ok x → permits acc x.kind x.w x.x = true →
     x.leafPa % 8 = 0 → x.leaf = s.mem.word x.leafPa →
     ∃ s' e u, exec (.pageWalk t.sid va acc.writes) s = .next s' ∧
       s'.mem.word x.leafPa = s.mem.word x.leafPa ||| (if acc.writes then 0x600 else 0x200) ∧
       (∀ a, a < x.leafPa ∨ x.leafPa + 8 ≤ a → s'.mem.get a = s.mem.get a) ∧ s'.tlb.head? = some e ∧
       e = { core := c, pasid := m.pasid, vpage := x.vpage, pages := x.pages, pa := x.base, w := x.w, x := x.x, kind := x.kind
             dirty := acc.writes || x.leaf.getLsbD 10 } ∧
       s'.misses = [] ∧ s'.stream? t.sid = some u ∧ (t.wait = .walk → u.wait = .none) ∧ u.pc = t.pc ∧ s'.gangs = s.gangs) ∧
  (∀ (s : State) (t : Stream) (c line : Nat) (x : Xlat), Calm s → s.stream? t.sid = some t → s.streamCore t = some c → t.wait = .none →
     t.stopped = false → line % 64 = 0 → line < 2 ^ 54 → canonical t.pc = true →
     s.translate (some c) (s.pasidOf t.launch) line .fetch = .ok x →
     ∃ s1 buf, Cached s s1 ∧ exec (.instructionFetch t.sid line) s = .next { s1 with ibuf := buf } ∧
       { s1 with ibuf := buf }.fetched c t.launch line = some (s.mem.read (x.pa / 64 * 64) 64)) ∧
  (∀ (s : State) (pa : Nat) (data : List Byte), Calm s →
     ∃ s', exec (.hostSnoop ⟨pa, data⟩) s = .next s' ∧
       s'.mem = (if pa / 2 ^ 44 = 1 then s.mem.write (pa / 64 * 64) (data.take 64) else s.mem) ∧ s'.gangs = s.gangs ∧
       (∀ x ∈ s'.hostLines, x.die < 2 → x.pa ≠ pa / 64 * 64) ∧ (∀ x ∈ s'.l2, x.die < 2 → x.pa ≠ pa / 64 * 64) ∧
       (∀ x ∈ s'.l1, x.core < 256 → x.pa ≠ pa / 64 * 64) ∧ pa / 64 * 64 ∉ s'.guest.shared)

/-- ALIAS_READ_DECODE and ALIAS_WRITE_BACK (R97, R98): a cached alias line reads as its block decodes; a committed store of a stream to an
alias line re-encodes its block, the stored bytes put over the decoded image. -/
def Obligations.AliasLines : Prop :=
  (∀ (s : State) (die pa : Nat) (w : Win) (k : Nat), s.aliasAt pa = some (w, k) → (∀ x ∈ s.aliasLines, x.1 ≠ pa / 64 * 64) →
    s.guest.owned = [] →
    ∃ s', exec (.aliasReadDecode ⟨die, pa⟩) s = .next s' ∧ (∃ x ∈ s'.aliasLines, x.1 = pa / 64 * 64) ∧
      (∀ b, b / 64 = pa / 64 → s'.aliasRead b = s.aliasRead b) ∧ s'.mem = s.mem) ∧
  (∀ (s : State) (t : Stream) (g : Gang) (e : StoreEntry) (pa va : Nat) (w : Win) (k : Nat), s.Inv →
    (∀ h ∈ s.gangs, h.sig = []) → (∀ x ∈ s.launches, ∀ i, i < 16 → (x.region i).state = .unmarked) → s.guest.owned = [] →
    s.stream? t.sid = some t → t.homes = [g.idx] → s.gang? t.launch g.idx = some g → g.sb = [e] → e.sid = t.sid → e.committed = true →
    e.waiting = false → e.place = .mem pa va → paRange s.memMap pa = .aliases → s.aliasAt pa = some (w, k) → w.efmt.scaled = false →
    let first := w.base + w.blockBytes * k
    let image := (List.range w.blockBytes).map fun i =>
      e.bytes.foldl (fun b (c : Nat × Byte) => if pa + c.1 = first + i then c.2 else b) ((w.decodeBlock s.mem k).getD i 0)
    let values := (List.range 128).map fun i => w.dfmt.decode (leNat ((image.drop (w.bytes * i)).take w.bytes))
    let codes := (encodeBlock w.efmt values).2.1
    ∃ s' g', exec (.aliasWriteBack t.sid) s = .next s' ∧ s'.gang? t.launch g.idx = some g' ∧ SameRegs g g' ∧ g'.sb = [] ∧
      s'.mem = s.mem.write (w.enc + 16 * w.bits * k)
        (leBytes (16 * w.bits) (codes.foldr (fun x acc => x % 2 ^ w.bits + 2 ^ w.bits * acc) 0)))

/-- The knot words (R267 to R275) on a record that may be used: what each leaves in the record, in sD, and in the gang's table. Of an
operation that ends a phase, the phase has ended; KQUERY, and KWAIT past its generation, leave the record alone. -/
def Obligations.KnotWords : Prop :=
  ∀ (s : State) (t : Stream) (g : Gang) (f : KFields) (pa : Nat), Issues s t g → Calm s →
    let h := handleOf g f
    let k := s.knot pa
    let d := f.d.toNat
    let b := vget g.s f.b.toNat 0
    let i := knotIssue f.h
    let gets := fun (g : Gang) (x : Word) => g.gets (writingOf s t g) t d x
    let leaves := fun (w : Instr) (new : Knot) (upd : Gang → Gang) => ∃ s1, CachedWith s (s.mem.write pa new.bytes) s1 ∧
      exec w s = .next ((s1.withGang t g upd).completed t i)
    let arrived := { k with arr := k.arr + 1 }.settled
    let marks := fun g : Gang => gets { g with members := g.marked h k.gen } (BitVec.ofNat 64 k.gen)
    (HandleAt s t g h 32 pa → k.flags % 2 = 0 ∨ k.check ≠ knotCheck h → b.toNat < 2 ^ 33 →
      leaves (.knew f) { exp := b.toNat % 2 ^ 32, arr := 0, gen := 0, flags := 1 + 2 * (b.toNat / 2 ^ 32), head := 0
                         owner := s.pasidOf t.launch, check := knotCheck h } id) ∧
    (KnotAt s t g h pa →
      (∀ n, n < 16 → h ≠ 0 → (∀ j, j < 16 → (g.entry j).handle ≠ h) → (g.entry n).handle = 0 → (∀ j, j < n → (g.entry j).handle ≠ 0) →
        k.exp + 1 < 2 ^ 32 →
        leaves (.kjoin f) { k with exp := k.exp + 1 } fun g =>
          gets { g with members := vset g.members n { handle := h, av := false, agen := 0 } } (BitVec.ofNat 64 k.gen)) ∧
      (∀ n, MemberAt g h n → 0 < k.exp → k.head = 0 →
        let marked := (g.entry n).av = true ∧ (g.entry n).agen.toNat = k.gen
        (marked → 0 < k.arr) →
        leaves (.kleave f) { k with exp := k.exp - 1, arr := if marked then k.arr - 1 else k.arr }.settled
          fun g => { g with members := vset g.members n { handle := 0, av := false, agen := 0 } }) ∧
      (0 < k.exp → k.head = 0 → leaves (.karrive f) arrived marks) ∧
      (k.head = 0 → k.arr + 1 = k.exp → leaves (.karrw f) arrived marks) ∧
      (k.head = 0 → leaves (.kfree f) { k with flags := 0, check := 0 } id) ∧
      (∃ s1, Cached s s1 ∧ exec (.kquery f) s =
        .next ((s1.withGang t g fun g => gets g (BitVec.ofNat 64 (k.gen * 2 ^ 32 + k.arr))).completed t i)) ∧
      (k.gen ≠ b.toNat % 2 ^ 32 → ∃ s1, Cached s s1 ∧ exec (.kwait f) s = .next (s1.completed t i)))

/-- KWAIT in the generation that it names (R274, R277): the gang's waiter entry is at the head of the knot's list, linked to what was there,
and the stream waits, its PC past the word. The checks of R275: a knot word on a record that fails them takes trap 0x0B with the reason
and the handle. ENGINE_KNOT_ARRIVAL (R112, R271) arrives, once the engine's payload is visible, on a record that takes engines, and is
otherwise only counted. The model's reading (log 47): until the payload of every begun command of its kind and PASID is visible, an
arrival does nothing. -/
def Obligations.KnotWaitsAndChecks : Prop :=
  (∀ (s : State) (t : Stream) (g : Gang) (f : KFields) (pa : Nat) (x : Xlat), Issues s t g → Calm s → s.Inv →
     let h := handleOf g f
     let pasid := s.pasidOf t.launch
     let va := (s.context pasid).gpool + BitVec.ofNat 64 (0x15000 * g.record + 0x180 + 16 * (t.slotsOf g.idx).headD 0)
     KnotAt s t g h pa → (s.knot pa).gen = (vget g.s f.b.toNat 0).toNat % 2 ^ 32 → s.engineAccess pasid va .store = .ok (s, x) →
     x.pa + 12 ≤ pa ∨ pa + 32 ≤ x.pa →
     ∃ s' u, exec (.kwait f) s = .next s' ∧ s'.mem.word (pa + 16) = va ∧ s'.mem.word x.pa = (s.knot pa).head ∧
       s'.mem.nat (x.pa + 8) 4 = (s.knot pa).gen ∧ s'.stream? t.sid = some u ∧
       u.wait = .knot h (BitVec.ofNat 32 (s.knot pa).gen) ∧ u.pc = t.pc + 4 ∧
       ∃ g', s'.gang? t.launch g.idx = some g' ∧ SameRegs g g') ∧
  ((∀ (s : State) (t : Stream) (g : Gang) (x : Launch) (f : KFields) (pa r : Nat), Issues s t g → Calm s → TrapReady s t g x →
     let h := handleOf g f
     HandleAt s t g h 32 pa → (s.knot pa).refusal h (s.pasidOf t.launch) = some r →
     ∀ i ∈ [Instr.kjoin f, .kleave f, .karrive f, .kwait f, .karrw f, .kfree f, .kquery f],
       ∃ s', exec i s = .next s' ∧ TrapTaken s t g x 0x0B (BitVec.ofNat 64 (r * 2 ^ 58 + h.toNat % 2 ^ 55)) t.pc s') ∧
   (∀ (s : State) (kind : EngineKind) (pasid : Nat) (h : Word) (pa : Nat), Calm s → s.handleAccess none pasid h 32 = .ok (s, pa) →
     let k := s.knot pa
     (s.payloadsDone kind pasid = false → exec (.engineKnotArrival kind pasid h) s = .next s) ∧
     (s.payloadsDone kind pasid = true → k.refusal h pasid = none → k.flags / 2 % 2 = 1 → 0 < k.exp → k.head = 0 →
       ∃ s1, CachedWith s (s.mem.write pa { k with arr := k.arr + 1 }.settled.bytes) s1 ∧
         exec (.engineKnotArrival kind pasid h) s = .next s1) ∧
     (k.refusal h pasid ≠ none ∨ k.flags / 2 % 2 = 0 ∨ k.exp = 0 →
       ∃ s', exec (.engineKnotArrival kind pasid h) s = .next s' ∧ s' = { s with counters := s'.counters, signals := s'.signals })))

/-- WARM, WWAIT and WSTAMP with WATCH_RELOAD and WATCH_RECHECK_EXPIRY (R152, R285): WARM arms the gang's condition; the others give the word
that meets theirs, at once or when a reload finds it. A reload after a write to the line, or a recheck at any time, ends the wait whose
condition then holds. -/
def Obligations.Watches : Prop :=
  (∀ (s : State) (t : Stream) (g : Gang) (f : KFields) (x : Xlat), Issues s t g → Calm s →
    let a := vget g.s f.a.toNat 0
    let v := vget g.s f.b.toNat 0
    let w := s.mem.word x.pa
    let n := 4 * (t.slotsOf g.idx).headD 0
    let i := irrevocableWord f.h
    let gives := fun (w' : Instr) (y : Word) => ∃ s1, Cached s s1 ∧
      exec w' s = .next ((s1.withGang t g fun g => g.gets (writingOf s t g) t f.d.toNat y).completed t i)
    let waits := fun (w' : Instr) (ge : Bool) => ∃ (s1 : State) (die : Option Nat), Cached s s1 ∧
      exec w' s = .next (s1.updStream t.sid fun u => { u with wait := .watch ge x.pa v, watchDie := die, due := false })
    Reached s t g 8 .load a x →
    (∃ s1, Cached s s1 ∧
      exec (.warm f) s = .next ((s1.withGang t g fun g => { g with armed := some (a, v) }).completed t i)) ∧
    (t.answers = [] →
      (w ≠ v → gives (.wwait f) w) ∧ (w = v → waits (.wwait f) false) ∧ (v ≤ w → gives (.wstamp f) w) ∧ (w < v → waits (.wstamp f) true)) ∧
    (∀ y : Word, t.answers = [(n, some (leBytes 8 y.toNat))] → gives (.wwait f) y ∧ gives (.wstamp f) y)) ∧
  (∀ (s : State) (t : Stream) (ge : Bool) (pa : Nat) (v : Word), s.stream? t.sid = some t → t.wait = .watch ge pa v → s.guest.owned = [] →
    let w := s.mem.word pa
    (if ge then v ≤ w else w ≠ v) →
    let woken := s.updStream t.sid fun u =>
      { u with wait := .none, watchDie := none, due := false
               answers := u.answers ++ [(4 * t.partNow.headD 0, some (leBytes 8 w.toNat))] }
    (t.due = true → exec (.watchReload t.sid) s = .next woken) ∧ exec (.watchRecheckExpiry t.sid) s = .next woken)

/-- RACQ, RREL and EXTENDED_BLOCK_GRANT (R158, R160): a free block is the gang's, zero in v32 to v63; RREL gives it back. An instruction
that names a vector register above v31 in a gang that holds no block raises 0x07 with the lowest that it names (R159). -/
def Obligations.ExtendedBlocks : Prop :=
  let used := fun (s : State) (c : Nat) =>
    (s.gangs.filter fun h => h.core == some c && h.xb || h.place.isNone && h.blockCore == some c).length
  (∀ (s : State) (t : Stream) (g : Gang) (f : KFields) (c : Nat), Issues s t g → g.core = some c →
    let i := irrevocableWord f.h
    (g.xb = true → exec (.racq f) s = .next (s.completed t i)) ∧
    (g.xb = false → used s c < 8 → (∀ u ∈ s.streams, u.wait ≠ .racq) →
      ∃ v, (∀ r, r < 64 → vget v r zeroV = if r < 32 then vget g.v r zeroV else zeroV) ∧
        exec (.racq f) s = .next ((s.withGang t g fun g => { g with xb := true, blockCore := none, v := v }).completed t i)) ∧
    (g.xb = true → ∃ v, (∀ r, r < 64 → vget v r zeroV = if r < 32 then vget g.v r zeroV else zeroV) ∧
      exec (.rrel f) s = .next ((s.withGang t g fun g => { g with xb := false, v := v }).completed t i)) ∧
    (g.xb = false → exec (.rrel f) s = .next (s.completed t i))) ∧
  (∀ (s : State) (t : Stream) (g : Gang) (c : Nat), t ∈ s.streams → t.homes = [g.idx] → t.wait = .racq →
    s.gang? t.launch g.idx = some g → g.xb = false → g.core = some c → used s c < 8 → (∀ u ∈ s.streams, u.wait = .racq → u = t) →
    ∃ s' g', exec (.extendedBlockGrant c) s = .next s' ∧ s'.gang? t.launch g.idx = some g' ∧
      g' = { g with xb := true, blockCore := none, v := g'.v } ∧
      (∀ r, r < 64 → vget g'.v r zeroV = if r < 32 then vget g.v r zeroV else zeroV) ∧
      (∃ u ∈ s'.streams, u = { t with wait := .none }) ∧ s' = { s with gangs := s'.gangs, streams := s'.streams }) ∧
  (∀ (s : State) (t : Stream) (g : Gang) (x : Launch), Issues s t g → TrapReady s t g x → g.xb = false →
    let traps := fun (i : Instr) (regs : List Nat) => ∀ r ∈ regs, 32 ≤ r → (∀ r' ∈ regs, 32 ≤ r' → r ≤ r') →
      ∃ s', exec i s = .next s' ∧ TrapTaken s t g x 0x07 (BitVec.ofNat 64 r) t.pc s'
    (∀ i op p f len short, VRForm i op p f len short → traps i (vectorRegs op p f)) ∧
    (∀ f : MFields, traps (.ld f) (memoryRegs f (f.w = 4)) ∧ traps (.lds f) (memoryRegs f (f.w = 4)) ∧
      traps (.st f) (memoryRegs f (f.w = 4)) ∧ traps (.sts f) (memoryRegs f (f.w = 4)) ∧ traps (.atom f) (memoryRegs f (f.w = 7)) ∧
      traps (.atomx f) (memoryRegs f (f.w = 7)) ∧ traps (.zero f) (if f.mode = 2 then [] else [f.b.toNat])) ∧
    (∀ f : KFields, (∀ i ∈ [Instr.cpyCopy f, .cpyQuant f, .cpyDec f, .cpyRed f, .cpyFill f, .pkt f], traps i [f.b.toNat]) ∧
      ∀ i ∈ [Instr.xput f, .xget f, .xatom f], traps i [f.a.toNat, f.a.toNat + 1, f.b.toNat]) ∧
    (∀ f : XFields, Whole t g → traps (.mmas f) [f.aux.toNat]))

/-- RESIZE (R156): the splice has the size asked for, a multiple of 256 bytes, its lower bytes unchanged and the others zero; or the old
size stands, where the core has no room. sD has the size. -/
def Obligations.ResizeScratchpad : Prop :=
  ∀ (s : State) (t : Stream) (g : Gang) (f : KFields) (c : Nat) (sp : Splice), Issues s t g → Calm s → g.core = some c →
    s.splice? t.launch (s.spliceOf t.launch g.idx) = some sp → sp.core = some c → s.coreCmds = [] → s.locks = [] →
    (∀ h ∈ s.gangs, h.sb = []) → sp.scratch.wf = true → sp.badBlocks = [] →
    let n := ((vget g.s f.a.toNat 0).toNat + 255) / 256 * 256
    let used := ((s.splices.filter fun x => x.core == some c).map (·.size)).sum
    let gives := fun (u : State) (n : Nat) =>
      (u.withGang t g fun g => g.gets (writingOf s t g) t f.d.toNat (BitVec.ofNat 64 n)).completed t (irrevocableWord f.h)
    (737280 < n ∨ 737280 < used - sp.size + n → exec (.resize f) s = .next (gives s sp.size)) ∧
    (n ≤ 737280 → used - sp.size + n ≤ 737280 → (∀ a, sp.size ≤ a → sp.scratch.get a = 0) →
      ∃ (m : Memory) (s1 : State), (∀ a, m.get a = if a < n then sp.scratch.get a else 0) ∧ Cached s s1 ∧
        let room := { sp with size := n, scratch := m, badBlocks := [] }
        exec (.resize f) s = .next (gives (s1.updSplice t.launch sp.idx fun _ => room) n))

/-- QPUSH, QPOP, QTRY and QLEN (R302) on a usable queue: a record goes in behind the others, or to the pop that waits longest, which then
completes with it; the foremost comes out; the count is what the queue holds. A full queue faults; HW_QUEUE_IDLE_UNMAP and RUN_LIST_TURN
(R301) unmap and map. -/
def Obligations.HardwareQueues : Prop :=
  (∀ (s : State) (t : Stream) (g : Gang) (f : KFields) (pa : Nat) (q : HwQueue), Issues s t g → Calm s →
    QueueAt s t g (handleOf g f) pa q →
    let S := fun k => vget g.s (f.d.toNat + k) 0
    let d := f.d.toNat
    let i := knotIssue f.h
    let wr := writingOf s t g
    let holds := fun (u : State) (rs : List HwRecord) =>
      u.updHwq q.pasid q.desc fun _ => { q with lastUse := s.ticks, records := rs }
    let ends := fun (w : Instr) (rs : List HwRecord) (upd : Gang → Gang) => ∃ s1, Cached s s1 ∧
      exec w s = .next (((holds s1 rs).withGang t g upd).completed t i)
    let r : HwRecord := { key := S 0, pay := (S 1, S 2, S 3), order := s.seq }
    let waitsHere := fun (u : Stream) (n : Nat) => u ∈ s.streams ∧ s.pasidOf u.launch = q.pasid ∧ u.wait = .qpop q.desc n
    (d % 4 = 0 → (∀ u n, ¬ waitsHere u n) → q.records.length < 2 ^ q.logcap → ends (.qpush f) (q.records ++ [r]) id) ∧
    (d % 4 = 0 → (∀ u n, ¬ waitsHere u n) → 2 ^ q.logcap ≤ q.records.length → ∀ x, TrapReady s t g x →
      ∃ s', exec (.qpush f) s = .next s' ∧
        TrapTaken s t g x 0x0C (BitVec.ofNat 64 (10 * 2 ^ 58 + (handleOf g f).toNat % 2 ^ 55)) t.pc s') ∧
    (d % 4 = 0 → ∀ u n, waitsHere u n → s.stream? u.sid = some u → (∀ u' n', waitsHere u' n' → u' ≠ u → n < n') →
      ∃ s1, Cached s s1 ∧ exec (.qpush f) s = .next (((holds s1 q.records).updStream u.sid fun u =>
        { u with wait := .none, popped := some r }).completed t i)) ∧
    (d % 4 = 0 → t.popped = none → ∀ r, Foremost q r → ends (.qpop f) (q.records.erase r) fun g => g.getsRecord wr t d r) ∧
    (d % 4 = 0 → ∀ r : HwRecord, t.popped = some r →
      exec (.qpop f) s = .next ((s.withGang t g fun g => g.getsRecord wr t d r).completed t i)) ∧
    (d % 4 = 0 → t.popped = none → q.records = [] → ∃ s1, Cached s s1 ∧
      exec (.qpop f) s = .next ({ holds s1 [] with seq := s.seq + 1 }.waits t (.qpop q.desc s.seq))) ∧
    (d % 4 = 0 → ∀ r, Foremost q r → ∃ g', ends (.qtry f) (q.records.erase r) (fun _ => g') ∧
      g' = { g with s := g'.s, pending := g'.pending, races := g'.races } ∧
      ((∀ k, k < 4 → f.b.toNat ≠ d + k) → g' = (g.getsRecord wr t d r).gets wr t f.b.toNat 1)) ∧
    (d % 4 = 0 → q.records = [] → ends (.qtry f) [] fun g => g.gets wr t f.b.toNat 0) ∧
    ends (.qlen f) q.records fun g => g.gets wr t d (BitVec.ofNat 64 q.records.length)) ∧
  (∀ (s : State) (q : HwQueue) (r : HwRecord) (x : Xlat), s.hwq? q.pasid q.desc = some q → q.mapped = true → Calm s →
    (vget s.io.hqctl q.home 0).getLsbD 63 = true → q.records = [r] → q.spill % 64 = 0 → q.spill < 2 ^ 64 →
    s.engineAccess q.pasid (BitVec.ofNat 64 q.spill) .store = .ok (s, x) → x.kind < 2 →
    ∃ s1, CachedWith s (s.mem.write x.pa r.bytes) s1 ∧
      exec (.hwQueueIdleUnmap q.pasid q.desc) s = .next (s1.updHwq q.pasid q.desc fun _ => { q with mapped := false })) ∧
  (∀ (s : State) (q : HwQueue), s.hwqs = [q] → q.mapped = false → q.home < 2 → (vget s.io.hqctl q.home 0).getLsbD 63 = false →
    vget s.fw.runLists q.home [] = [] → (∀ c ∈ s.counters, c.control.getLsbD 60 = false) →
    exec (.runListTurn q.home) s = .next
      { s with
        hwqs := [{ q with mapped := true, lastUse := s.ticks }]
        streams := s.streams.map fun t =>
          if t.wait = .hwqMap q.desc ∧ s.pasidOf t.launch = q.pasid then { t with wait := .none } else t
        fw := { s.fw with runLists := vset s.fw.runLists q.home [q.pasid] } })

/-- SPAWN (R298): the launch has n gangs more and sD the first of them; CPY and PKT (R150): the packet is in the core's queue, or in a
slot of the memory queue that its header claims, whose doorbell moves. -/
def Obligations.SpawnAndSubmit : Prop :=
  (∀ (s : State) (t : Stream) (g : Gang) (x : Launch) (f : KFields), Issues s t g → s.launch? t.launch = some x → 0 < x.spl →
    let n := (vget g.s f.a.toNat 0).toNat
    let fails := fun (r : Nat) => TrapReady s t g x → ∃ s', exec (.spawn f) s = .next s' ∧
      TrapTaken s t g x 0x0C (BitVec.ofNat 64 (r * 2 ^ 58)) t.pc s'
    (n = 0 ∨ 65536 < n ∨ n % x.spl ≠ 0 → fails 12) ∧
    (0 < n → n ≤ 65536 → n % x.spl = 0 →
      (2 ^ 32 ≤ x.gangs + n ∨ x.aborting = true → fails 13) ∧
      (x.gangs + n < 2 ^ 32 → x.aborting = false →
        let more := { x with gangs := x.gangs + n
                             spawns := x.spawns ++ [{ first := x.gangs, count := n, s0 := vget g.s f.b.toNat 0, tick := s.ticks }] }
        exec (.spawn f) s = .next (((s.updLaunch t.launch fun _ => more).withGang t g fun g =>
          g.gets (writingOf s t g) t f.d.toNat (BitVec.ofNat 64 x.gangs)).completed t (knotIssue f.h))))) ∧
  (∀ (s : State) (t : Stream) (g : Gang) (f : KFields) (c : Nat), Issues s t g → Held g [f.b.toNat] → g.core = some c → t.claim = none →
    t.operands = [] →
    let v := vget g.v f.b.toNat zeroV
    let h := handleOf g f
    let i := irrevocableWord f.h
    ∀ w ∈ [(Instr.cpyCopy f, some 1), (.cpyQuant f, some 2), (.cpyDec f, some 3), (.cpyRed f, some 4), (.cpyFill f, some 5), (.pkt f, none)],
      let pkt := submitted w.2 v
      let sp := s.spliceOf t.launch g.idx
      let size := ((s.splice? t.launch sp).map (·.size)).getD 0
      let gives := fun (u : State) (n : Nat) =>
        (u.withGang t g fun g => g.gets (writingOf s t g) t f.d.toNat (BitVec.ofNat 64 n)).completed t i
      (h = 0 → 1 ≤ pktClass pkt → pktClass pkt ≤ 5 → copyReason true pkt = none → scratchRangeBad size pkt = none →
        EntryFree s t g .copy →
        let cmd : CoreCmd :=
          { seq := s.seq, asked := false, core := c, launch := t.launch, gang := g.idx, splice := sp, pasid := s.pasidOf t.launch
            work := PacketWork.fresh s.seq pkt }
        let queued := { s with coreCmds := s.coreCmds ++ [cmd], seq := s.seq + 1 }.lockCopy t.launch sp s.seq pkt 0 []
        exec w.1 s = .next (gives queued 0)) ∧
      (∀ pa slotPa, h ≠ 0 → Calm s → s.handleAccess g.core (s.pasidOf t.launch) h 64 = .ok (s, pa) →
        s.headerReason (s.pasidOf t.launch) (pktClass pkt) pa = none →
        let log := s.mem.nat (pa + 16) 4
        let n := (s.mem.word pa).toNat
        s.handleAccess g.core (s.pasidOf t.launch) (h + BitVec.ofNat 64 (64 + 64 * (n % 2 ^ log))) 64 = .ok (s, slotPa) →
        slotPa + 64 ≤ pa ∨ pa + 64 ≤ slotPa → n < (s.mem.word (pa + 8)).toNat % 2 ^ 63 + 2 ^ log →
        ∃ s1, CachedWith s ((s.mem.write pa (leBytes 8 (n + 1))).write slotPa (packetBytes pkt)) s1 ∧
          exec w.1 s = .next
            (gives (s1.doorbellWrite (s.mem.nat (pa + 24) 8) 8 (s.pasidOf t.launch) (BitVec.ofNat 64 (n + 1))) n)))

/-- XPUT, XGET and XATOM (R231 to R233): the command is under way with a lane for each active lane. HFIRE fires the bucket's next round,
gives a round that a deadline began its trigger, or faults with the lowest reason (R240, R245); HSTAT reads the plan's state (R240). -/
def Obligations.NetworkWords : Prop :=
  (∀ (s : State) (t : Stream) (g : Gang) (f : KFields) (pa : Nat), Issues s t g →
    Held g [f.a.toNat, f.a.toNat + 1, f.b.toNat] → let sa := vget g.s f.d.toNat 0
    s.stampCheck g.core (s.pasidOf t.launch) sa = .ok (s, pa) →
    let V := fun r l => lane (vget g.v r zeroV) l
    ∀ w ∈ [(Instr.xput f, 0), (.xget f, 1), (.xatom f, 2)], (∀ l ∈ lanesIn t, laneWordBad w.2 sa (V f.b.toNat l) = false) →
      let lanes : List XLane := (lanesIn t).map fun l =>
        let x := V f.b.toNat l
        { lane := l, peer := (x.extractLsb' 0 14).toNat, len := (x.extractLsb' 32 16).toNat, laddr := V f.a.toNat l
          taddr := V (f.a.toNat + 1) l, db := x.getLsbD 18, ret := x.getLsbD 17
          opa := if w.2 = 2 then (x.extractLsb' 14 3).toNat else 0, phase := .ready, parked := false }
      let cmd : XCmd :=
        { seq := s.seq, sid := t.sid, sids := [t.sid], launch := t.launch, gang := g.idx, pasid := s.pasidOf t.launch, op := w.2
          lanes := lanes, sa := sa, sv := vget g.s (f.d + 1).toNat 0, err := false, parked := false }
      exec w.1 s = .next ({ s with seq := s.seq + 1, xcmds := s.xcmds ++ [cmd] }.completed t (irrevocableWord f.h))) ∧
  (∀ (s : State) (t : Stream) (g : Gang) (f : KFields), Issues s t g →
    let a := vget g.s f.a.toNat 0
    let pasid := s.pasidOf t.launch
    let i : Issue := { len := 4, hold := f.h, irrevocable := true, spinOk := false }
    let fails := fun (r : Nat) => ∀ x, TrapReady s t g x → ∃ s', exec (.hfire f) s = .next s' ∧
      TrapTaken s t g x 0x0E (BitVec.ofNat 64 r) t.pc s'
    let h := a.toNat / 2 ^ 32
    let n := a.toNat / 2 ^ 16 % 2 ^ 16
    let clear := a.toNat / 2 % 2 ^ 15 = 0
    (s.livePlan pasid h = none → fails 16) ∧
    (∀ p, s.livePlan pasid h = some p →
      (p.bucket? n = none → fails 17) ∧
      (∀ b, p.bucket? n = some b →
        let open' := b.inFlight = true ∧ b.owed = 0
        let now := b.inFlight = true ∧ b.own = false ∧ b.owed = 1
        (open' → fails 18) ∧ (¬ open' → ¬ clear → fails 19) ∧ (¬ open' → clear → p.err = true → fails 20) ∧
        let fired := fun (v : State) (b' : Bucket) => exec (.hfire f) s = .next (v.completed t i) ∧ v.gangs = s.gangs ∧ v.mem.wf = s.mem.wf ∧
          v.streams.map Stream.unnoted = s.streams.map Stream.unnoted ∧ (v.plan? h).bind (·.bucket? n) = some b'
        (0 < b.owed → clear → p.err = false → Calm s → ∃ v b', fired v b' ∧ b'.owed = b.owed - 1 ∧
          b'.own = (b.own || decide now) ∧ b'.late = b.late + (if now ∧ b.recorded = false then 1 else 0) ∧ b'.fires = b.fires ∧
          b'.inFlight = b.inFlight) ∧
        (b.inFlight = false → b.owed = 0 → clear → p.err = false → Calm s → b.held = [] → ∃ v b', fired v b' ∧
          b' = { b with fires := b.fires + 1, inFlight := true, order := s.seq, intr := a.getLsbD 0, own := true, contribs := b'.contribs
                        late := 0, reason := b'.reason, parked := b'.parked, expired := [], written := [], recorded := false } ∧
          ∀ (buf : HalyardBuffer) (data : Nat → List Byte), s.bufferOf p n = some buf →
            (∀ j, j < 8 → s.engineRead p.pasid (BitVec.ofNat 64 (buf.slices.getD j 0)) (buf.len * (buf.format.width / 8)) = .ok s (data j)) →
            b'.reason = 0 ∧ b'.parked = false ∧ b'.contribs = (List.range 8).map fun j =>
              { rank := p.rank, slice := j, elems := some (elemsOf (buf.format.width / 8) (data j)) }))) ∧
    (let k := a.toNat % 2 ^ 32
     let gives := fun (n : Nat) =>
      exec (.hstat f) s = .next ((s.withGang t g fun g => g.gets (writingOf s t g) t f.d.toNat (BitVec.ofNat 64 n)).completed t i)
     (s.livePlan pasid k = none → gives 0) ∧
     (∀ p, s.livePlan pasid k = some p →
      gives (2 ^ 63 + (if p.err then 2 ^ 62 else 0) + (p.buckets.countP (·.inFlight)) * 2 ^ 32 + p.done))))

/-- CKMARK, CKTAKE, CKROLL and CKDROP (R312, R315 to R317): the region's new entry, its log's header and sD's status. CKROLL_COMPLETE
opens the next epoch of a region that logged nothing. That CKMARK answers 3 for an armed or full region and 5 for a rolling one whatever
other status applies is the model's reading (log 30). -/
def Obligations.RegionWords : Prop :=
  ∀ (s : State) (t : Stream) (g : Gang) (x : Launch) (f : KFields), Issues s t g → s.launch? t.launch = some x → s.guest.owned = [] →
    let S := fun (r : BitVec 6) => (vget g.s r.toNat 0).toNat
    let i := knotIssue f.h
    let d := f.d.toNat
    let gets := fun (g : Gang) (n : Nat) => g.gets (writingOf s t g) t d (BitVec.ofNat 64 n)
    let answers := fun (w : Instr) (status : Nat) =>
      exec w s = .next ((s.withGang t g fun g => gets g status).completed t i)
    let becomes := fun (w : Instr) (n : Nat) (r : Region) => ∃ s' : State,
      exec w s = .next (s'.completed t i) ∧ s'.launch? t.launch = some { x with regions := vset x.regions n r } ∧
      s'.gang? t.launch g.idx = some (gets g 0) ∧ s'.streams.map Stream.unnoted = s.streams.map Stream.unnoted ∧
      (r.state = .unmarked → s'.mem = s.mem) ∧
      ∀ pa, r.log % 64 = 0 → r.paOf r.log = some pa → s'.mem = s.mem.write pa
        (leBytes 8 (match r.state with
          | .armed => 1
          | .full => 2
          | .rolling => 3
          | _ => 0) ++ leBytes 8 r.count ++ leBytes 8 r.epoch ++ leBytes 8 r.cap ++ leBytes 32 0)
    let quiet := ∀ h ∈ s.gangs, h.sig = []
    (let n := S f.d
     (16 ≤ n → answers (.ckmark f) 1) ∧
     (n < 16 → (x.region n).state = .armed ∨ (x.region n).state = .full → answers (.ckmark f) 3) ∧
     (n < 16 → (x.region n).state = .rolling → answers (.ckmark f) 5) ∧
     (n < 16 → (x.region n).state = .unmarked ∨ (x.region n).state = .marked →
      (S (f.a + 1) = 0 → becomes (.ckmark f) n Region.unmarked) ∧
      (∀ xs ys, quiet → 0 < S (f.a + 1) → S f.a % 64 = 0 → S (f.a + 1) % 64 = 0 → S (f.a + 1) ≤ 2 ^ 30 → S f.b % 64 = 0 →
        192 ≤ S (f.b + 1) → (S (f.b + 1) - 64) % 128 = 0 → S (f.b + 1) ≤ 2 ^ 26 →
        s.regionPages x.pasid (pagesOf (S f.a) (S (f.a + 1))) = .ok xs →
        s.regionPages x.pasid (pagesOf (S f.b) (S (f.b + 1))) = .ok ys →
        x.rangesBad n (S f.a) (S (f.a + 1)) (S f.b) (S (f.b + 1)) = false → (∀ y ∈ xs ++ ys, y.2.leaf ||| 0x600 = y.2.leaf) →
        becomes (.ckmark f) n
          { Region.unmarked with
            state := .marked, base := S f.a, len := S (f.a + 1), log := S f.b, logLen := S (f.b + 1), cap := (S (f.b + 1) - 64) / 128
            pages := (xs ++ ys).map fun y => (y.1, y.2.pa / 65536) }))) ∧
    (let n := S f.a
     let r := x.region n
     (16 ≤ n → answers (.cktake f) 1 ∧ answers (.ckroll f) 1 ∧ answers (.ckdrop f) 1) ∧
     (n < 16 →
      (r.state = .unmarked → answers (.cktake f) 2 ∧ answers (.ckroll f) 2 ∧ answers (.ckdrop f) 2) ∧
      (r.state = .rolling → answers (.cktake f) 5 ∧ answers (.ckroll f) 5 ∧ answers (.ckdrop f) 5) ∧
      (r.state = .armed ∨ r.state = .full → answers (.cktake f) 3 ∧
        (quiet → becomes (.ckdrop f) n { r with count := 0, state := .marked, logged := [] }) ∧
        (∀ pa, quiet → s.stampCheck g.core (s.pasidOf t.launch) (vget g.s f.b.toNat 0) = .ok (s, pa) →
          becomes (.ckroll f) n
            { r with state := .rolling, stampVa := vget g.s f.b.toNat 0, stampVal := vget g.s (f.b + 1).toNat 0, restored := false
                     parked := false })) ∧
      (r.state = .marked → answers (.ckroll f) 4 ∧ answers (.ckdrop f) 4 ∧ (r.stale = true → answers (.cktake f) 6) ∧
        (quiet → r.stale = false → becomes (.cktake f) n { r with epoch := r.epoch + 1, count := 0, state := .armed, logged := [] })) ∧
      (quiet → r.state = .rolling → r.parked = false → r.restored = false → r.stampVa = 0 → r.count = 0 → x.aborting = false →
        x.ended = false →
        let after := { r with state := if r.stale then .full else .armed, stale := false, epoch := r.epoch + 1, logged := [] }
        ∃ s', exec (.ckrollComplete t.launch n) s = .next s' ∧
          s'.launch? t.launch = some { x with regions := vset x.regions n after })))

/-- The matrix words (R207 to R224): a whole gang's command joins its core's queue, which has an entry for it, its rows locked and its maps
moved on; MWAIT ends when its batch has. -/
def Obligations.MatrixWords : Prop :=
  ∀ (s : State) (t : Stream) (g : Gang) (x : Launch) (f : XFields) (c : Nat) (sp : Splice), Issues s t g →
    s.launch? t.launch = some x →
    let a := mapOperand g f.am
    let b := mapOperand g f.bm
    let k := kOf a.fmt b.fmt
    let tile := f.c.toNat < x.tiles
    let sgOk := f.sg = true → sgFormat a.fmt = true ∨ sgFormat b.fmt = true
    let joins := fun (w : Instr) (batch : Nat) (op : MatOp) (bytes : List Nat) (upd : Gang → Gang) =>
      Queueable s t g c sp bytes → exec w s = .next (((s.queued t g c sp.idx batch op).withGang t g upd).completed t (matIssue f.h))
    let moves := fun (ka kb : Nat) (g : Gang) => { g with om := mapsAfter g.om f.am f.bm ka kb }
    let n := g.batch.toNat + 1
    (tile → MapOk g f.am mmaFormat → MapOk g f.bm mmaFormat → sgOk →
      joins (.mma f) n (.mma f.c.toNat f.clr f.sg a b) (a.reach a.cursor k ++ b.reach b.cursor k) (moves k k)) ∧
    (tile → MapOk g f.am mmaFormat → MapOk g f.bm mmaFormat → sgOk → (f.sub = 1 → k = 32) → (k = 128 → f.aux.toNat % 2 = 0) →
      Held g [f.aux.toNat] →
      joins (.mmas f) n (.mmas f.c.toNat f.clr f.sg (f.sub == 1) a b (vget g.v f.aux.toNat zeroV)
          (if k = 128 then vget g.v (f.aux.toNat + 1) zeroV else zeroV))
        (a.reach a.cursor k ++ b.reach b.cursor (2 * k)) (moves k (2 * k))) ∧
    (tile → MapOk g f.am (· == .tern) → MapOk g f.bm (fun y => y == .i8 || y == .u8) →
      joins (.mmat f) n (.mmat f.c.toNat f.clr a b) (a.reach a.cursor 256 ++ b.reach b.cursor 256) (moves 256 256)) ∧
    (tile → MapOk g f.am (· != .cb4) → joins (.accld f) n (.accld f.c.toNat a) (a.reach a.cursor 32) id) ∧
    (tile → joins (.accldZero f) n (.accldZero f.c.toNat) [] id) ∧
    (tile → MapOk g f.am (fun y => y != .cb4 && y != .tern) → joins (.accst f) n (.accst f.c.toNat a) a.storeReach id) ∧
    (let low := vget g.s f.aux.toNat 0
     let high := vget g.s (f.aux + 1).toNat 0
     omsetReason low high = none →
      joins (.omset f) n .omset [] fun g =>
        { g with om := vset g.om f.am.toNat { isSet := true, low := low, high := high, cursor := BitVec.ofNat 32 (high.toNat / 2 ^ 36 % 2 ^ 16) } }) ∧
    (joins (.mfence f) (g.batch + 1#64).toNat .mfence [] fun g =>
      { g with batch := g.batch + 1#64 }.gets (writingOf s t g) t f.aux.toNat (g.batch + 1#64)) ∧
    (Whole t g →
      (∀ m ∈ s.matCmds, m.launch = t.launch → m.gang = g.idx → m.op ≠ .mfence →
        min (vget g.s f.aux.toNat 0).toNat g.batch.toNat < m.batch) →
      exec (.mwait f) s = .next (s.completed t (matIssue f.h))) ∧
    (Whole t g → TrapReady s t g x →
      (x.tiles ≤ f.c.toNat → ∀ w ∈ [Instr.mma f, .mmat f, .accld f, .accldZero f, .accst f],
        ∃ s', exec w s = .next s' ∧ TrapTaken s t g x 8 (BitVec.ofNat 64 (f.c.toNat % 16)) t.pc s') ∧
      (tile → (vget g.om f.am.toNat { isSet := false, low := 0, high := 0, cursor := 0 }).isSet = false →
        ∀ w ∈ [Instr.mma f, .mmat f, .accld f, .accst f],
          ∃ s', exec w s = .next s' ∧ TrapTaken s t g x 9 (BitVec.ofNat 64 (f.am.toNat + 4 * 16)) t.pc s'))

/-- MATRIX_COMMAND_START and MATRIX_COMMAND_COMPLETE (R211, R213, R215, R221, R223), for a core with one command: it starts on rows and a
tile that no earlier one holds, and its gang's slot has had its turn; completing, it frees its rows. Of maps that are plain (`Plain`: no
scale bytes, neither transposed nor swizzled), every element of the tile is, for MMA, MMAS (the positions that its codes keep) and MMAT,
the dot product of R65 and R66 over the tile's element or 0; for ACCLD the map's element in f32 or i32 (R217); ACCLD of zero clears; ACCST
rounds each element into the map and changes no other byte (R219); MFENCE leaves with its batch. That a pruned position's product is +0
whatever B holds is the model's choice (log 51). -/
def Obligations.MatrixCommands : Prop :=
  ∀ (s : State) (g : Gang) (sp : Splice) (c : MatCmd), s.matCmds = [c] → s.gang? c.launch c.gang = some g →
    s.splice? c.launch c.splice = some sp →
    let done := { s with
      matCmds := [], locks := s.locks.filter fun k => k.seq != c.seq
      streams := s.streams.map fun u => if u.wait = .rowLock ∨ u.wait = .line ∨ u.wait = .mwait then { u with wait := .none } else u }
    (c.started = false → s.locks.all (fun k => c.seq ≤ k.seq) = true →
      exec (.matrixCommandStart c.core c.seq) s = .next
        { s with
          matCmds := [{ c with started := true }]
          matTurn := (c.core, (g.place.map (·.2)).getD 0) :: s.matTurn.filter fun y => y.1 != c.core }) ∧
    (c.started = true →
      (c.op = .mfence → exec (.matrixCommandComplete c.core c.seq) s = .next done) ∧
      (∀ n, c.op = .accldZero n → exec (.matrixCommandComplete c.core c.seq) s =
        .next (done.updGang c.launch c.gang fun g => { g with tiles := vset g.tiles n { kind := .f, words := Vector.replicate 1024 0 } })) ∧
      let zero : Tile := { kind := .f, words := Vector.replicate 1024 0 }
      let tile := fun (n : Nat) => vget g.tiles n zero
      let gives := fun (n : Nat) (kind : TileKind) (f : Nat → Nat → BitVec 32) => ∃ t : Tile,
        exec (.matrixCommandComplete c.core c.seq) s = .next (done.updGang c.launch c.gang fun g => { g with tiles := vset g.tiles n t }) ∧
        t.kind = kind ∧ ∀ i j, i < 32 → j < 32 → vget t.words (32 * i + j) 0 = f i j
      let start := fun (n : Nat) (clr : Bool) (i j : Nat) => vget (if clr then zero else tile n).words (32 * i + j) 0
      let elem := mapElem sp.scratch
      (∀ n clr sg a b, c.op = .mma n clr sg a b → Plain a → Plain b →
        let ints := intPath a.fmt b.fmt
        gives n (if ints then .i else .f) fun i j =>
          dotOf ints sg a.fmt b.fmt (kOf a.fmt b.fmt) (fun q => some (elem a i q)) (elem b j) (start n clr i j)) ∧
      (∀ n clr sg hi a b v v2, c.op = .mmas n clr sg hi a b v v2 → Plain a → Plain b →
        let ints := intPath a.fmt b.fmt
        let k := 2 * kOf a.fmt b.fmt
        gives n (if ints then .i else .f) fun i j =>
          dotOf ints sg a.fmt b.fmt k (keptElem (groupCode k hi v v2 i) (elem a i)) (elem b j) (start n clr i j)) ∧
      (∀ n clr a b, c.op = .mmat n clr a b → Plain a → Plain b →
        gives n .i fun i j => dotOf true false a.fmt b.fmt 256 (fun q => some (elem a i q)) (elem b j) (start n clr i j)) ∧
      (∀ n a, c.op = .accld n a → Plain a →
        gives n (if a.fmt.float.isSome then .f else .i) fun i j =>
          if a.fmt = .f32 then BitVec.ofNat 32 (elem a i j)
          else if a.fmt.float.isSome then BitVec.ofNat 32 (ffF32.encode .rne (mapValue a.fmt false (elem a i j) 127)).1
          else BitVec.ofInt 32 (intCode a.fmt false (elem a i j))) ∧
      (∀ n a, c.op = .accst n a → Plain a → a.fmt.width % 8 = 0 → 4 * a.fmt.width ≤ a.pitch → (∀ g ∈ s.gangs, g.sig = []) →
        ∃ (s' : State) (sp' : Splice), exec (.matrixCommandComplete c.core c.seq) s = .next s' ∧ s'.mem = s.mem ∧ s'.gangs = s.gangs ∧
          s'.splice? c.launch c.splice = some sp' ∧
          (∀ i j, i < 32 → j < 32 →
            let x := vget (tile n).words (32 * i + j) 0
            mapElem sp'.scratch a i j =
              (if (tile n).kind = .f ∧ a.fmt = .f32 ∨ (tile n).kind = .i ∧ a.fmt = .i32 then x.toNat
              else (quantElem a.fmt (if (tile n).kind = .f then ffF32.decode x.toNat else .ofInt x.toInt)).1) % 2 ^ a.fmt.width) ∧
          ∀ y, (∀ i, i < 32 → y < a.base + i * a.pitch + a.fmt.width / 8 * a.cursor ∨
              a.base + i * a.pitch + a.fmt.width / 8 * (a.cursor + 32) ≤ y) → sp'.scratch.get y = sp.scratch.get y))

/-- Firmware's commands (R342): each one's effect, its STATUS 1 and its place in MBSTAT; an OP that is not listed is refused with reason
16. The model's choices: the places of values in ARG (log 18); that 0x03 clears the valid byte of the slot it moves past (log 19); that the
image of 0x0C which runs out of memory gives STATUS 3, a capability fault (R344), and one that begins outside it reason 19 (log 28); that a
new OWNER in 0x12 clears the counter (log 52); the bytes that 0x10 copies (log 66). -/
def Obligations.MailboxCommands : Prop :=
  ∀ (s : State) (c : Mailbox),
    let pasid := s.mem.nat (c.recPA + 4) 4
    let v := fun i => s.arg c i
    let W := fun i => BitVec.ofNat 64 (s.arg c i)
    let valid := fun (p : Nat) => (s.context p).valid = true
    let ends := fun (i : Instr) (u : State) (status : Nat) => ∃ t, exec i s = .next t ∧ Cached (u.ends c status) t ∧ t.counters = u.counters
    let gives := fun (i : Instr) (u : State) => ends i u 1
    (∀ op, 0x13 < op → op < 2 ^ 16 → Submitted s c op →
      ends (.mailboxUnlistedOp c) { s with mem := s.mem.write (c.recPA + 16) (leBytes 2 16) } 2) ∧
    (∀ e, Submitted s c 0x01 → valid pasid → s.argBad pasid (W 0) 64 64 .load = false → engineOf (v 1) = some e → e ≠ .guest →
      let pa := s.paAt pasid (W 0)
      let log := s.mem.nat (pa + 16) 4
      let idx := s.mem.nat (pa + 8) 8
      s.headerBad pa (some e) = false → s.ringBad pasid (W 0) log = false → (∀ q ∈ s.queues, q.pasid ≠ pasid ∨ q.hdr ≠ v 0) →
      (∀ q ∈ s.queues, q.bound = false ∨ q.dboff ≠ s.mem.nat (pa + 24) 8) →
      gives (.registerMemoryQueue c)
        { s with queues := s.queues ++
          [{ pasid := pasid, hdr := v 0, hdrPa := pa, engine := e, log := log, cmask := s.mem.nat (pa + 20) 4, dboff := s.mem.nat (pa + 24) 8
             db := 0, bound := true, next := idx % 2 ^ 63, idx := idx % 2 ^ 63, err := decide (2 ^ 63 ≤ idx), errDue := false
             badSlot := none, begun := [] }] }) ∧
    (∀ q, Submitted s c 0x02 → valid pasid → s.argBad pasid (W 0) 64 64 .load = false → s.queue? pasid (v 0) = some q →
      let idle := q.begun = [] ∨ q.err = true ∧ q.errDue = false
      (idle → gives (.deregisterMemoryQueue c) { s with queues := s.queues.filter fun y => !(y.pasid == pasid && y.hdr == v 0) }) ∧
      (¬ idle → exec (.deregisterMemoryQueue c) s = .next
        { s.updQueue pasid (v 0) (fun _ => { q with bound := false }) with fw := { s.fw with current := some c } })) ∧
    (∀ q u t, Submitted s c 0x03 → valid pasid → s.argBad pasid (W 0) 64 64 .load = false → s.queue? pasid (v 0) = some q → q.err = true →
      q.errDue = false →
      let idx := (q.badSlot.map (· + 1)).getD q.idx
      let kept := q.begun.filter fun w => decide (idx ≤ w.slot) && !(w.done && w.rejected.isSome)
      (match q.badSlot with
        | some k => s.queueWrite q (q.slotVa k + 1#64) [0] = .ok u ()
        | none => u = s) →
      u.queueWrite q q.ridxVa (wordBytes (ridxOf false idx)) = .ok t () →
      ∃ s', exec (.clearQueueError c) s = .next s' ∧
        s'.queue? pasid (v 0) =
          some { q with err := false, badSlot := none, idx := idx, next := if kept = [] then idx else q.next, begun := kept } ∧
        s'.fw = { s.fw with completed := s.fw.completed + 1 }) ∧
    (Submitted s c 0x04 → valid pasid → canonical (W 0) = true → s.guestOn = false → s.guest.invalidation = none → s.out = [] →
      let base := v 0 % 2 ^ 55
      let inside := fun (p a n : Nat) => p == pasid && covers base (v 1) a n
      s.storesIn pasid base (v 1) true = false → (∀ t ∈ s.streams, t.wait = .none) →
      ∃ t, exec (.translationInvalidation c) s = .next t ∧
        Cached ({ s with
          ctlb := s.ctlb.filter fun e => !inside e.pasid (e.vpage * 65536) (e.pages * 65536)
          queues := s.queues.map fun (q : MemQueue) => if inside q.pasid q.hdr 64 then { q with hdrPa := s.paAt pasid (BitVec.ofNat 64 q.hdr) } else q
          ibuf := s.ibuf.filter fun x => !inside (s.pasidOf x.launch) x.va 64
          guest := { s.guest with
            atc := s.guest.atc.filter fun x => !(x.pasid == pasid && (v 1 == 0 || rangesMeet (x.page * 65536) 65536 base (v 1))) } }.ends
          c 1) t ∧
        t.tlb = s.tlb.filter (fun e => !inside e.pasid (e.vpage * 65536) (e.pages * 65536)) ∧
        ∀ e ∈ t.walkCache, inside e.pasid (e.index * 2 ^ (if e.level = 1 then 42 else 29)) (2 ^ (if e.level = 1 then 42 else 29)) = false) ∧
    (Submitted s c 0x05 → valid pasid → v 1 = 0 → s.argBad pasid (W 0) 64 64 .load = false →
      let pa := s.paAt pasid (W 0)
      s.descriptorRules pasid pa (W 0) = false → s.hwq? pasid (v 0) = none →
      gives (.hardwareQueueRegistration c)
        { s with hwqs := s.hwqs ++
          [{ pasid := pasid, desc := v 0, descPa := pa, home := (s.mem.get (pa + 20)).toNat % 2, logcap := s.mem.nat (pa + 16) 4
             spill := s.mem.nat (pa + 40) 8, records := [], mapped := false, lastUse := s.ticks }] }) ∧
    (∀ u bs, Submitted s c 0x06 → s.Inv → valid pasid → s.argBad pasid (W 0) 1 64 .load = false → s.engineRead pasid (W 0) 64 = .ok u bs →
      let ds := planDesc bs
      let ranks := s.readHalves pasid ds.rankVa (min ds.ndev 9216)
      let bufs := s.readHalves pasid ds.bktVa (min ds.nbkt 256)
      s.planBad pasid ds ranks bufs = false → s.plans.length < 4096 → s.pages.length < 16384 →
      s.reserved + s.reserveOf pasid (bufs.getD []) ≤ 8 * 2 ^ 20 → Config.switchPlaneFree s.planCount = true →
      ∃ (s' : State) (p : Plan), exec (.createHalyardPlan c) s = .next s' ∧ s'.plans = s.plans ++ [p] ∧ s'.planCount = s.planCount + 1 ∧
        p.pasid = pasid ∧ p.coll = numAt bs 0 1 ∧ p.alg = numAt bs 1 1 ∧ p.opr = numAt bs 2 1 ∧ p.root = numAt bs 8 2 ∧
        p.deadline = numAt bs 12 4 ∧ p.knot.toNat = numAt bs 32 8 ∧ p.recVa.toNat = numAt bs 40 8 ∧ p.maskVa.toNat = numAt bs 48 8 ∧
        some p.ranks = ranks ∧ some p.bufs = bufs ∧ p.err = false ∧ p.freed = false ∧ p.done = 0 ∧ (∀ q ∈ s.plans, q.index ≠ p.index) ∧
        (∃ y ∈ s'.pages, y.2 = pasid) ∧ (p.handle < 2 ^ 32 → s'.mem.nat (c.recPA + 16) 4 = p.handle) ∧
        s'.fw = { s.fw with completed := s.fw.completed + 1 }) ∧
    (∀ p, Submitted s c 0x07 → valid pasid → s.livePlan pasid (v 0 % 2 ^ 32) = some p →
      gives (.freeHalyardPlan c) (s.updPlan p.handle fun _ => { p with freed := true })) ∧
    (∀ u bs, Submitted s c 0x08 → valid pasid → s.argBad pasid (W 1) 1 128 .load = false → s.engineRead pasid (W 1) 128 = .ok u bs →
      v 0 < 4096 → (∀ p ∈ s.plans, p.pasid = pasid → p.freed = false → v 0 ∉ p.bufs) →
      numAt bs 65 1 = 1 → numAt bs 66 6 = 0 → numAt bs 76 52 = 0 → numAt bs 64 1 ∈ [1, 2, 3, 4, 10] → 1 ≤ numAt bs 72 4 →
      numAt bs 72 4 ≤ 2 ^ 26 →
      let b : HalyardBuffer := { pasid := pasid, n := v 0, fmt := numAt bs 64 1, len := numAt bs 72 4
                                 slices := (List.range 8).map fun i => numAt bs (8 * i) 8 }
      (∀ i, i < 8 → s.sliceBad pasid i (numAt bs (8 * i) 8) b.sliceBytes = false) →
      gives (.writeBufferTableEntry c) { s with buffers := b :: s.buffers.filter fun y => !(y.pasid == pasid && y.n == v 0) }) ∧
    (∀ u bs, Submitted s c 0x09 → valid pasid → s.argBad pasid (W 1) 1 32 .load = false → s.engineRead pasid (W 1) 32 = .ok u bs →
      v 0 < 1024 → numAt bs 0 4 ∈ [1, 3, 5] → numAt bs 4 1 < 16 → numAt bs 5 1 = 0 → numAt bs 6 2 < 2 ^ 14 → numAt bs 8 4 < 2 ^ 20 →
      numAt bs 12 4 < 2 ^ 20 → numAt bs 16 8 < numAt bs 24 8 → (∀ y ∈ s.imports, y.n = v 0) →
      let e : ImportEntry := { n := v 0, dev := numAt bs 6 2, spasid := numAt bs 8 4, tpasid := numAt bs 12 4
                               type := if numAt bs 0 4 = 1 then .physical else if numAt bs 0 4 = 3 then .virtual else .doorbell
                               perm := BitVec.ofNat 4 (numAt bs 4 1), base := numAt bs 16 8, limit := numAt bs 24 8 }
      gives (.writeFabricImportEntry c) { s with imports := [e] }) ∧
    (Submitted s c 0x0A → valid pasid → v 0 < 16 → (W 4).getLsbD 63 = false →
      let r := vget s.io.fw (v 0) FormatWindow.zero
      r.ctl.getLsbD 63 = false →
      let put : FormatWindow := { enc := keep (W 1) [(55, 6)], scale := keep (W 2) [(55, 6)], aliasBase := keep (W 3) [(55, 16)]
                                  ctl := keep (W 4) [(44, 40), (36, 32), (31, 0)] ||| (r.ctl &&& 0x4000000000000000#64) }
      gives (.setFormatWindow c) { s with io := { s.io with fw := vset s.io.fw (v 0) put } }) ∧
    (Submitted s c 0x0B → v 0 < 2 ^ 20 → v 1 % 64 = 0 → v 1 < 2 ^ 56 → paRange s.memMap (v 1) ≠ .unassigned →
      let bs := s.mem.read (v 1) 64
      numAt bs 0 1 < 2 → numAt bs 1 7 = 0 → numAt bs 16 1 < 16 → numAt bs 17 7 = 0 → numAt bs 48 16 = 0 →
      gives (.writePasidContext c) { s with mem := s.mem.write (s.contextPa (v 0)) bs }) ∧
    (Submitted s c 0x0C → valid pasid →
      let last := s.inMemory (v 0 + (v 1 - 1))
      (v 0 < 2 ^ 56 → s.inMemory (v 0) = true →
        (last = true → gives (.stageFirmwareImage c) { s with fw := { s.fw with staged := some (s.mem.read (v 0) (v 1)) } }) ∧
        (last = false → ends (.stageFirmwareImage c) s 3)) ∧
      (s.inMemory (v 0) = false → ends (.stageFirmwareImage c) { s with mem := s.mem.write (c.recPA + 16) (leBytes 2 19) } 2)) ∧
    (Submitted s c 0x0D → valid pasid → s.fw.fuse ≤ v 0 → v 0 ≤ s.fw.svn →
      gives (.commitSecurityVersion c) { s with fw := { s.fw with fuse := v 0 } }) ∧
    (Submitted s c 0x0E → valid (v 0) → s.inDevice (v 1) (v 2) = true → s.guestOn = true →
      exec (.preemptGuest c) s = .next
        { s with guest := { s.guest with save := some (v 0, v 1, v 2), messages := s.guest.messages ++ [.save (v 0) (v 1) (v 2)] }
                 fw := { s.fw with current := some c } }) ∧
    (Submitted s c 0x0F → valid (v 0) → s.guestOn = true → v 0 ∈ s.guest.paused →
      gives (.reloadGuest c)
        { s with guest := { s.guest with paused := s.guest.paused.filter (· != v 0)
                                         messages := s.guest.messages ++ [.reload (v 0) (v 1) (v 2)] } }) ∧
    (Submitted s c 0x10 → valid pasid → paRange s.memMap (v 0) = .host → paRange s.memMap (v 0 + 16383) = .host →
      gives (.copyGuestIdentity c)
        { s with mem := s.mem.write (v 0) ((List.range 16383).map (fun i => s.guest.chain.getD i 0) ++
          [if s.guest.identityOk then 1 else 0]) }) ∧
    (∀ o sid info, Submitted s c 0x11 → valid pasid → s.openFaults.find? (fun o => o.seq.toNat == s.mem.nat (c.recPA + 16) 4) = some o →
      o.record.pasid = pasid → s.mem.nat (c.recPA + 20) 4 = 0 → s.mem.nat (c.recPA + 24) 8 = 0 → s.mem.nat (c.recPA + 40) 24 = 0 →
      o.target = .stream sid info →
      gives (.resolveFaultRecord c)
        { s with
          streams := s.streams.map fun t => if t.wait = .fault o.serial then { t with wait := .none } else t
          openFaults := s.openFaults.filter fun y => y.seq != o.seq
          io := { s.io with fresume := o.seq.setWidth 64 } }) ∧
    (let bank := s.mem.nat (c.recPA + 16) 2
     let n := s.mem.nat (c.recPA + 18) 1
     let x := W 1
     let k := s.counter bank n
     let fields := keep x [(63, 62), (60, 60), (51, 32), (15, 0)]
     Submitted s c 0x12 → valid pasid → n < bankSize bank → x.toNat % 2 ^ 16 ∈ [0x1, 0x2, 0x3, 0x4, 0x5, 0x10, 0x11, 0x20, 0x21, 0x30] →
      gives (.writeCounterControl c) (s.setCounter
        (if x.toNat / 2 ^ 32 % 2 ^ 20 = k.control.toNat / 2 ^ 32 % 2 ^ 20 then
          { k with control := fields ||| (k.control &&& 0x2000000000000000#64), saveVa := W 2 }
        else { k with control := fields, saveVa := W 2, value := 0, snap := 0 }))) ∧
    (Submitted s c 0x13 → valid pasid → v 0 < 16 → s.partBad (v 0) (W 1) = false → s.partUsed (v 0) = false →
      gives (.writePartitionConfig c)
        { s with io := { s.io with partcfg := vset s.io.partcfg (v 0) (keep (W 1) [(63, 63), (55, 0)]) } })

/-- Stores to the registers of the I/O range (R72, R91, R95, R96, R226, R246, R286, R295, R301, R324, R351, R366, R369, R379):
firmware's take effect where the value is one that the rule allows; another agent's are ignored and counted. The model's choices: that only
firmware writes L2MRG (log 52); that a refused enable of a window still writes its fields, and the order in which a window closes (log 25);
that POWCTL raises the clock to FMIN at once (log 20); that GSCTL.EN needs the guest's identity (log 24). -/
def Obligations.RegisterWrites : Prop :=
  (∀ (s : State) (ag : IoAgent) (v : Word) (n : Nat), ag ≠ .firmware →
    ∀ i ∈ [Instr.memcarveWrite ag v, .l2mrgWrite ag n v, .fwCtlEnable ag n v, .fwCtlDisable ag n v, .qpoolWrite ag n v, .harbWrite ag n v,
        .ruqWrite ag n v, .schctlWrite ag n v, .hqctlWrite ag n v, .fqctlWrite ag v, .fresumeRetry ag v, .fresumeFail ag v,
        .wdctlWrite ag n v, .gsctlWrite ag v, .powctlWrite ag v, .snapctlArm ag v],
      exec i s = .next (s.countHub (ioPasid ag))) ∧
  (∀ (s : State) (ag : IoAgent) (v : Word) (pa b k : Nat), pa % 8 = 0 →
    (∀ r, ioPlace pa = .reg r → ag ≠ .firmware → (∀ i j, r ≠ .value i j ∧ r ≠ .snapshot i j) →
      exec (.registerWrite ag pa v) s = .next (s.countHub (ioPasid ag))) ∧
    (ioPlace pa = .reg (.snapshot b k) ∨ ag = .firmware ∧ (ioPlace pa = .reg (.control b k) ∨ ioPlace pa = .reg (.partcfg k)) →
      exec (.registerWrite ag pa v) s = .next s.countHub) ∧
    (ioPlace pa = .reg (.value b k) → exec (.registerWrite ag pa v) s = exec (.counterValueStore ag (ioPasid ag) b k v) s)) ∧
  (∀ (s : State) (v : Word) (n : Nat),
    let V := v.toNat
    let F := fun hi lo => V / 2 ^ lo % 2 ^ (hi + 1 - lo)
    let gives := fun (i : Instr) (io : IoRegs) => exec i s = .next { s with io := io }
    let refuses := fun (i : Instr) => exec i s = .next s.countHub
    (∀ pa, pa % 8 = 0 → ioPlace pa = .reg .ctxbase → gives (.registerWrite .firmware pa v) { s.io with ctxbase := keep v [(55, 12)] }) ∧
    (if s.io.memcarve.getLsbD 63 = true ∨ 64 < F 6 0 then exec (.memcarveWrite .firmware v) s = .next s
      else gives (.memcarveWrite .firmware v) { s.io with memcarve := keep v [(63, 63), (6, 0)] }) ∧
    gives (.l2mrgWrite .firmware n v) { s.io with l2mrg := vset s.io.l2mrg n (v.setWidth 8) } ∧
    (let r := vget s.io.fw n FormatWindow.zero
     let fields := keep v [(44, 40), (36, 32), (31, 0)]
     let put := fun (c : Word) => { s.io with fw := vset s.io.fw n { r with ctl := c } }
     let owned := fun (w : Win) (pa : Nat) => decide (w.base ≤ pa) && decide (pa < w.base + w.blockBytes * w.blocks)
     (r.ctl.getLsbD 63 = false →
      (s.windowBad n { r with ctl := fields } = false → gives (.fwCtlEnable .firmware n v) (put (fields ||| 0x8000000000000000#64))) ∧
      (s.windowBad n { r with ctl := fields } = true → gives (.fwCtlEnable .firmware n v) (put (fields ||| 0x4000000000000000#64))) ∧
      gives (.fwCtlDisable .firmware n v) (put (fields ||| (r.ctl &&& 0x4000000000000000#64)))) ∧
     (r.ctl.getLsbD 63 = true → exec (.fwCtlEnable .firmware n v) s = .next s ∧
      ∀ w, s.windows.find? (·.n == n) = some w → (∀ g ∈ s.gangs, g.sb = [] ∧ g.sig = []) →
        exec (.fwCtlDisable .firmware n v) s = .next
          { s with
            aliasLines := s.aliasLines.filter (fun x => !owned w x.1), l1 := s.l1.filter (fun x => !owned w x.pa)
            l2 := s.l2.filter (fun x => !owned w x.pa)
            io := { put (r.ctl &&& 0x7FFFFFFFFFFFFFFF#64) with fwOff := s.io.fwOff.filter (· != n) } })) ∧
    (if F 7 0 ≤ F 15 8 ∧ F 23 16 ≤ F 31 24 ∧ F 39 32 ≤ F 47 40 ∧ 1 ≤ F 15 8 ∧ F 15 8 ≤ 64 ∧ 1 ≤ F 31 24 ∧ 1 ≤ F 47 40 ∧
        F 7 0 + F 23 16 + F 39 32 ≤ 128 ∧ n < 256
      then gives (.qpoolWrite .firmware n v) { s.io with qpool := (n, keep v [(47, 0)]) :: s.io.qpool.filter (·.1 != n) }
      else refuses (.qpoolWrite .firmware n v)) ∧
    (if F 3 0 ≠ 0 ∧ F 7 4 ≠ 0 ∧ F 15 12 ≠ 0 ∧ F 11 8 ≤ F 15 12 then gives (.harbWrite .firmware n v) { s.io with harb := vset s.io.harb n (v.setWidth 16) }
      else refuses (.harbWrite .firmware n v)) ∧
    (if 100 ≤ F 16 0 ∧ F 16 0 ≤ 100000 then gives (.ruqWrite .firmware n v) { s.io with ruq := vset s.io.ruq n (v.setWidth 17) }
      else refuses (.ruqWrite .firmware n v)) ∧
    (if F 47 32 ≠ 0 then gives (.schctlWrite .firmware n v) { s.io with schctl := vset s.io.schctl n (keep v [(47, 16)]) }
      else refuses (.schctlWrite .firmware n v)) ∧
    (if 1 ≤ F 39 20 ∧ F 39 20 ≤ 1000000 ∧ 1 ≤ F 19 0 ∧ F 19 0 ≤ 1000000
      then gives (.hqctlWrite .firmware n v) { s.io with hqctl := vset s.io.hqctl n (keep v [(63, 63), (39, 0)]) }
      else refuses (.hqctlWrite .firmware n v)) ∧
    (if 4 ≤ F 36 32 ∧ F 36 32 ≤ 16 ∧ (s.io.fqtail - v.setWidth 32).toNat ≤ 2 ^ F 36 32 ∧
        (s.io.fqctl.getLsbD 63 = true → F 36 32 = s.io.fqctl.toNat / 2 ^ 32 % 2 ^ 5)
      then gives (.fqctlWrite .firmware v) { s.io with fqctl := keep v [(63, 63), (36, 0)] } else refuses (.fqctlWrite .firmware v)) ∧
    (if F 19 0 ≤ 1000000 then gives (.wdctlWrite .firmware n v) { s.io with wdctl := vset s.io.wdctl n (v.setWidth 20) }
      else refuses (.wdctlWrite .firmware n v)) ∧
    (v.getLsbD 63 = false → gives (.gsctlWrite .firmware v) { s.io with gsEn := false }) ∧
    (v.getLsbD 63 = true → s.io.gsFenced = false → s.guest.identityOk = true → gives (.gsctlWrite .firmware v) { s.io with gsEn := true }) ∧
    (if 500 ≤ F 43 32 ∧ F 43 32 ≤ 1900 ∧ 1000 ≤ F 11 0 ∧ F 11 0 ≤ 3200
      then exec (.powctlWrite .firmware v) s = .next
        { s with io := { s.io with powctl := keep v [(43, 32), (11, 0)] }, arithMHz := max s.arithMHz (F 43 32) }
      else refuses (.powctlWrite .firmware v)) ∧
    (F 33 32 < 3 → V % 2 = 0 →
      gives (.snapctlArm .firmware v) { s.io with snapArm := v.getLsbD 63, snapSrc := BitVec.ofNat 2 (F 33 32) }) ∧
    exec (.snapshotTrigger n) s = .next (if s.io.snapArm = true ∧ s.io.snapSrc.toNat = n then
      { s with io := { s.io with snapArm := false }
               counters := s.counters.map fun c => { c with snap := BitVec.ofNat 64 (c.value.toNat % 2 ^ 48) } } else s) ∧
    (∀ pasid bank ag, let c := s.counter bank n
      (c.control.toNat / 2 ^ 32 % 2 ^ 20 = pasid → n < bankSize bank → exec (.counterValueStore ag pasid bank n v) s = .next (s.setCounter
        { c with value := BitVec.ofNat 64 (V % 2 ^ 48)
                 control := if v.getLsbD 63 then c.control &&& 0xDFFFFFFFFFFFFFFF#64 else c.control })) ∧
      (c.control.toNat / 2 ^ 32 % 2 ^ 20 ≠ pasid → refuses (.counterValueStore ag pasid bank n v))))

/-- The other events of the I/O range and of fault records (R116, R139, R239, R323 to R325, R340, R350, R361, R364, R379): holes, the host's
accesses, loads of counters and of doorbells, doorbells, the guest's registers, fault records with firmware's copies, and FRESUME. The
model's choices: a doorbell bound to no queue loads as 0 (log 10); a host load's bytes stand in hostReads, a poisoned answer as an empty
list (log 37); a store to BAR0 that is not the mailbox's does nothing (log 71). -/
def Obligations.IoEvents : Prop :=
  (∀ (s : State) (ag : IoAgent) (a : BusAccess), ioPlace a.pa = .hole →
    let c := s.countHub (ioPasid ag)
    (a.data = none → exec (.ioHoleAccess ag a) s = .next { c with hostReads := s.hostReads ++ [(a.pa, List.replicate a.len 0xFF#8)] }) ∧
    (a.data ≠ none → exec (.ioHoleAccess ag a) s = .next c)) ∧
  (∀ (s : State) (a : BusAccess),
    let n := ((a.data.map (·.length)).getD a.len)
    let inside := a.pa + n ≤ 2 ^ 40 ∧ ∀ i, i < n → (dramHome s.memMap (a.pa + i)).isSome = true
    (s.fw.serving = false → exec (.hostMemAccess (.mem a)) s = .next s) ∧
    (0 < n → inside → s.fw.serving = true → Calm s →
      (a.data = none → ∃ t, exec (.hostMemAccess (.mem a)) s = .next t ∧
        Cached { s with hostReads := s.hostReads ++ [(a.pa, s.mem.read a.pa n)] } t ∧
        ∀ i, i < n → (a.pa + i) / 64 * 64 ∈ t.hostCopies) ∧
      (∀ d, a.data = some d → ∃ t, exec (.hostMemAccess (.mem a)) s = .next t ∧ CachedWith s (s.mem.write a.pa d) t ∧
        ∀ i, i < n → (a.pa + i) / 64 * 64 ∉ t.hostCopies)) ∧
    (0 < n → ¬ inside → s.fw.serving = true →
      (a.data = none → exec (.hostMemAccess (.mem a)) s = .next { s.countHub with hostReads := s.hostReads ++ [(a.pa, [])] }) ∧
      (a.data ≠ none → exec (.hostMemAccess (.mem a)) s = .next s.countHub)) ∧
    exec (.hostMemAccess (.drop a.pa)) s = .next { s with hostCopies := s.hostCopies.filter (· != a.pa / 64 * 64) } ∧
    (a.data = none → a.pa = 8 → a.len = 8 → s.fw.serving = true → exec (.hostMemAccess (.bar0 a)) s = .next
      { s with hostReads := s.hostReads ++ [(8, leBytes 8
          ((if s.fw.current.isSome then 2 ^ 63 else 0) + (if s.fw.reduced then 2 ^ 62 else 0) + s.fw.completed.toNat))] }) ∧
    (a.data ≠ none → a.pa ≠ 0 → exec (.hostMemAccess (.bar0 a)) s = .next s)) ∧
  (∀ (s : State) (ag : IoAgent) (pa bank n off : Nat),
    let owner := (s.counter bank n).control.toNat / 2 ^ 32 % 2 ^ 20
    (ioPlace pa = .reg (.value bank n) → pa % 8 = 0 → s.ioLoad ag pa 8 =
      (s, leBytes 8 (if owner = ioPasid ag then (s.counter bank n).value.toNat else 0))) ∧
    (ioPlace pa = .doorbell off → off % 8 = 0 → pa % 8 = 0 → s.ioLoad ag pa 8 =
      (s, leBytes 8 (match s.doorbellQueue off with | some q => q.db.toNat | none => 0)))) ∧
  (∀ (s : State) (a : DoorbellOffset) (width : Nat) (prefixed : Option Nat) (v : Word),
    let pasid := prefixed.getD (Config.defaultPasid ((a.vf.map (· + 1)).getD 0) % 2 ^ 20)
    let reached := match a.vf with
      | none => a.off < 2 ^ 30
      | some f => f < 16 ∧ a.off < 2 ^ 26
    let off := 2 ^ 26 * a.vf.getD 0 + a.off
    let counts := exec (.doorbellStore a width prefixed v) s = .next (s.countHub pasid)
    (¬ reached → exec (.doorbellStore a width prefixed v) s = .next s) ∧
    (reached → (s.context pasid).valid = false ∨ s.doorbellQueue off = none → counts) ∧
    (∀ q, reached → (s.context pasid).valid = true → s.doorbellQueue off = some q →
      let ahead := width = 8 ∧ q.pasid = pasid ∧ v ≠ q.db ∧ (v - q.db).toNat < 2 ^ 31
      let raised := s.updQueue q.pasid q.hdr fun q => { q with db := v }
      (ahead → exec (.doorbellStore a width prefixed v) s = .next (match q.engine with
        | .bulk d _ => { raised with gated := s.gated &&& ~~~(1#2 <<< d) }
        | .guest => if s.io.gsFenced then raised
          else { raised with guest := { s.guest with messages := s.guest.messages ++ [.doorbell off v] } }
        | .launch => raised)) ∧
      (¬ ahead → counts))) ∧
  (∀ (s : State) (page off width pasid : Nat) (v : Word),
    let bound := off = 0 ∧ width = 8 ∧ (page, pasid) ∈ s.pages
    (∀ u, bound → s.fireBucket pasid v = .ok u → exec (.halyardDoorbellStore page off width pasid v) s = .next u) ∧
    (¬ bound ∨ (∃ r, s.fireBucket pasid v = .error r) →
      exec (.halyardDoorbellStore page off width pasid v) s = .next (s.countHub pasid))) ∧
  (∀ (s : State) (tag : Nat) (a : BusAccess), ioPlace a.pa = .guest →
    (s.guestOn = true → exec (.guestRegisterAccess tag a) s = .next
      { s with
        seq := s.seq + 1
        out := s.out ++ [{ tag := s.seq, peer := 0, pasid := 0, type := .physical, addr := a.pa
                           op := match a.data with
                             | some d => .write d
                             | none => .read a.len
                           src := .bus tag, guest := true }] }) ∧
    (s.guestOn = false → a.data = none →
      exec (.guestRegisterAccess tag a) s = .next { s.countHub with hostReads := s.hostReads ++ [(tag, List.replicate a.len 0xFF#8)] })) ∧
  (∀ (s : State) (w : WaitingRecord) (rest : List WaitingRecord), s.waitingRecords = w :: rest →
    (s.fqRoom 1 = false → exec .faultRecordPost s = .next s) ∧
    (s.fqRoom 1 = true → Calm s → s.io.snapArm = false →
      let q := s.nextFaultSeq
      let r := w.record
      let place := s.io.fqbase.toNat / 2 ^ 12 % 2 ^ 44 * 2 ^ 12 + 32 * (s.io.fqtail.toNat % 2 ^ (s.io.fqctl.toNat / 2 ^ 32 % 32))
      let bytes := [1#8, 0#8, 0#8, 0#8, BitVec.ofNat 8 r.cls, BitVec.ofNat 8 (kindCode r.skind), BitVec.ofNat 8 r.acc, BitVec.ofNat 8 r.reason] ++
        leBytes 4 (r.pasid % 2 ^ 20) ++ leBytes 4 q.toNat ++ leBytes 8 r.src.toNat ++ leBytes 8 r.addr.toNat
      ∃ t, exec .faultRecordPost s = .next t ∧ t.counters = s.counters ∧ t.signals = s.signals ++ [.irq .firmware .faultRecord] ∧ Cached
        { s with
          mem := s.mem.write place bytes, waitingRecords := rest, nextFaultSeq := q + 1
          openFaults := if r.cls = 1 then s.openFaults ++ [{ seq := q, serial := w.serial, record := r, target := w.target }] else s.openFaults
          io := { s.io with fqtail := s.io.fqtail + 1 }
          fw := { s.fw with faultCopies := (q.toNat % 64, bytes) :: s.fw.faultCopies.filter (·.1 != q.toNat % 64) } } t)) ∧
  (∀ (s : State) (q : BitVec 32),
    let retry := q.setWidth 64
    let fail := 0x40000000#32 ++ q
    ((∀ o ∈ s.openFaults, o.seq ≠ q) →
      exec (.fresumeRetry .firmware retry) s = .next s.countHub ∧ exec (.fresumeFail .firmware fail) s = .next s.countHub) ∧
    (∀ (o : OpenFault) (t : Stream) (info : Word), s.openFaults.find? (·.seq == q) = some o → o.target = .stream t.sid info →
      s.stream? t.sid = some t → t.wait = .fault o.serial →
      let closed := fun (v : Word) => { s with openFaults := s.openFaults.filter (·.seq != q), io := { s.io with fresume := v } }
      exec (.fresumeRetry .firmware retry) s = .next
        { closed retry with streams := s.streams.map fun u => if u.wait = .fault o.serial then { u with wait := .none } else u } ∧
      (∀ g x, s.streams.filter (·.wait == .fault o.serial) = [t] → t.homes = [g.idx] → s.gang? t.launch g.idx = some g → g.place.isSome = true → o.record.acc ≠ 3 → g.idx < 2 ^ 32 →
        o.record.src.toNat / 2 ^ 32 = g.idx → TrapReady s t g x →
        ∃ s', exec (.fresumeFail .firmware fail) s = .next s' ∧ TrapTaken (closed fail) t g x 4 info t.pc s')))

/-- The engines (R135 to R149): a slot is fetched and checked, a payload of one line is carried out, its packet completes in slot order;
the launch front end makes a launch (R289, R290); QUEUE_POOL_GRANT gives an entry (R227). The model's readings of a launch packet: reason 14
for a stamp address that is not canonical (log 28), reason 8 for a context that has been cleared (log 26), reason 6 before 5 (log 39). -/
def Obligations.EngineEvents : Prop :=
  (∀ (s : State) (q : MemQueue) (a v : Word) (bs : List Byte) (x : Xlat), Calm s → x.kind < 2 →
    s.engineAccess q.pasid a .store q.engine.die = .ok (s, x) →
    (a.toNat % 8 = 0 → ∃ t, s.stampWrite q.engine.die q.pasid a v = .ok t () ∧ CachedWith s (s.mem.write x.pa (leBytes 8 v.toNat)) t) ∧
    (bs ≠ [] → a.toNat % 64 + bs.length ≤ 64 → ∃ t, s.queueWrite q a bs = .ok t () ∧ CachedWith s (s.mem.write x.pa bs) t)) ∧
  (∀ (s : State) (q : MemQueue) (x : Xlat) (die n : Nat), Calm s → s.queue? q.pasid q.hdr = some q → q.engine = .bulk die n →
    q.err = false → q.bound = true → q.begun.length < 8 → (∀ w ∈ q.begun, w.rejected = none ∧ w.parked = false) →
    q.db ≠ BitVec.ofNat 64 q.next → (q.db - BitVec.ofNat 64 q.next).toNat ≤ 2 ^ 31 →
    s.engineAccess q.pasid (BitVec.ofNat 64 (q.hdr + 64 + 64 * (q.next % 2 ^ q.log))) .load (some die) = .ok (s, x) → x.kind < 2 →
    let bs := s.mem.read (x.pa / 64 * 64) 64
    let p := packetOf bs
    let reason := if admits q.cmask (pktClass p) then copyReason false p else some 2
    let w : PacketWork := { slot := q.next, words := p, progress := 0, staged := [], out := [], before := []
                            done := reason.isNone && pktTotal p == 0, stamped := false, lost := false, parked := false, rejected := reason }
    ∃ t, Cached (s.awakeFor q.engine) t ∧ exec (.queueSlotFetch q.pasid q.hdr) s = .next (if (numAt bs 1 1) < 128 then t
      else t.updQueue q.pasid q.hdr fun _ => { q with next := q.next + 1, begun := q.begun ++ [w] })) ∧
  (∀ (s : State) (q : MemQueue) (w : PacketWork) (rest : List PacketWork) (n cls : Nat) (i : Instr) (xs xd : Xlat),
    CopyForm (.queue q.pasid q.hdr) w.slot (n + 2) i cls → Calm s → s.queue? q.pasid q.hdr = some q → q.err = false → q.begun = w :: rest →
    let p := w.words
    pktClass p = cls → copyReason false p = none → w.done = false → w.parked = false → w.rejected = none → w.progress = 0 →
    w.staged = [] → w.out = [] → w.before = [] → pktRows p = 1 → 0 < pktLen p →
    (∀ f ∈ [(pktFormats p).1, (pktFormats p).2], f.width % 8 = 0 ∧ f.scaled = false) →
    (pktDst p).toNat % 64 + dstRowBytes p ≤ 64 → s.engineAccess q.pasid (pktDst p) .store q.engine.die = .ok (s, xd) → xd.kind < 2 →
    (cls = 5 ∨ ((pktSrc p).toNat % 64 + srcRowBytes p ≤ 64 ∧ s.engineAccess q.pasid (pktSrc p) .load q.engine.die = .ok (s, xs) ∧
      xs.kind < 2)) →
    let bytes := oneLine p (s.mem.read xs.pa (srcRowBytes p)) (s.mem.read xd.pa (dstRowBytes p))
    ∃ t lines before, StoredWith (s.awakeFor q.engine) q.pasid [(pktDst p).toNat] (s.mem.write xd.pa bytes) t ∧
      exec i s = .next (t.updQueue q.pasid q.hdr fun _ =>
      { q with begun := { w with progress := pktTotal p, done := true, staged := lines, before := before } :: rest })) ∧
  (∀ (s sA sC sD : State) (q : MemQueue) (w : PacketWork) (rest : List PacketWork), s.queue? q.pasid q.hdr = some q →
    q.err = false → q.begun = w :: rest → w.done = true → w.parked = false → w.rejected = none → w.stamped = false →
    w.lost = false → (q.engine = .guest → q.pasid ∉ s.guest.paused) →
    let p := w.words
    let sB : State :=
      { sA.updQueue q.pasid q.hdr (fun q => { q with begun := updFirst (·.slot == w.slot) (fun _ => { w with stamped := true }) q.begun }) with
        signals := sA.signals ++ if pktFlags p / 2 % 2 = 1 then [.irq (sA.vectorOf q.pasid) (.packet q.pasid q.hdr w.slot)] else [] }
    (if pktFlags p % 2 = 1 then s.stampWrite q.engine.die q.pasid (pktSadr p) (pktSval p) = .ok sA () else sA = s) →
    sB.queueWrite q (BitVec.ofNat 64 (q.hdr + 64 + 64 * (w.slot % 2 ^ q.log)) + 1#64) [0] = .ok sC () →
    sC.queueWrite q (BitVec.ofNat 64 q.hdr + 8#64) (leBytes 8 ((w.slot + 1) % 2 ^ 63)) = .ok sD () →
    exec (.packetComplete (.queue q.pasid q.hdr) w.slot) s = .next
      { sD.updQueue q.pasid q.hdr (fun q => { q with idx := w.slot + 1, begun := q.begun.filter (·.slot != w.slot) }) with
        streams := sD.streams.map fun t =>
          if t.wait = .memSlot q.hdrPa ∧ sD.pasidOf t.launch = q.pasid then { t with wait := .none } else t }) ∧
  (∀ (s : State) (c : CoreCmd), s.coreCmds.find? (·.core == c.core) = some c → c.work.done = true → c.work.parked = false →
    c.work.rejected = none → pktFlags c.work.words % 4 = 0 → (s.launch? c.launch).any (!·.aborting) = true →
    exec (.packetComplete (.core c.core) c.seq) s = .next
      { s with
        coreCmds := s.coreCmds.filter (·.seq != c.seq), locks := s.locks.filter (·.seq != c.seq)
        streams := s.streams.map fun t => if t.wait = .rowLock ∨ t.wait = .line then { t with wait := .none } else t }) ∧
  (∀ (s : State) (q : MemQueue) (w : PacketWork) (rest : List PacketWork), s.queue? q.pasid q.hdr = some q → q.engine = .launch →
    q.err = false → q.begun = w :: rest → w.progress = 0 → w.parked = false → w.rejected = none →
    let p := w.words
    let F := fun (i hi lo : Nat) => (pktWord p i).toNat / 2 ^ lo % 2 ^ (hi + 1 - lo)
    let work := fun (w : PacketWork) => s.updQueue q.pasid q.hdr fun _ => { q with begun := w :: rest }
    (pktAsp p ≠ 0 → exec (.launchPacket q.pasid q.hdr w.slot) s = .next (work { w with rejected := some 6 })) ∧
    (pktAsp p = 0 → launchBad p = true → exec (.launchPacket q.pasid q.hdr w.slot) s = .next (work { w with rejected := some 5 })) ∧
    let badStamp := pktFlags p % 2 = 1 ∧ canonical (pktSadr p) = false
    (pktAsp p = 0 → launchBad p = false → badStamp →
      exec (.launchPacket q.pasid q.hdr w.slot) s = .next (work { w with rejected := some 14 })) ∧
    (pktAsp p = 0 → launchBad p = false → ¬ badStamp → (s.context q.pasid).valid = false →
      exec (.launchPacket q.pasid q.hdr w.slot) s = .next (work { w with rejected := some 8 })) ∧
    (pktAsp p = 0 → launchBad p = false → ¬ badStamp → (s.context q.pasid).valid = true →
      let x : Launch :=
        { id := s.nextLaunch, pasid := q.pasid, queue := q.hdr, slot := w.slot, epc := pktWord p 3, hpc := pktWord p 7, args := pktWord p 4
          scr := F 6 63 32, rlim := F 6 31 0, prio := F 5 63 56, tiles := F 5 55 48, xreg := F 5 47 40 == 1, spl := F 5 39 32, gangs := F 0 63 32
          since := s.ticks, nextSplice := 0, finished := 0, spawns := [], regions := Vector.replicate 16 Region.unmarked
          aborting := false, ended := false }
      exec (.launchPacket q.pasid q.hdr w.slot) s = .next
        { work { w with progress := 1 } with launches := s.launches ++ [x], nextLaunch := s.nextLaunch + 1 })) ∧
  (∀ (s : State) (t : Stream) (q : PoolQueue) (n c : Nat), s.stream? t.sid = some t → t.wait = .pool q n → s.waitCore t = some c →
    s.poolFree c q = true → (∀ y ∈ s.poolRequests c, s.poolFree c y.2.1 = true → y = (t.sid, q, n) ∨ n < y.2.2) →
    exec (.queuePoolGrant c t.sid) s = .next (s.updStream t.sid fun _ => { t with wait := .none, grant := some q }))

/-- Placements (R157, R293, R294, R296): the first gang of a launch starts on core 0 of an empty module; an aged splice that fits no core
reserves the emptiest core of its die; a splice of higher priority has the gang in its way chosen to leave. -/
def Obligations.Placements : Prop :=
  (∀ (s : State) (x : Launch), s.launches = [x] → s.gangs = [] → s.streams = [] → s.splices = [] → s.marks = [] → x.aborting = false →
    x.ended = false → x.spl = 1 → x.gangs = 1 → x.nextSplice = 0 → x.scr ≤ 737280 → x.tiles ≤ 16 → s.fw.reduced = false →
    s.fw.dieOk = 3 → (∀ p, p < 16 → s.isStrict p = false) → 0 < (s.context x.pasid).gcnt → 0 < (s.context x.pasid).scnt →
    ∃ (s' : State) (g : Gang) (u : Stream), exec .placementDecision s = .next s' ∧ s'.gangs = [g] ∧ s'.streams = [u] ∧
      g.launch = x.id ∧ g.idx = 0 ∧ g.place = some (0, 0) ∧ (∀ r, r < 64 → vget g.v r zeroV = zeroV) ∧
      (∀ r, 0 < r → r < 64 → vget g.s r 0 = 0) ∧ (∀ r, 0 < r → r < 16 → vget g.m r 0 = 0) ∧ g.fflags = 0 ∧ g.seed = 0 ∧ g.xb = x.xreg ∧
      u.pc = x.epc ∧ u.homes = [0] ∧ u.slotsOf 0 = List.range 8 ∧ u.wait = .none ∧ u.unc = [] ∧
      s'.splices = [{ launch := x.id, idx := 0, size := x.scr, scratch := [], badBlocks := [], core := some 0
                      record := if x.scr = 0 then none else some 0, windows := [] }] ∧
      s'.launches = [{ x with nextSplice := 1 }] ∧ s'.mem = s.mem) ∧
  (∀ (s : State) (x : Launch) (g : Gang) (sp : Splice) (slot die : Nat), s.launches = [x] → s.gangs = [g] → s.splices = [sp] →
    s.marks = [] → x.aborting = false → x.ended = false → x.spl = 1 → x.gangs = 2 → x.nextSplice = 1 → x.rlim = 1 →
    s.fw.reduced = false → s.fw.dieOk = 3 → (∀ p, p < 16 → s.isStrict p = false) → g.launch = x.id → g.idx = 0 → sp.launch = x.id →
    sp.idx = 0 → g.place = some (0, slot) → sp.core = some 0 → die < 2 →
    exec (.spliceAged x.id 1 die) s = .next
      { s with marks := [{ launch := x.id, splice := 1, aged := 1#2 <<< die, reserve := some (if die = 0 then 1 else 128)
                           preempt := none, short := false }] }) ∧
  (∀ (s : State) (x : Launch) (v : Gang) (c : Nat) (dies : BitVec 2), s.launch? x.id = some x → x.aborting = false → x.ended = false →
    x.nextSplice < x.spliceCount → c < 256 → (s.mark? x.id x.nextSplice).bind (·.preempt) = none → dies.getLsbD (dieOf c) = true →
    s.mayPreempt x.id x.nextSplice c = true → (∀ k, k < 256 → s.coreAllowed x.id k = true → s.room k x.id x.need = false) →
    (∀ k, k < 256 → k ≠ c → s.coreAllowed x.id k = true → s.victims x.id k = []) →
    s.gang? v.launch v.idx = some v → s.victims x.id c = [v] → s.room c x.id x.need [v] = true → v.evict = false → s.evictable v = false →
    (∀ g ∈ s.residents c, s.rollbackGang g.launch g.idx = s) →
    exec (.splicePreemption x.id ⟨x.nextSplice, dies⟩) s =
      .next ((s.updMark x.id x.nextSplice fun m => { m with preempt := some c }).updGang v.launch v.idx fun _ =>
        { v with evict := true, evictFor := some (x.id, x.nextSplice * x.spl) }))

/-- Evictions (R158, R261, R279, R287, R333): a core without a gang to bring ends its offers; with one, the victim of the rule is chosen to
leave; a chosen gang at a commit point leaves with all it holds; a partition's reset (R162) drops results in flight. The model's: that a
gang chosen to leave departs at its next commit point and a stopped stream counts as waiting, in `awake` (log 26); the bytes of the record
that R331 leaves open (log 15). -/
def Obligations.Evictions : Prop :=
  (∀ (s : State) (c : Nat), s.preempting c = false → s.blocksUsed c < 8 →
    let ended := fun (s : State) => { s with
      streams := s.streams.map fun t =>
        if t.wait = .yielded ∧ (∃ k ∈ t.homes, s.coreOf t.launch k = some c) then { t with wait := .none } else t }
    (s.eligible c = [] → exec (.residencyDecision c) s = .next (ended s)) ∧
    (∀ a v, s.eligible c = [a] → s.swapsBefore c a = false → s.room c a.launch a.need = false → s.candidateFor c a = some v →
      s.gang? v.launch v.idx = some v → v.place.isSome = true → s.evictable v = false →
      exec (.residencyDecision c) s =
        .next (ended (s.updGang v.launch v.idx fun _ => { v with evict := true, evictFor := some (a.launch, a.idx) })))) ∧
  (∀ (s : State) (c : Nat) (a : Absent) (v : Gang), s.preempting c = false → s.eligible c = [a] → s.candidateFor c a = none →
    let pool := fun (h : Gang) => h ∈ s.gangs ∧ h.core = some c ∧ (h.launch = a.launch ∨ s.prioOf h.launch < s.prioOf a.launch) ∧
      h.evict = false ∧ (s.launch? h.launch).bind s.lowestGang ≠ some h.idx
    pool v → (∀ h, pool h → h ≠ v → v.since < h.since) → s.gang? v.launch v.idx = some v → s.evictable v = false →
    exec (.fairnessRotation c a.launch) s = .next (s.updGang v.launch v.idx fun _ =>
      { v with evict := true, evictFor := if s.roomAfter c a v = true then some (a.launch, a.idx) else none })) ∧
  (∀ (s u : State) (g : Gang) (t : Stream) (c slot : Nat), s.gangs = [g] → s.streams = [t] → t.homes = [g.idx] → t.launch = g.launch →
    (s.launch? g.launch).any (·.aborting) = false → s.atExit g = false → s.preempting c = false → Calm s → t.unc = [] → t.wait = .none →
    t.spin = Spin.empty → t.grant = none → g.place = some (c, slot) → g.sb = [] → s.matCmds = [] → s.coreCmds = [] →
    let gone := fun (h : Gang) => { h with place := none, evict := false, evictFor := none, since := s.ticks, awake := !t.stopped }
    let counted := fun (u : State) (n : Nat) => if n = 0 then u else u.countCore (some c) 4 (s.pasidOf g.launch) n
    (g.evict = true → g.evictFor = none →
      let calm := { g with pending := [], sig := [] }
      (counted { s with gangs := [calm] } (g.pending.filter g.stale).length).saveBytes calm = .ok u () →
      ∃ s', exec (.gangEviction g.launch g.idx) s = .next s' ∧ s'.gangs = [gone calm] ∧ s'.streams = [{ t with saved := some t.pc }] ∧
        s'.mem = u.mem) ∧
    (∀ p d w rows n v, (s.context (s.pasidOf g.launch)).part = p →
      g.pending = [{ sids := [t.sid], reg := .s d, old := .s w, rows := rows, width := 64, tag := g.tagScalar, net := false,
                      seq := n, val := v }] →
      let back := { g with s := vset g.s d w, pending := [], sig := [], tagBase := g.tagBase + 1, tagExt := g.tagExt + 1
                           tagScalar := g.tagScalar + 1, evict := true, evictFor := none }
      (counted { s with gangs := [back] } 1).saveBytes back = .ok u () →
      ∃ s', exec (.partitionReset p) s = .next s' ∧ s'.gangs = [gone back] ∧ s'.streams = [{ t with saved := some t.pc }] ∧
        s'.mem = u.mem))

/-- Ends (R263, R291, R322): a gang whose slices have exited leaves; a launch whose gangs have finished ends, its packet complete or its
stamp an error; a killed launch loses its gangs. That the kill's class-7 record names the lowest unfinished gang is the model's (log 16). -/
def Obligations.Ends : Prop :=
  (∀ (s : State) (g : Gang), s.gang? g.launch g.idx = some g → (s.launch? g.launch).any (·.aborting) = false →
    s.streamsOf g.launch g.idx = [] → s.matCmds = [] → g.sb = [] → g.pending = [] → (∀ c, g.core = some c → s.preempting c = false) →
    (∀ h ∈ s.gangs, h.launch = g.launch → s.spliceOf g.launch h.idx = s.spliceOf g.launch g.idx → h.idx = g.idx) →
    (∀ m ∈ g.members.toList, m.handle = 0) → g.evictFor = none →
    let s1 := { s with gangs := s.gangs.filter fun h => !(h.launch == g.launch && h.idx == g.idx) }
    exec (.gangFinish g.launch g.idx) s = .next ((s1.updLaunch g.launch fun x => { x with finished := x.finished + 1 }).dropSplices)) ∧
  (∀ (s : State) (x : Launch) (q : MemQueue) (w : PacketWork) (before rest : List PacketWork),
    s.launches.filter (·.id == x.id) = [x] → x.ended = false →
    x.aborting = false ∧ x.gangs ≤ x.finished ∨ x.aborting = true ∧ (∀ h ∈ s.gangs, h.launch ≠ x.id) →
    (∀ i, i < 16 → (x.region i).state ≠ .rolling) → s.queue? x.pasid x.queue = some q → q.begun = before ++ w :: rest → before ≠ [] →
    (∀ v ∈ before, v.slot ≠ x.slot) → w.slot = x.slot →
    let words := if x.aborting then vset w.words 2 (BitVec.allOnes 64) else w.words
    let s1 := { s with launches := s.launches.filter (·.id != x.id), marks := s.marks.filter (·.launch != x.id) }
    exec (.launchComplete x.id) s = .next (s1.dropSplices.updQueue x.pasid x.queue fun _ =>
      { q with begun := before ++ { w with done := true, words := words } :: rest })) ∧
  (∀ (s : State) (x : Launch), s.launch? x.id = some x → x.aborting = false → x.ended = false →
    (∀ g ∈ s.gangs, g.launch = x.id → g.sb = [] ∧ ∀ m ∈ g.members.toList, m.handle = 0) →
    (∀ t ∈ s.streams, t.launch = x.id → ∀ h n, t.wait ≠ .knot h n) →
    ∃ (s' : State) (y : Launch), exec (.launchKill x.id) s = .next s' ∧ s'.launch? x.id = some y ∧ y.aborting = true ∧
      (∀ h ∈ s'.gangs, h.launch ≠ x.id) ∧
      (∀ u ∈ s'.streams, u.launch = x.id → ∀ h ∈ s.gangs, h.launch = x.id → u.has h.idx = false) ∧
      ∃ w ∈ s'.waitingRecords, w.record.cls = 7 ∧ w.record.pasid = x.pasid ∧ w.record.skind = .gang)

/-- The fabric (R92, R228 to R235): a request is admitted and performed, or refused with reason 3; an answer, or a time-out as reason 2,
reaches the lane that asked; a command's lane goes out, and the command whose lanes are done writes its stamp and ends. That a lane sends one
request for its whole range is the model's choice (log 13). -/
def Obligations.FabricEvents : Prop :=
  (∀ (s : State) (r : FabricRequest) (x : Xlat),
    let answer := fun (u : State) (a : FabricAnswer) => { u with sentAnswers := s.sentAnswers ++ [(r.dev, r.tag, a)] }
    (s.admitting r = none → exec (.fabricRequestArrival r) s = .next (answer s.countHub (.refused 3))) ∧
    (∀ e, s.admitting r = some e → r.type = .virtual → Calm s → x.kind < 2 → r.addr < 2 ^ 64 →
      (∀ n, r.op = .read n → 0 < n → r.addr % 64 + n ≤ 64 → s.engineAccess e.tpasid (BitVec.ofNat 64 r.addr) .load = .ok (s, x) →
        exec (.fabricRequestArrival r) s = .next (answer s (.done (s.mem.read x.pa n)))) ∧
      (∀ bs, r.op = .write bs → bs ≠ [] → r.addr % 64 + bs.length ≤ 64 →
        s.engineAccess e.tpasid (BitVec.ofNat 64 r.addr) .store = .ok (s, x) →
        ∃ t, CachedWith s (s.mem.write x.pa bs) t ∧ exec (.fabricRequestArrival r) s = .next (answer t (.done []))))) ∧
  (∀ (s : State) (q : OutRequest) (sid key : Nat) (va : Word), s.out.find? (fun r => r.tag == q.tag && !r.guest) = some q →
    q.src = .lane sid key va →
    let gets := fun (a : Option (List Byte)) =>
      State.updStream { s with out := s.out.filter (·.tag != q.tag) } sid fun t =>
        { t with wait := if t.wait = .answer then .none else t.wait, answers := t.answers ++ [(key, a)] }
    (∀ bs, exec (.fabricResponseArrival q.tag (.done bs)) s = .next (gets (some bs))) ∧
    (∀ n, exec (.fabricResponseArrival q.tag (.refused n)) s = .next (gets none)) ∧
    exec (.fabricRequestTimeout q.tag) s = .next (gets none)) ∧
  (∀ (s : State) (c : XCmd) (x : Xlat), s.xcmds.find? (·.seq == c.seq) = some c →
    let ended := fun (u : State) => { u with xcmds := s.xcmds.filter (·.seq != c.seq) }
    (c.parked = false → (∀ l ∈ c.lanes, l.phase = .finished ∧ l.parked = false) → (∀ q ∈ s.out, ∀ ls, q.src ≠ .xnet c.seq ls) →
      (∀ d ∈ s.xcmds, d.launch = c.launch → c.sid ∈ d.sids → c.seq ≤ d.seq) →
      (c.sa = 0 → exec (.xnetComplete c.seq) s = .next (ended s)) ∧
      (c.sa ≠ 0 → c.sa.toNat % 8 = 0 → Calm s → s.engineAccess c.pasid c.sa .store = .ok (s, x) → x.kind < 2 →
        ∃ t, CachedWith s (s.mem.write x.pa (leBytes 8 (if c.err then 2 ^ 64 - 1 else c.sv.toNat))) t ∧
          exec (.xnetComplete c.seq) s = .next (ended t))) ∧
    (∀ (l : XLane) (rest : List XLane), c.op = 1 → c.parked = false → c.lanes = l :: rest → (∀ y ∈ c.lanes, y.parked = false) →
      l.phase = .ready → 0 < l.len → l.db = false → l.peer ≠ Config.deviceId.toNat →
      let sent := { c with lanes := { l with phase := .sent s.seq } :: rest }
      exec (.xnetComplete c.seq) s = .next
        { s with
          seq := s.seq + 1
          out := s.out ++ [{ tag := s.seq, peer := l.peer, pasid := c.pasid, type := .virtual
                             addr := l.taddr.toNat, op := .read l.len, src := .xnet c.seq [(l.lane, l.taddr)], guest := false }]
          xcmds := updFirst (fun d => d.seq == c.seq) (fun _ => sent) s.xcmds }))

/-- Halyard's events (R238, R242 to R245, R337): a packet of the round under way is taken, a later one is held, a late one is counted; a
bucket's record, arrival and end; a deadline begins the round without this device; freed plans drain and their index comes back. The model's:
STATUS 8 in the record of a bucket in error (log 32); that a broadcast, too, counts a rank once all its elements are there (log 22). -/
def Obligations.HalyardEvents : Prop :=
  (∀ (p : Plan) (L i : Nat) (x : Nat → Option Nat), p.coll = 0 → p.alg = 0 → p.opr = 0 → 0 < L → i < L →
    (∃ r, r < p.ranks.length ∧ (x r).isSome = true) →
    p.result .i32 L i x = some (((List.range p.ranks.length).map fun r => (x r).getD 0).sum % 2 ^ 32, false)) ∧
  (∀ (s : State) (q : HalyardPacket) (p : Plan) (b : Bucket), s.plan? q.handle = some p → p.bucket? q.bucket = some b →
    let bucket := fun (c : Bucket) (u : State) => u.updBucket q.handle q.bucket fun _ => c
    let ahead := (q.round + 256 - b.fires % 256) % 256
    let passed := fun (p : Plan) (q : HalyardPacket) (u : State) =>
      let next := (p.rank + 1) % p.ranks.length
      if q.rank = next then u else { u with halyardOut := u.halyardOut ++ [(p.ranks.getD next 0, q)] }
    (ahead = 0 → b.inFlight = true → ∀ buf, s.bufferOf p q.bucket = some buf →
      let known := ∃ c ∈ b.contribs, c.rank = q.rank ∧ c.slice = q.slice
      (known → exec (.halyardPacketArrival q) s = .next s) ∧
      (¬ known → q.fmt = buf.fmt → q.len = buf.len →
        exec (.halyardPacketArrival q) s =
          .next (bucket { b with contribs := b.contribs ++ [{ rank := q.rank, slice := q.slice, elems := q.elems }] } (passed p q s))) ∧
      (¬ known → q.fmt ≠ buf.fmt ∨ q.len ≠ buf.len → b.reason = 0 →
        let given := fun (b : Bucket) (i : Nat) => ∃ c ∈ b.contribs, c.rank = p.rank ∧ c.slice = i
        ((∀ i, i < 8 → given b i) → exec (.halyardPacketArrival q) s =
          .next ((bucket { b with reason := 21, parked := false } (passed p q s)).updPlan q.handle fun p => { p with err := true })) ∧
        ∃ (s' : State) (p' : Plan) (b' : Bucket), exec (.halyardPacketArrival q) s = .next s' ∧ s'.plan? q.handle = some p' ∧
          p'.err = true ∧ p'.bucket? q.bucket = some b' ∧ b'.reason = 21 ∧ ∀ i, i < 8 → given b' i)) ∧
    (0 < ahead → ahead < 128 → exec (.halyardPacketArrival q) s = .next (bucket { b with held := b.held ++ [q] } s)) ∧
    (128 ≤ ahead ∨ (ahead = 0 ∧ b.inFlight = false) →
      exec (.halyardPacketArrival q) s = .next (bucket { b with late := b.late + 1 } s.countHub))) ∧
  (let closes := fun (s u : State) (p : Plan) (b : Bucket) (i : Instr) =>
     let a := p.recVa + BitVec.ofNat 64 (64 * b.n)
     let record := leBytes 2 0 ++ leBytes 2 b.n ++ leBytes 2 8 ++ leBytes 2 b.reason ++ leBytes 8 (b.fires % 256) ++ leBytes 8 s.clock.toNat ++
       leBytes 4 0 ++ leBytes 4 b.late ++ leBytes 32 0
     ∀ (told v : State) (x : Xlat), a.toNat % 64 = 0 → u.engineAccess p.pasid a .store = .ok (u, x) → x.kind < 2 →
       u.engineWrite p.pasid a record = .ok told () →
       (told.updBucket p.handle b.n fun b => { b with recorded := true }).engineArrive p.pasid p.knot = .done v →
       CachedWith u (u.mem.write x.pa record) told ∧
       let rung := if b.intr then { v with signals := v.signals ++ [.irq (v.vectorOf p.pasid) (.bucketDone p.handle b.n)] } else v
       exec i s = .next ((rung.updBucket p.handle b.n fun b => { b with inFlight := false, parked := false }).updPlan p.handle fun p =>
         { p with done := (p.done + 1) % 2 ^ 32 })
   (∀ (s : State) (p : Plan) (b : Bucket), s.plan? p.handle = some p → p.bucket? b.n = some b → b.inFlight = true → b.parked = false →
     b.reason ≠ 0 → b.recorded = false → b.lateDue = 0 → (∀ k ∈ p.buckets, k.inFlight = true → b.order ≤ k.order) → p.maskVa = 0 → Calm s →
     closes s s p b (.halyardBucketComplete p.handle b.n)) ∧
   (∀ (s : State) (p : Plan), s.plan? p.handle = some p → p.freed = true →
     (p.buckets.filter (·.inFlight) = [] → exec (.planFreeDrainExpiry p.handle) s = .next s) ∧
     (∀ b, p.bucket? b.n = some b → p.buckets.filter (·.inFlight) = [b] → b.reason = 0 → b.recorded = false → p.maskVa = 0 → Calm s →
       let ended := { b with reason := 16, parked := false }
       closes s (s.updBucket p.handle b.n fun _ => ended) p ended (.planFreeDrainExpiry p.handle)))) ∧
  (∀ (s : State) (p : Plan) (b : Bucket) (stack : Nat), s.plan? p.handle = some p → p.bucket? b.n = some b → p.deadline ≠ 0 →
    p.freed = false → b.inFlight = false → (s.bufferOf p b.n).isSome = true →
    (∃ q ∈ b.held, q.round = (b.fires + 1) % 256 ∧ q.slice = stack) →
    ∃ (s' : State) (p' : Plan) (b' : Bucket), exec (.halyardDeadlineExpiry p.handle ⟨b.n, stack⟩) s = .next s' ∧ s'.plan? p.handle = some p' ∧
      p'.bucket? b.n = some b' ∧ b'.inFlight = true ∧ b'.fires = b.fires + 1 ∧ b'.own = false ∧ b'.owed = b.owed + 1 ∧
      { rank := p.rank, slice := stack, elems := none } ∈ b'.contribs ∧ b'.expired = [stack]) ∧
  (∀ (s : State) (p : Plan), p ∈ s.plans → p.freed = true → (∀ b ∈ p.buckets, b.inFlight = false) → (∀ q ∈ s.plans, q.index = p.index → q = p) →
    let plans := s.plans.filter (·.index != p.index)
    exec (.planIndexQuarantineEnd p.index) s = .next
      { s with
        plans := plans, quarantine := (p.index, p.gen) :: s.quarantine.filter (·.1 != p.index)
        pages := if (∃ q ∈ plans, q.pasid = p.pasid) then s.pages else s.pages.filter (·.2 != p.pasid) }) ∧
  (∀ (p : Plan) (b : Bucket) (clock : Word) (late : Bool) (r : Nat), p.coll = 3 →
    (r ∈ p.present b ↔ r < p.ranks.length ∧ ∀ i, i < 8 → ∃ c es, b.contribs.find? (fun c => c.rank == r && c.slice == i) = some c ∧
      c.elems = some es) ∧
    numAt (completionRecord p b clock late) 24 4 = (if b.reason = 0 then (p.present b).length else 0) % 2 ^ 32)

/-- Resets, host lines and power (R345, R346, R348, R369): what MODULE_RESET keeps and which service runs, the flush of a die's host lines,
its fatal reset, gating and waking, and a power window. The model's: what a reset keeps (log 6); that a fatal reset puts a lost host line's
old bytes back (log 27); the clock's step of 100 MHz (log 20). -/
def Obligations.ModuleEvents : Prop :=
  (∀ (s : State) (st : SelfTest),
    let kept := { State.reset with
      mem := s.mem, badLines := s.badLines, lostLog := s.lostLog, guest := { Guest.reset with lost := s.guest.lost } }
    let fw := { Firmware.reset with fuse := s.fw.fuse, dieOk := st.dieOk, stackOk := st.stackOk, guestSite := st.guestOk }
    let image := bootImage s.fw.staged st.flash s.fw.fuse
    (image = none → exec (.moduleReset st) s = .next { kept with fw := { fw with serving := false } }) ∧
    (∀ h, image = some h → h.flags % 2 = 0 → st.dieOk = 3 → st.stackOk = 0xFF →
      exec (.moduleReset st) s = .next { kept with fw := { fw with svn := h.svn } }) ∧
    (∀ h k, image = some h → st.dieOk = 1 → servicePairOf 0 st.stackOk = some k →
      exec (.moduleReset st) s = .next
        { kept with fw := { fw with svn := h.svn, reduced := true, serviceDie := 0, servicePair := k }, arithMHz := 1000 })) ∧
  (∀ (s : State) (die : Nat),
    let rest := s.hostLines.filter (·.die != die)
    let emptied := fun (t : State) => t.hostLines = rest ∧ ∀ x ∈ t.l2, x.die ≠ die
    (∃ t, exec (.hostLineFlush die) s = .next t ∧ Cached s t ∧ t.hostLines = rest ∧ ∀ x ∈ t.l2, x.die = die → x.pa / 2 ^ 44 ≠ 1) ∧
    ((∀ x ∈ s.hostLines, x.die ≠ die) → ∃ t, exec (.fatalReset die) s = .next t ∧ Cached s t ∧ emptied t) ∧
    (∀ x, s.hostLines = [x] → x.die = die → s.lostLog.length < 256 →
      ∃ t, exec (.fatalReset die) s = .next t ∧ emptied t ∧ t.signals = s.signals ++ [.cxlError] ∧
        Cached { s with mem := s.mem.write x.pa x.old, lostLog := s.lostLog ++ [BitVec.ofNat 64 (x.pa / 64 * 64 + 1)] } t) ∧
    (die < 2 → s.dieBusy die = false →
      ∃ t, exec (.diePowerGate die) s = .next t ∧ emptied t ∧
        Cached
          { s with
            ctlb := s.ctlb.filter (fun e => e.core / 16 != die), ibuf := s.ibuf.filter (fun x => dieOf x.core != die)
            gated := s.gated ||| (1#2 <<< die) } t ∧
        t.tlb = s.tlb.filter (fun e => dieOf e.core != die) ∧ t.walkCache = s.walkCache.filter (·.die != die)) ∧
    exec (.dieWake die) s = .next { s with gated := s.gated &&& ~~~(1#2 <<< die) }) ∧
  (∀ (s : State) (watts : Nat),
    let limit := s.io.powctl.toNat % 2 ^ 12
    let fmin := s.io.powctl.toNat / 2 ^ 32 % 2 ^ 12
    let top := if s.fw.reduced then 1000 else 1900
    exec (.powerWindow watts) s = .next
      { s with arithMHz :=
          if limit < watts then max fmin (s.arithMHz - 100)
          else if watts < limit then max fmin (min top (s.arithMHz + 100))
          else s.arithMHz })

/-- The guest socket (R108, R350 to R360): the guest's requests, its answers, the fences, and GUEST_RESET with the identity that it
checks. The model's choices: what GUEST_RESET and a fence end and clear (log 24); the form of the certificates, measurement and
signatures (log 66); the read answers as an entry of the guest's `reads` (log 37). -/
def Obligations.GuestEvents : Prop :=
  (∀ (s : State), s.guestOn = true →
    let wakes := fun (u : State) =>
      { u with streams := s.streams.map fun t => if t.wait = .rowLock ∨ t.wait = .line then { t with wait := .none } else t }
    (∀ pasid va x, s.assigned pasid = true → canonical va = true → (s.context pasid).valid = true →
      s.walkFor none pasid (vaOf va) = .ok x → x.kind < 2 → x.leaf ||| 0x600 = x.leaf → x.leaf.getLsbD 5 = false ∨ x.pages ≠ 1 →
      let page := vaOf va / 65536
      let e : GuestXlat := { pasid := pasid, page := page, pfn := x.pa / 65536, w := x.w }
      ∀ write, exec (.guestTranslationRequest pasid va write) s = .next
        { s with guest := { s.guest with
            atc := (e :: s.guest.atc.filter fun y => !(y.pasid == pasid && y.page == page)).take 4096
            replies := s.guest.replies ++ [(pasid, page, .granted (x.pa / 65536) x.w x.kind)] } }) ∧
    (∀ pasid va (x : GuestXlat), s.assigned pasid = true → s.guestXlat pasid va = some x →
      let pa := x.pfn * 65536 + va.toNat % 65536
      let line := pa / 64 * 64
      (line ∉ s.badLines → ∃ t, exec (.guestCoherentRequest (.read pasid va)) s = .next t ∧ line ∈ t.guest.shared ∧
        Cached { s with guest := { s.guest with reads := s.guest.reads ++ [(line, s.mem.read line 64)] } } t) ∧
      (∀ y, x.w = true → s.lineBusy pa = false → (∀ g ∈ s.gangs, g.sig = []) → s.walkFor none pasid (vaOf va) = .ok y →
        y.leaf ||| 0x600 = y.leaf → ∃ t, exec (.guestCoherentRequest (.own pasid va)) s = .next t ∧
        Cached { s with guest := { s.guest with owned := s.guest.owned ++ [line] } } t ∧ line ∉ t.guest.shared ∧ line ∉ t.hostCopies ∧
        ∀ d, d < 2 → t.inL2 d line = false) ∧
      (∀ d, x.w = true → s.guest.owned = [line] → (∀ g ∈ s.gangs, g.sig = []) → s.windows = [] → s.badLines = [] →
        (∀ y ∈ s.launches, ∀ i, i < 16 → (y.region i).state = .unmarked) → d ≠ [] → pa % 64 + d.length ≤ 64 →
        ∃ t, exec (.guestCoherentRequest (.write pasid va d)) s = .next t ∧
          Cached (wakes { s with mem := s.mem.write pa d, guest := { s.guest with owned := [] } }) t)) ∧
    (∀ pasid h pa, s.assigned pasid = true → Calm s → s.handleAccess none pasid h 32 = .ok (s, pa) →
      let k := s.knot pa
      k.refusal h pasid = none → k.flags / 2 % 2 = 1 → 0 < k.exp → k.head = 0 →
      ∃ t, exec (.guestKnotArrival pasid h) s = .next t ∧ CachedWith s (s.mem.write pa ({ k with arr := k.arr + 1 } : Knot).settled.bytes) t) ∧
    (∀ r : FaultRecord, s.assigned r.pasid = true → r.cls = 1 → s.fqRoom (s.waitingRecords.length + 1) = true →
      exec (.guestFaultRecord r) s = .next
        { s with
          waitingRecords := s.waitingRecords ++ [{ serial := s.seq, record := { r with skind := .guest }, target := .guest }]
          seq := s.seq + 1 }) ∧
    (∀ pasid area n d c, s.guest.save = some (pasid, area, n) → d.length ≤ n → d.length ≤ 2 ^ 20 → Calm s → s.fw.current = some c →
      c.recPA % 64 = 0 →
      ∃ t, exec (.guestSaveAck d) s = .next t ∧ Cached
        (State.ends { s with
           mem := s.mem.write area d
           guest := { s.guest with save := none, paused := pasid :: s.guest.paused.filter (· != pasid) } } c 1) t) ∧
    (∀ pasid base len, s.guest.invalidation = some (pasid, base, len) →
      exec .guestInvalidationAck s = .next
        { s with guest := { s.guest with
            invalidation := none
            atc := s.guest.atc.filter fun x => !(x.pasid == pasid && (len == 0 || rangesMeet (x.page * 65536) 65536 base len)) } }) ∧
    (∀ line d, line % 64 = 0 → s.guest.owned = [line] → (∀ g ∈ s.gangs, g.sig = []) → s.windows = [] → s.badLines = [] →
      (∀ y ∈ s.launches, ∀ i, i < 16 → (y.region i).state = .unmarked) → d.length = 64 →
      ∃ t, exec (.guestRecallAnswer line d) s = .next t ∧
        Cached (wakes { s with mem := s.mem.write line d, guest := { s.guest with owned := [] } }) t) ∧
    (∀ (q : OutRequest) (tag : Nat) (d : List Byte), s.out.find? (fun r => r.tag == q.tag && r.guest) = some q → q.src = .bus tag →
      q.op = .read d.length →
      exec (.guestRegisterAnswer q.tag d) s = .next
        { s with out := s.out.filter (·.tag != q.tag), hostReads := s.hostReads ++ [(tag, d)] })) ∧
  (∀ (s : State), s.io.gsFenced = false →
    let fences := fun (i : Instr) (cause : Nat) => ∃ s', exec i s = .next s' ∧ s'.io.gsFenced = true ∧ s'.io.gsCause.toNat = cause ∧
      s'.guest.owned = [] ∧ s'.guest.shared = [] ∧ s'.guest.atc = [] ∧ s'.guest.invalidation = none ∧ s'.guest.save = none ∧ Signal.irq .firmware .fence ∈ s'.signals ∧
      ∃ w ∈ s'.waitingRecords, w.record.cls = 6 ∧ w.record.reason = 0x80 + cause ∧ w.record.skind = .guest
    (∀ line, s.guestOn = true → line % 64 = 0 → line ∈ s.guest.owned ∨ line ∈ s.guest.shared → fences (.guestSnoopTimeout line) 1) ∧
    (∀ (q : OutRequest) (d : List Byte), s.out.find? (fun r => r.tag == q.tag && r.guest) = some q → q.op = .read (d.length + 1) →
      fences (.guestRegisterAnswer q.tag d) 6) ∧
    (s.guest.invalidation ≠ none → fences .guestInvalidationTimeout 2) ∧ (s.guest.save ≠ none → fences .guestSaveTimeout 3) ∧
    fences .guestLinkDown 7) ∧
  (∀ (s : State) (id : GuestIdentity), s.fw.guestSite = true → s.fw.reduced = false →
    (identityAccepted id s.fw.svn = true → s.out.filter (·.guest) = [] → s.guest.save = none → exec (.guestReset id) s = .next
      { s with
        guest := { s.guest with owned := [], shared := [], atc := [], invalidation := none, paused := [], messages := []
                                chain := identityBytes id, identityOk := true }
        io := { s.io with gsEn := false, gsFenced := false, gsCause := 0 }
        streams := s.streams.map fun t => if t.wait = .rowLock ∨ t.wait = .line then { t with wait := .none } else t }) ∧
    (identityAccepted id s.fw.svn = false → ∃ s', exec (.guestReset id) s = .next s' ∧ s'.io.gsEn = false ∧ s'.io.gsFenced = true ∧
      s'.io.gsCause = 8 ∧ s'.guest.identityOk = false ∧ s'.guest.owned = []))

/-- What the end of an instruction leaves (R44, R163, R305): the PC past the word, the stores of the instruction committed, results
returned under H; every register, all of memory and every other stream and gang as its effect left them. -/
def Obligations.CompletionFrame : Prop :=
  ∀ (s : State) (t : Stream) (g : Gang) (i : Issue), s.stream? t.sid = some t → t.homes = [g.idx] → s.gang? t.launch g.idx = some g →
    let s' := s.completed t i
    OnlyStreams s s' ∧ s'.seq = s.seq + 1 ∧ s'.nextSid = s.nextSid ∧
      (∃ u, s'.stream? t.sid = some u ∧ u.pc = t.pc + BitVec.ofNat 64 i.len ∧ u.slots = t.slots ∧ u.wait = t.wait ∧ u.unc = t.unc ∧
        u.stopped = t.stopped ∧ u.loading = false ∧ u.answers = [] ∧ u.walkFails = [] ∧ u.partsDone = [] ∧ u.claim = none ∧ u.grant = none ∧ u.operands = [] ∧
        u.popped = none) ∧
      (∃ g', s'.gang? t.launch g.idx = some g' ∧ g' =
        { g with
          sb := g.sb.map fun e => { e with committed := e.committed || e.seq == s.seq }
          pending := if i.hold then g.pending.filter fun p => !p.sids.contains t.sid else g.pending }) ∧
      (∀ n, n ≠ t.sid → s'.stream? n = s.stream? n) ∧
      ∀ l k, l ≠ t.launch ∨ k ≠ g.idx → s'.gang? l k = s.gang? l k

/-- The spec's own words (R25, R27, R28, R33, R41) decode to the instructions that it prints beside them; the two reserved words are
illegal. -/
def Obligations.DecodedWords : Prop :=
  let reads := fun (w : BitVec 32) (i : Instr) => decode (leBytes 4 w.toNat) = .instr i 4
  let vr := fun (d a b : BitVec 6) (x : BitVec 2) (t : BitVec 3) => ({ h := false, t := t, d := d, a := a, x := x, b := b } : VRFields)
  decode [0, 0] = .instr .nop 2 ∧ reads 0x06144401 (.iadd (vr 4 5 6 0 2)) ∧ reads 0xBF081205 (.isub (vr 1 2 0x3F 2 1)) ∧
    reads 0x003B61A1 (.br { h := false, n := false, w := false, p := false, u := false, c := 16 + 11, off := 14 }) ∧
    reads 0xFFE843A1 (.br { h := false, n := false, w := false, p := false, u := true, c := 2, off := 0x3FFA }) ∧
    reads 0x000401BD (.trap { h := false, a := 0, imm := 1 }) ∧
    decode (leBytes 4 0xFFFFFFFF ++ leBytes 4 0) = .illegal 0xFFFFFFFF 6 ∧ decode [2, 0] = .illegal 2 2

/-- Decoding and encoding agree on every instruction and every word (R20, R27 to R43): a well-formed instruction's words decode to it, a
decoded word is the encoding of a well-formed instruction, bit 0 of a word gives its length, and eight bytes always suffice. -/
def Obligations.DecodeEncode : Prop :=
  (∀ (i : Instr) (rest : List Byte), i.wf = true → encode i ≠ [] → decode (encode i ++ rest) = .instr i (encode i).length) ∧
  (∀ (bs : List Byte) (i : Instr) (n : Nat), decode bs = .instr i n →
    i.wf = true ∧ encode i = bs.take n ∧ (n = 2 ∨ n = 4 ∨ n = 8) ∧ (n = 2 ↔ (bs.headD 0).getLsbD 0 = false)) ∧
  (∀ (bs : List Byte) (n : Nat), 8 ≤ bs.length → decode bs ≠ .more n)

/-- What a step does (R20, R21, R44, R247). The step's clock goes on, and what is due whatever happens comes first: packing windows whose
close is due (R255) close, and a gang with an error in its registers loses its launch (R327); with neither, nothing changes. Then the
agenda's head happens. Else, in an instruction's turn, the bytes at the PC of the next stream, from its core's buffer, or through
translation from memory where the buffer has not the line, decode to the instruction that runs: its words alone are executed, and illegal
bytes raise the illegal-instruction trap. -/
def Obligations.StepRunsDecodedInstruction : Prop :=
  ∀ (s : State),
    let ticked := { s with ticks := s.ticks + 1, clock := s.clock + 1 + BitVec.ofNat 64 (Config.freeClocks s.ticks), turn := !s.turn }
    let now := ticked.forced
    (ticked.dueWindows = [] → (∀ g ∈ s.gangs, g.bad = false) → now = ticked) ∧
    (∀ i rest, now.agenda = i :: rest → step s = exec i { now with agenda := rest, cur := none }) ∧
    (∀ (t : Stream) (c : Nat), now.agenda = [] → s.turn = true → now.nextStream = some t → now.report? t = false → t.spin.count < 16 →
      now.streamCore t = some c →
      let issuing := { now with cur := some t.sid, last := t.sid }
      (∀ i n, decode (now.codeBytes t c t.pc) = .instr i n → step s = exec i issuing) ∧
      (∀ info n, decode (now.codeBytes t c t.pc) = .illegal info n → step s = exec (.illegalInstruction info) issuing) ∧
      (∀ x i n, Calm now → canonical t.pc = true → now.fetched c t.launch (lineOf (vaOf t.pc)) = none → (vaOf t.pc) % 64 ≤ 56 →
        now.translate (some c) (now.pasidOf t.launch) (lineOf (vaOf t.pc)) .fetch = .ok x →
        decode (now.mem.read (x.pa / 64 * 64 + vaOf t.pc % 64) (64 - vaOf t.pc % 64)) = .instr i n →
        ∃ u buffer, Cached issuing u ∧ step s = exec i { u with ibuf := buffer }))

/-- Every step keeps the invariant: memory stays in its one canonical form. -/
def Obligations.StepKeepsInv : Prop :=
  ∀ (s s' : State), s.Inv → step s = .next s' → s'.Inv

/-- The registers after module reset that the spec gives values: L2MRG (R91), RUQ (R286), SCHCTL's AGE 200 and PDELAY 20 (R295), WDCTL's
LIMIT 100 (R328), HQCTL (R301), HARB (R246), QPOOL (R226), POWCTL's FMIN 500 and LIMIT 3200 (R369). No launch, gang or queue exists, and
the invariant holds. The model's choices: MEMCARVE 0, and GSCTL.EN 0 (log 5). -/
def Obligations.ResetState : Prop :=
  State.reset.Inv ∧ State.reset.launches = [] ∧ State.reset.gangs = [] ∧ State.reset.queues = [] ∧
    (∀ d, d < 2 → vget State.reset.io.l2mrg d 0 = 64 ∧ vget State.reset.io.ruq d 0 = 1000 ∧
      (vget State.reset.io.schctl d 0).toNat / 2 ^ 32 % 2 ^ 16 = 200 ∧ (vget State.reset.io.schctl d 0).toNat / 2 ^ 16 % 2 ^ 16 = 20 ∧
      vget State.reset.io.wdctl d 0 = 100 ∧
      (vget State.reset.io.hqctl d 0).getLsbD 63 = true ∧ (vget State.reset.io.hqctl d 0).toNat / 2 ^ 20 % 2 ^ 20 = 1000 ∧
      (vget State.reset.io.hqctl d 0).toNat % 2 ^ 20 = 2000) ∧
    (∀ st, st < 8 → vget State.reset.io.harb st 0 = 0x8213) ∧ (∀ c, State.reset.qpool c = 0x200830104010) ∧
    State.reset.io.powctl.toNat / 2 ^ 32 % 2 ^ 12 = 500 ∧ State.reset.io.powctl.toNat % 2 ^ 12 = 3200 ∧
    State.reset.io.memcarve = 0 ∧ State.reset.guestOn = false
end

