-- ==== Sys2Proof/Laws/Memory.lean ====
section
/-! SUPPORT. What the memory operations do: they keep the canonical form, and a write is read back where it was made and
nowhere else. -/

namespace Sys2Proof.Machine

theorem Memory.wfFrom_mono {lo hi : Nat} (h : lo ≤ hi) : ∀ {m : Memory}, Memory.wfFrom hi m = true → Memory.wfFrom lo m = true
  | [], _ => rfl
  | (_, _) :: _, w => by
    simp only [Memory.wfFrom, Bool.and_eq_true, decide_eq_true_eq] at w ⊢
    exact ⟨⟨h.trans w.1.1, w.1.2⟩, w.2⟩

theorem Memory.wfFrom_set {b : Byte} {a : Nat} : ∀ {m : Memory} {lo : Nat}, lo ≤ a → Memory.wfFrom lo m = true →
    Memory.wfFrom lo (m.set a b) = true
  | [], lo, h, _ => by
    unfold Memory.set
    split
    · rfl
    · simp [Memory.wfFrom, *]
  | (k, c) :: rest, lo, h, w => by
    simp only [Memory.wfFrom, Bool.and_eq_true, decide_eq_true_eq] at w
    unfold Memory.set
    split
    · split
      · simp [Memory.wfFrom, w]
      · simp [Memory.wfFrom, *]
    · split
      · split
        · exact Memory.wfFrom_mono (by omega) w.2
        · subst_vars; simp [Memory.wfFrom, *]
      · simp only [Memory.wfFrom, Bool.and_eq_true, decide_eq_true_eq]
        exact ⟨w.1, Memory.wfFrom_set (by omega) w.2⟩

/-- Writing one byte keeps the canonical form. -/
theorem Memory.wf_set {m : Memory} (a : Nat) (b : Byte) (w : m.wf = true) : (m.set a b).wf = true :=
  Memory.wfFrom_set (Nat.zero_le a) w

/-- Writing bytes keeps the canonical form. -/
theorem Memory.wf_write : ∀ (bs : List Byte) {m : Memory} (a : Nat), m.wf = true → (m.write a bs).wf = true
  | [], _, _, w => w
  | b :: bs, _, a, w => Memory.wf_write bs (a + 1) (Memory.wf_set a b w)

theorem Memory.get_below {a lo : Nat} (h : a < lo) : ∀ {m : Memory}, Memory.wfFrom lo m = true → m.get a = blankByte
  | [], _ => rfl
  | (k, _) :: _, w => by
    simp only [Memory.wfFrom, Bool.and_eq_true, decide_eq_true_eq] at w
    have := w.1.1
    simp [Memory.get, show k ≠ a by omega, show a < k by omega]

theorem Memory.get_set_from {a x : Nat} {b : Byte} : ∀ {m : Memory} {lo : Nat}, Memory.wfFrom lo m = true →
    (m.set a b).get x = if x = a then b else m.get x
  | [], lo, _ => by
    by_cases hb : b = blankByte <;> by_cases hx : x = a <;> simp [Memory.set, Memory.get, hb, hx, eq_comm]
    rintro rfl; exact absurd rfl hx
  | (k, c) :: rest, lo, w => by
    simp only [Memory.wfFrom, Bool.and_eq_true, decide_eq_true_eq] at w
    have ih := @Memory.get_set_from a x b rest (k + 1) w.2
    have below : ∀ {y}, y < k + 1 → Memory.get rest y = blankByte := fun h => Memory.get_below h w.2
    rw [show Memory.get ((k, c) :: rest) x = if k = x then c else if x < k then blankByte else Memory.get rest x from rfl]
    unfold Memory.set
    by_cases h1 : a < k
    · by_cases hb : b = blankByte
      · subst hb
        simp only [h1, ↓reduceIte, Memory.get]
        split_ifs <;> first | rfl | omega
      · simp only [h1, hb, ↓reduceIte, Memory.get]
        split_ifs <;> first | rfl | omega
    · by_cases h2 : k = a
      · subst h2
        by_cases hb : b = blankByte
        · subst hb
          simp only [h1, ↓reduceIte]
          split_ifs <;> first | rfl | omega | exact below (by omega)
        · simp only [h1, hb, ↓reduceIte, Memory.get]
          split_ifs <;> first | rfl | omega
      · simp only [h1, h2, ↓reduceIte, Memory.get, ih]
        split_ifs <;> first | rfl | omega

/-- A byte is read back where it was written, and every other byte is as before. -/
theorem Memory.get_set {m : Memory} (w : m.wf = true) (a x : Nat) (b : Byte) :
    (m.set a b).get x = if x = a then b else m.get x := Memory.get_set_from w

/-- Bytes outside the written range are as before. -/
theorem Memory.get_write_other : ∀ (bs : List Byte) {m : Memory} {a x : Nat}, m.wf = true → (x < a ∨ a + bs.length ≤ x) →
    (m.write a bs).get x = m.get x
  | [], _, _, _, _, _ => rfl
  | b :: bs, m, a, x, w, h => by
    simp only [List.length_cons] at h
    rw [Memory.write, Memory.get_write_other bs (Memory.wf_set a b w) (by omega), Memory.get_set w, if_neg (by omega)]

/-- The written bytes are read back. -/
theorem Memory.get_write : ∀ (bs : List Byte) {m : Memory} {a i : Nat} (_ : m.wf = true) (h : i < bs.length),
    (m.write a bs).get (a + i) = bs[i]
  | b :: bs, m, a, 0, w, _ => by
    rw [Memory.write, Memory.get_write_other bs (Memory.wf_set a b w) (by omega), Memory.get_set w]; simp
  | b :: bs, m, a, i + 1, w, h => by
    have := Memory.get_write bs (a := a + 1) (i := i) (Memory.wf_set a b w) (by simpa using h)
    rw [Memory.write, show a + (i + 1) = a + 1 + i by omega, this]; rfl

/-- The memory after reset is in the canonical form. -/
theorem State.reset_mem_wf : State.reset.mem.wf = true := rfl

end Sys2Proof.Machine
end

