-- ==== Sys2Proof/Laws/PerInstr.lean ====
section
/-! SUPPORT. The family "Encoding": how many bytes an instruction's encoding has (R20, R41). -/

namespace Sys2Proof.Laws

/-- A 16-bit word, a 32-bit word, a prefixed pair, or (an event, an illegal word) no encoding. -/
def Encoding.Statement (i : Instr) : Prop :=
  (encode i).length = 0 ∨ (encode i).length = 2 ∨ (encode i).length = 4 ∨ (encode i).length = 8

theorem Encoding.nop : Encoding.Statement .nop := .inr (.inl rfl)
theorem Encoding.iadd16 (f : HalfFields) : Encoding.Statement (.iadd16 f) := .inr (.inl rfl)
theorem Encoding.isub16 (f : HalfFields) : Encoding.Statement (.isub16 f) := .inr (.inl rfl)
theorem Encoding.and16 (f : HalfFields) : Encoding.Statement (.and16 f) := .inr (.inl rfl)
theorem Encoding.or16 (f : HalfFields) : Encoding.Statement (.or16 f) := .inr (.inl rfl)
theorem Encoding.xor16 (f : HalfFields) : Encoding.Statement (.xor16 f) := .inr (.inl rfl)
theorem Encoding.shl16 (f : HalfFields) : Encoding.Statement (.shl16 f) := .inr (.inl rfl)
theorem Encoding.mov16 (f : HalfFields) : Encoding.Statement (.mov16 f) := .inr (.inl rfl)
theorem Encoding.fadd16 (f : HalfFields) : Encoding.Statement (.fadd16 f) := .inr (.inl rfl)
theorem Encoding.fsub16 (f : HalfFields) : Encoding.Statement (.fsub16 f) := .inr (.inl rfl)
theorem Encoding.fmul16 (f : HalfFields) : Encoding.Statement (.fmul16 f) := .inr (.inl rfl)
theorem Encoding.fmax16 (f : HalfFields) : Encoding.Statement (.fmax16 f) := .inr (.inl rfl)
theorem Encoding.imin16 (f : HalfFields) : Encoding.Statement (.imin16 f) := .inr (.inl rfl)
theorem Encoding.imax16 (f : HalfFields) : Encoding.Statement (.imax16 f) := .inr (.inl rfl)
theorem Encoding.sadd16 (f : HalfFields) : Encoding.Statement (.sadd16 f) := .inr (.inl rfl)
theorem Encoding.smov16 (f : HalfFields) : Encoding.Statement (.smov16 f) := .inr (.inl rfl)
theorem Encoding.prefixedInstruction (p : Prefix) (op : VROp) (f : VRFields) : Encoding.Statement (.prefixedInstruction p op f) := .inr (.inr (.inr rfl))
theorem Encoding.illegalInstruction (info : Word) : Encoding.Statement (.illegalInstruction info) := .inl rfl
theorem Encoding.iadd (f : VRFields) : Encoding.Statement (.iadd f) := .inr (.inr (.inl rfl))
theorem Encoding.isub (f : VRFields) : Encoding.Statement (.isub f) := .inr (.inr (.inl rfl))
theorem Encoding.iadds (f : VRFields) : Encoding.Statement (.iadds f) := .inr (.inr (.inl rfl))
theorem Encoding.isubs (f : VRFields) : Encoding.Statement (.isubs f) := .inr (.inr (.inl rfl))
theorem Encoding.imul (f : VRFields) : Encoding.Statement (.imul f) := .inr (.inr (.inl rfl))
theorem Encoding.imulh (f : VRFields) : Encoding.Statement (.imulh f) := .inr (.inr (.inl rfl))
theorem Encoding.umulh (f : VRFields) : Encoding.Statement (.umulh f) := .inr (.inr (.inl rfl))
theorem Encoding.imad (f : VRFields) : Encoding.Statement (.imad f) := .inr (.inr (.inl rfl))
theorem Encoding.imin (f : VRFields) : Encoding.Statement (.imin f) := .inr (.inr (.inl rfl))
theorem Encoding.imax (f : VRFields) : Encoding.Statement (.imax f) := .inr (.inr (.inl rfl))
theorem Encoding.umin (f : VRFields) : Encoding.Statement (.umin f) := .inr (.inr (.inl rfl))
theorem Encoding.umax (f : VRFields) : Encoding.Statement (.umax f) := .inr (.inr (.inl rfl))
theorem Encoding.iabs (f : VRFields) : Encoding.Statement (.iabs f) := .inr (.inr (.inl rfl))
theorem Encoding.shl (f : VRFields) : Encoding.Statement (.shl f) := .inr (.inr (.inl rfl))
theorem Encoding.shr (f : VRFields) : Encoding.Statement (.shr f) := .inr (.inr (.inl rfl))
theorem Encoding.sar (f : VRFields) : Encoding.Statement (.sar f) := .inr (.inr (.inl rfl))
theorem Encoding.and (f : VRFields) : Encoding.Statement (.and f) := .inr (.inr (.inl rfl))
theorem Encoding.or (f : VRFields) : Encoding.Statement (.or f) := .inr (.inr (.inl rfl))
theorem Encoding.xor (f : VRFields) : Encoding.Statement (.xor f) := .inr (.inr (.inl rfl))
theorem Encoding.andn (f : VRFields) : Encoding.Statement (.andn f) := .inr (.inr (.inl rfl))
theorem Encoding.popc (f : VRFields) : Encoding.Statement (.popc f) := .inr (.inr (.inl rfl))
theorem Encoding.clz (f : VRFields) : Encoding.Statement (.clz f) := .inr (.inr (.inl rfl))
theorem Encoding.brev (f : VRFields) : Encoding.Statement (.brev f) := .inr (.inr (.inl rfl))
theorem Encoding.bfx (f : VRFields) : Encoding.Statement (.bfx f) := .inr (.inr (.inl rfl))
theorem Encoding.bfi (f : VRFields) : Encoding.Statement (.bfi f) := .inr (.inr (.inl rfl))
theorem Encoding.lea (f : VRFields) : Encoding.Statement (.lea f) := .inr (.inr (.inl rfl))
theorem Encoding.icmpeq (f : VRFields) : Encoding.Statement (.icmpeq f) := .inr (.inr (.inl rfl))
theorem Encoding.icmplt (f : VRFields) : Encoding.Statement (.icmplt f) := .inr (.inr (.inl rfl))
theorem Encoding.icmpltu (f : VRFields) : Encoding.Statement (.icmpltu f) := .inr (.inr (.inl rfl))
theorem Encoding.sel (f : VRFields) : Encoding.Statement (.sel f) := .inr (.inr (.inl rfl))
theorem Encoding.mov (f : VRFields) : Encoding.Statement (.mov f) := .inr (.inr (.inl rfl))
theorem Encoding.fadd (f : VRFields) : Encoding.Statement (.fadd f) := .inr (.inr (.inl rfl))
theorem Encoding.fsub (f : VRFields) : Encoding.Statement (.fsub f) := .inr (.inr (.inl rfl))
theorem Encoding.fmul (f : VRFields) : Encoding.Statement (.fmul f) := .inr (.inr (.inl rfl))
theorem Encoding.ffma (f : VRFields) : Encoding.Statement (.ffma f) := .inr (.inr (.inl rfl))
theorem Encoding.fmin (f : VRFields) : Encoding.Statement (.fmin f) := .inr (.inr (.inl rfl))
theorem Encoding.fmax (f : VRFields) : Encoding.Statement (.fmax f) := .inr (.inr (.inl rfl))
theorem Encoding.fabs (f : VRFields) : Encoding.Statement (.fabs f) := .inr (.inr (.inl rfl))
theorem Encoding.fneg (f : VRFields) : Encoding.Statement (.fneg f) := .inr (.inr (.inl rfl))
theorem Encoding.fcmpeq (f : VRFields) : Encoding.Statement (.fcmpeq f) := .inr (.inr (.inl rfl))
theorem Encoding.fcmplt (f : VRFields) : Encoding.Statement (.fcmplt f) := .inr (.inr (.inl rfl))
theorem Encoding.fcmple (f : VRFields) : Encoding.Statement (.fcmple f) := .inr (.inr (.inl rfl))
theorem Encoding.fcmpun (f : VRFields) : Encoding.Statement (.fcmpun f) := .inr (.inr (.inl rfl))
theorem Encoding.frcp (f : VRFields) : Encoding.Statement (.frcp f) := .inr (.inr (.inl rfl))
theorem Encoding.frsq (f : VRFields) : Encoding.Statement (.frsq f) := .inr (.inr (.inl rfl))
theorem Encoding.fsqrt (f : VRFields) : Encoding.Statement (.fsqrt f) := .inr (.inr (.inl rfl))
theorem Encoding.fexp2 (f : VRFields) : Encoding.Statement (.fexp2 f) := .inr (.inr (.inl rfl))
theorem Encoding.flog2 (f : VRFields) : Encoding.Statement (.flog2 f) := .inr (.inr (.inl rfl))
theorem Encoding.fsin (f : VRFields) : Encoding.Statement (.fsin f) := .inr (.inr (.inl rfl))
theorem Encoding.fcos (f : VRFields) : Encoding.Statement (.fcos f) := .inr (.inr (.inl rfl))
theorem Encoding.ftanh (f : VRFields) : Encoding.Statement (.ftanh f) := .inr (.inr (.inl rfl))
theorem Encoding.fround (f : VRFields) : Encoding.Statement (.fround f) := .inr (.inr (.inl rfl))
theorem Encoding.fscale (f : VRFields) : Encoding.Statement (.fscale f) := .inr (.inr (.inl rfl))
theorem Encoding.fclass (f : VRFields) : Encoding.Statement (.fclass f) := .inr (.inr (.inl rfl))
theorem Encoding.fdot2 (f : VRFields) : Encoding.Statement (.fdot2 f) := .inr (.inr (.inl rfl))
theorem Encoding.cvt (f : VRFields) : Encoding.Statement (.cvt f) := .inr (.inr (.inl rfl))
theorem Encoding.cbld (f : VRFields) : Encoding.Statement (.cbld f) := .inr (.inr (.inl rfl))
theorem Encoding.cbst (f : VRFields) : Encoding.Statement (.cbst f) := .inr (.inr (.inl rfl))
theorem Encoding.shfl (f : VRFields) : Encoding.Statement (.shfl f) := .inr (.inr (.inl rfl))
theorem Encoding.bcast (f : VRFields) : Encoding.Statement (.bcast f) := .inr (.inr (.inl rfl))
theorem Encoding.perm (f : VRFields) : Encoding.Statement (.perm f) := .inr (.inr (.inl rfl))
theorem Encoding.mred (f : VRFields) : Encoding.Statement (.mred f) := .inr (.inr (.inl rfl))
theorem Encoding.scan (f : VRFields) : Encoding.Statement (.scan f) := .inr (.inr (.inl rfl))
theorem Encoding.red (f : VRFields) : Encoding.Statement (.red f) := .inr (.inr (.inl rfl))
theorem Encoding.ballot (f : VRFields) : Encoding.Statement (.ballot f) := .inr (.inr (.inl rfl))
theorem Encoding.mset (f : VRFields) : Encoding.Statement (.mset f) := .inr (.inr (.inl rfl))
theorem Encoding.movsv (f : VRFields) : Encoding.Statement (.movsv f) := .inr (.inr (.inl rfl))
theorem Encoding.movvs (f : VRFields) : Encoding.Statement (.movvs f) := .inr (.inr (.inl rfl))
theorem Encoding.first (f : VRFields) : Encoding.Statement (.first f) := .inr (.inr (.inl rfl))
theorem Encoding.iota (f : VRFields) : Encoding.Statement (.iota f) := .inr (.inr (.inl rfl))
theorem Encoding.sadd (f : VRFields) : Encoding.Statement (.sadd f) := .inr (.inr (.inl rfl))
theorem Encoding.ssub (f : VRFields) : Encoding.Statement (.ssub f) := .inr (.inr (.inl rfl))
theorem Encoding.smul (f : VRFields) : Encoding.Statement (.smul f) := .inr (.inr (.inl rfl))
theorem Encoding.sand (f : VRFields) : Encoding.Statement (.sand f) := .inr (.inr (.inl rfl))
theorem Encoding.sor (f : VRFields) : Encoding.Statement (.sor f) := .inr (.inr (.inl rfl))
theorem Encoding.sxor (f : VRFields) : Encoding.Statement (.sxor f) := .inr (.inr (.inl rfl))
theorem Encoding.sshl (f : VRFields) : Encoding.Statement (.sshl f) := .inr (.inr (.inl rfl))
theorem Encoding.sshr (f : VRFields) : Encoding.Statement (.sshr f) := .inr (.inr (.inl rfl))
theorem Encoding.ssar (f : VRFields) : Encoding.Statement (.ssar f) := .inr (.inr (.inl rfl))
theorem Encoding.scmp (f : VRFields) : Encoding.Statement (.scmp f) := .inr (.inr (.inl rfl))
theorem Encoding.smov (f : VRFields) : Encoding.Statement (.smov f) := .inr (.inr (.inl rfl))
theorem Encoding.slea (f : VRFields) : Encoding.Statement (.slea f) := .inr (.inr (.inl rfl))
theorem Encoding.li (f : SIFields) : Encoding.Statement (.li f) := .inr (.inr (.inl rfl))
theorem Encoding.lih (f : SIFields) : Encoding.Statement (.lih f) := .inr (.inr (.inl rfl))
theorem Encoding.getsr (f : SRFields) : Encoding.Statement (.getsr f) := .inr (.inr (.inl rfl))
theorem Encoding.setsr (f : SRFields) : Encoding.Statement (.setsr f) := .inr (.inr (.inl rfl))
theorem Encoding.ld (f : MFields) : Encoding.Statement (.ld f) := .inr (.inr (.inl rfl))
theorem Encoding.st (f : MFields) : Encoding.Statement (.st f) := .inr (.inr (.inl rfl))
theorem Encoding.lds (f : MFields) : Encoding.Statement (.lds f) := .inr (.inr (.inl rfl))
theorem Encoding.sts (f : MFields) : Encoding.Statement (.sts f) := .inr (.inr (.inl rfl))
theorem Encoding.sld (f : MFields) : Encoding.Statement (.sld f) := .inr (.inr (.inl rfl))
theorem Encoding.sst (f : MFields) : Encoding.Statement (.sst f) := .inr (.inr (.inl rfl))
theorem Encoding.atom (f : MFields) : Encoding.Statement (.atom f) := .inr (.inr (.inl rfl))
theorem Encoding.atomx (f : MFields) : Encoding.Statement (.atomx f) := .inr (.inr (.inl rfl))
theorem Encoding.satom (f : MFields) : Encoding.Statement (.satom f) := .inr (.inr (.inl rfl))
theorem Encoding.pref (f : MFields) : Encoding.Statement (.pref f) := .inr (.inr (.inl rfl))
theorem Encoding.zero (f : MFields) : Encoding.Statement (.zero f) := .inr (.inr (.inl rfl))
theorem Encoding.commit (f : MFields) : Encoding.Statement (.commit f) := .inr (.inr (.inl rfl))
theorem Encoding.br (f : BRFields) : Encoding.Statement (.br f) := .inr (.inr (.inl rfl))
theorem Encoding.jmp (f : JFields) : Encoding.Statement (.jmp f) := .inr (.inr (.inl rfl))
theorem Encoding.jmpReg (f : JFields) : Encoding.Statement (.jmpReg f) := .inr (.inr (.inl rfl))
theorem Encoding.call (f : JFields) : Encoding.Statement (.call f) := .inr (.inr (.inl rfl))
theorem Encoding.callReg (f : JFields) : Encoding.Statement (.callReg f) := .inr (.inr (.inl rfl))
theorem Encoding.ret (f : JFields) : Encoding.Statement (.ret f) := .inr (.inr (.inl rfl))
theorem Encoding.regang (f : JFields) : Encoding.Statement (.regang f) := .inr (.inr (.inl rfl))
theorem Encoding.yield (f : JFields) : Encoding.Statement (.yield f) := .inr (.inr (.inl rfl))
theorem Encoding.yieldContinuation (f : JFields) : Encoding.Statement (.yieldContinuation f) := .inr (.inr (.inl rfl))
theorem Encoding.exit (f : JFields) : Encoding.Statement (.exit f) := .inr (.inr (.inl rfl))
theorem Encoding.trap (f : JFields) : Encoding.Statement (.trap f) := .inr (.inr (.inl rfl))
theorem Encoding.rte (f : JFields) : Encoding.Statement (.rte f) := .inr (.inr (.inl rfl))
theorem Encoding.brk (f : JFields) : Encoding.Statement (.brk f) := .inr (.inr (.inl rfl))
theorem Encoding.mma (f : XFields) : Encoding.Statement (.mma f) := .inr (.inr (.inl rfl))
theorem Encoding.mmas (f : XFields) : Encoding.Statement (.mmas f) := .inr (.inr (.inl rfl))
theorem Encoding.mmat (f : XFields) : Encoding.Statement (.mmat f) := .inr (.inr (.inl rfl))
theorem Encoding.mfence (f : XFields) : Encoding.Statement (.mfence f) := .inr (.inr (.inl rfl))
theorem Encoding.mwait (f : XFields) : Encoding.Statement (.mwait f) := .inr (.inr (.inl rfl))
theorem Encoding.accld (f : XFields) : Encoding.Statement (.accld f) := .inr (.inr (.inl rfl))
theorem Encoding.accldZero (f : XFields) : Encoding.Statement (.accldZero f) := .inr (.inr (.inl rfl))
theorem Encoding.accst (f : XFields) : Encoding.Statement (.accst f) := .inr (.inr (.inl rfl))
theorem Encoding.omset (f : XFields) : Encoding.Statement (.omset f) := .inr (.inr (.inl rfl))
theorem Encoding.cpyCopy (f : KFields) : Encoding.Statement (.cpyCopy f) := .inr (.inr (.inl rfl))
theorem Encoding.cpyQuant (f : KFields) : Encoding.Statement (.cpyQuant f) := .inr (.inr (.inl rfl))
theorem Encoding.cpyDec (f : KFields) : Encoding.Statement (.cpyDec f) := .inr (.inr (.inl rfl))
theorem Encoding.cpyRed (f : KFields) : Encoding.Statement (.cpyRed f) := .inr (.inr (.inl rfl))
theorem Encoding.cpyFill (f : KFields) : Encoding.Statement (.cpyFill f) := .inr (.inr (.inl rfl))
theorem Encoding.pkt (f : KFields) : Encoding.Statement (.pkt f) := .inr (.inr (.inl rfl))
theorem Encoding.qpush (f : KFields) : Encoding.Statement (.qpush f) := .inr (.inr (.inl rfl))
theorem Encoding.qpop (f : KFields) : Encoding.Statement (.qpop f) := .inr (.inr (.inl rfl))
theorem Encoding.qtry (f : KFields) : Encoding.Statement (.qtry f) := .inr (.inr (.inl rfl))
theorem Encoding.qlen (f : KFields) : Encoding.Statement (.qlen f) := .inr (.inr (.inl rfl))
theorem Encoding.spawn (f : KFields) : Encoding.Statement (.spawn f) := .inr (.inr (.inl rfl))
theorem Encoding.xput (f : KFields) : Encoding.Statement (.xput f) := .inr (.inr (.inl rfl))
theorem Encoding.xget (f : KFields) : Encoding.Statement (.xget f) := .inr (.inr (.inl rfl))
theorem Encoding.xatom (f : KFields) : Encoding.Statement (.xatom f) := .inr (.inr (.inl rfl))
theorem Encoding.hfire (f : KFields) : Encoding.Statement (.hfire f) := .inr (.inr (.inl rfl))
theorem Encoding.hstat (f : KFields) : Encoding.Statement (.hstat f) := .inr (.inr (.inl rfl))
theorem Encoding.knew (f : KFields) : Encoding.Statement (.knew f) := .inr (.inr (.inl rfl))
theorem Encoding.kjoin (f : KFields) : Encoding.Statement (.kjoin f) := .inr (.inr (.inl rfl))
theorem Encoding.kleave (f : KFields) : Encoding.Statement (.kleave f) := .inr (.inr (.inl rfl))
theorem Encoding.karrive (f : KFields) : Encoding.Statement (.karrive f) := .inr (.inr (.inl rfl))
theorem Encoding.kwait (f : KFields) : Encoding.Statement (.kwait f) := .inr (.inr (.inl rfl))
theorem Encoding.karrw (f : KFields) : Encoding.Statement (.karrw f) := .inr (.inr (.inl rfl))
theorem Encoding.kfree (f : KFields) : Encoding.Statement (.kfree f) := .inr (.inr (.inl rfl))
theorem Encoding.kquery (f : KFields) : Encoding.Statement (.kquery f) := .inr (.inr (.inl rfl))
theorem Encoding.warm (f : KFields) : Encoding.Statement (.warm f) := .inr (.inr (.inl rfl))
theorem Encoding.wwait (f : KFields) : Encoding.Statement (.wwait f) := .inr (.inr (.inl rfl))
theorem Encoding.wstamp (f : KFields) : Encoding.Statement (.wstamp f) := .inr (.inr (.inl rfl))
theorem Encoding.racq (f : KFields) : Encoding.Statement (.racq f) := .inr (.inr (.inl rfl))
theorem Encoding.rrel (f : KFields) : Encoding.Statement (.rrel f) := .inr (.inr (.inl rfl))
theorem Encoding.resize (f : KFields) : Encoding.Statement (.resize f) := .inr (.inr (.inl rfl))
theorem Encoding.ckmark (f : KFields) : Encoding.Statement (.ckmark f) := .inr (.inr (.inl rfl))
theorem Encoding.cktake (f : KFields) : Encoding.Statement (.cktake f) := .inr (.inr (.inl rfl))
theorem Encoding.ckroll (f : KFields) : Encoding.Statement (.ckroll f) := .inr (.inr (.inl rfl))
theorem Encoding.ckdrop (f : KFields) : Encoding.Statement (.ckdrop f) := .inr (.inr (.inl rfl))
theorem Encoding.instructionFetch (sid : Nat) (line : Nat) : Encoding.Statement (.instructionFetch sid line) := .inl rfl
theorem Encoding.instructionCommit (sid : Nat) : Encoding.Statement (.instructionCommit sid) := .inl rfl
theorem Encoding.registerResultReturn (launch gang n : Nat) : Encoding.Statement (.registerResultReturn launch gang n) := .inl rfl
theorem Encoding.storeVisibility (sid : Nat) : Encoding.Statement (.storeVisibility sid) := .inl rfl
theorem Encoding.rollback (launch gang : Nat) : Encoding.Statement (.rollback launch gang) := .inl rfl
theorem Encoding.pageWalk (sid : Nat) (va : Word) (write : Bool) : Encoding.Statement (.pageWalk sid va write) := .inl rfl
theorem Encoding.aliasReadDecode (a : AliasAsk) : Encoding.Statement (.aliasReadDecode a) := .inl rfl
theorem Encoding.aliasWriteBack (sid : Nat) : Encoding.Statement (.aliasWriteBack sid) := .inl rfl
theorem Encoding.hostSnoop (a : Snoop) : Encoding.Statement (.hostSnoop a) := .inl rfl
theorem Encoding.hostMemAccess (a : HostAccess) : Encoding.Statement (.hostMemAccess a) := .inl rfl
theorem Encoding.ioHoleAccess (ag : IoAgent) (a : BusAccess) : Encoding.Statement (.ioHoleAccess ag a) := .inl rfl
theorem Encoding.registerWrite (ag : IoAgent) (pa : Nat) (v : Word) : Encoding.Statement (.registerWrite ag pa v) := .inl rfl
theorem Encoding.memcarveWrite (ag : IoAgent) (v : Word) : Encoding.Statement (.memcarveWrite ag v) := .inl rfl
theorem Encoding.l2mrgWrite (ag : IoAgent) (die : Nat) (v : Word) : Encoding.Statement (.l2mrgWrite ag die v) := .inl rfl
theorem Encoding.fwCtlEnable (ag : IoAgent) (n : Nat) (v : Word) : Encoding.Statement (.fwCtlEnable ag n v) := .inl rfl
theorem Encoding.fwCtlDisable (ag : IoAgent) (n : Nat) (v : Word) : Encoding.Statement (.fwCtlDisable ag n v) := .inl rfl
theorem Encoding.qpoolWrite (ag : IoAgent) (core : Nat) (v : Word) : Encoding.Statement (.qpoolWrite ag core v) := .inl rfl
theorem Encoding.harbWrite (ag : IoAgent) (stack : Nat) (v : Word) : Encoding.Statement (.harbWrite ag stack v) := .inl rfl
theorem Encoding.ruqWrite (ag : IoAgent) (die : Nat) (v : Word) : Encoding.Statement (.ruqWrite ag die v) := .inl rfl
theorem Encoding.schctlWrite (ag : IoAgent) (die : Nat) (v : Word) : Encoding.Statement (.schctlWrite ag die v) := .inl rfl
theorem Encoding.hqctlWrite (ag : IoAgent) (die : Nat) (v : Word) : Encoding.Statement (.hqctlWrite ag die v) := .inl rfl
theorem Encoding.fqctlWrite (ag : IoAgent) (v : Word) : Encoding.Statement (.fqctlWrite ag v) := .inl rfl
theorem Encoding.fresumeRetry (ag : IoAgent) (v : Word) : Encoding.Statement (.fresumeRetry ag v) := .inl rfl
theorem Encoding.fresumeFail (ag : IoAgent) (v : Word) : Encoding.Statement (.fresumeFail ag v) := .inl rfl
theorem Encoding.wdctlWrite (ag : IoAgent) (die : Nat) (v : Word) : Encoding.Statement (.wdctlWrite ag die v) := .inl rfl
theorem Encoding.gsctlWrite (ag : IoAgent) (v : Word) : Encoding.Statement (.gsctlWrite ag v) := .inl rfl
theorem Encoding.counterValueStore (ag : IoAgent) (pasid bank n : Nat) (v : Word) : Encoding.Statement (.counterValueStore ag pasid bank n v) := .inl rfl
theorem Encoding.snapctlArm (ag : IoAgent) (v : Word) : Encoding.Statement (.snapctlArm ag v) := .inl rfl
theorem Encoding.snapshotTrigger (src : Nat) : Encoding.Statement (.snapshotTrigger src) := .inl rfl
theorem Encoding.powctlWrite (ag : IoAgent) (v : Word) : Encoding.Statement (.powctlWrite ag v) := .inl rfl
theorem Encoding.doorbellStore (off : DoorbellOffset) (width : Nat) (pasid : Option Nat) (v : Word) :
    Encoding.Statement (.doorbellStore off width pasid v) := .inl rfl
theorem Encoding.halyardDoorbellStore (page off width pasid : Nat) (v : Word) : Encoding.Statement (.halyardDoorbellStore page off width pasid v) := .inl rfl
theorem Encoding.guestRegisterAccess (tag : Nat) (a : BusAccess) : Encoding.Statement (.guestRegisterAccess tag a) := .inl rfl
theorem Encoding.registerMemoryQueue (c : Mailbox) : Encoding.Statement (.registerMemoryQueue c) := .inl rfl
theorem Encoding.deregisterMemoryQueue (c : Mailbox) : Encoding.Statement (.deregisterMemoryQueue c) := .inl rfl
theorem Encoding.clearQueueError (c : Mailbox) : Encoding.Statement (.clearQueueError c) := .inl rfl
theorem Encoding.translationInvalidation (c : Mailbox) : Encoding.Statement (.translationInvalidation c) := .inl rfl
theorem Encoding.hardwareQueueRegistration (c : Mailbox) : Encoding.Statement (.hardwareQueueRegistration c) := .inl rfl
theorem Encoding.createHalyardPlan (c : Mailbox) : Encoding.Statement (.createHalyardPlan c) := .inl rfl
theorem Encoding.freeHalyardPlan (c : Mailbox) : Encoding.Statement (.freeHalyardPlan c) := .inl rfl
theorem Encoding.writeBufferTableEntry (c : Mailbox) : Encoding.Statement (.writeBufferTableEntry c) := .inl rfl
theorem Encoding.writeFabricImportEntry (c : Mailbox) : Encoding.Statement (.writeFabricImportEntry c) := .inl rfl
theorem Encoding.setFormatWindow (c : Mailbox) : Encoding.Statement (.setFormatWindow c) := .inl rfl
theorem Encoding.writePasidContext (c : Mailbox) : Encoding.Statement (.writePasidContext c) := .inl rfl
theorem Encoding.stageFirmwareImage (c : Mailbox) : Encoding.Statement (.stageFirmwareImage c) := .inl rfl
theorem Encoding.commitSecurityVersion (c : Mailbox) : Encoding.Statement (.commitSecurityVersion c) := .inl rfl
theorem Encoding.preemptGuest (c : Mailbox) : Encoding.Statement (.preemptGuest c) := .inl rfl
theorem Encoding.reloadGuest (c : Mailbox) : Encoding.Statement (.reloadGuest c) := .inl rfl
theorem Encoding.copyGuestIdentity (c : Mailbox) : Encoding.Statement (.copyGuestIdentity c) := .inl rfl
theorem Encoding.resolveFaultRecord (c : Mailbox) : Encoding.Statement (.resolveFaultRecord c) := .inl rfl
theorem Encoding.writeCounterControl (c : Mailbox) : Encoding.Statement (.writeCounterControl c) := .inl rfl
theorem Encoding.writePartitionConfig (c : Mailbox) : Encoding.Statement (.writePartitionConfig c) := .inl rfl
theorem Encoding.mailboxUnlistedOp (c : Mailbox) : Encoding.Statement (.mailboxUnlistedOp c) := .inl rfl
theorem Encoding.queueSlotFetch (pasid hdr : Nat) : Encoding.Statement (.queueSlotFetch pasid hdr) := .inl rfl
theorem Encoding.copyPacket (e : EngineRef) (slot n : Nat) : Encoding.Statement (.copyPacket e slot n) := .inl rfl
theorem Encoding.copyQuantizePacket (e : EngineRef) (slot n : Nat) : Encoding.Statement (.copyQuantizePacket e slot n) := .inl rfl
theorem Encoding.copyDecodePacket (e : EngineRef) (slot n : Nat) : Encoding.Statement (.copyDecodePacket e slot n) := .inl rfl
theorem Encoding.reduceCopyPacket (e : EngineRef) (slot n : Nat) : Encoding.Statement (.reduceCopyPacket e slot n) := .inl rfl
theorem Encoding.fillPacket (e : EngineRef) (slot n : Nat) : Encoding.Statement (.fillPacket e slot n) := .inl rfl
theorem Encoding.packetComplete (e : EngineRef) (slot : Nat) : Encoding.Statement (.packetComplete e slot) := .inl rfl
theorem Encoding.launchPacket (pasid hdr slot : Nat) : Encoding.Statement (.launchPacket pasid hdr slot) := .inl rfl
theorem Encoding.queuePoolGrant (core sid : Nat) : Encoding.Statement (.queuePoolGrant core sid) := .inl rfl
theorem Encoding.extendedBlockGrant (core : Nat) : Encoding.Statement (.extendedBlockGrant core) := .inl rfl
theorem Encoding.matrixCommandStart (core seq : Nat) : Encoding.Statement (.matrixCommandStart core seq) := .inl rfl
theorem Encoding.matrixCommandComplete (core seq : Nat) : Encoding.Statement (.matrixCommandComplete core seq) := .inl rfl
theorem Encoding.watchReload (sid : Nat) : Encoding.Statement (.watchReload sid) := .inl rfl
theorem Encoding.watchRecheckExpiry (sid : Nat) : Encoding.Statement (.watchRecheckExpiry sid) := .inl rfl
theorem Encoding.spinRecognised (sid : Nat) : Encoding.Statement (.spinRecognised sid) := .inl rfl
theorem Encoding.engineKnotArrival (kind : EngineKind) (pasid : Nat) (va : Word) : Encoding.Statement (.engineKnotArrival kind pasid va) := .inl rfl
theorem Encoding.residencyDecision (core : Nat) : Encoding.Statement (.residencyDecision core) := .inl rfl
theorem Encoding.gangEviction (launch gang : Nat) : Encoding.Statement (.gangEviction launch gang) := .inl rfl
theorem Encoding.fairnessRotation (core launch : Nat) : Encoding.Statement (.fairnessRotation core launch) := .inl rfl
theorem Encoding.gangFinish (launch gang : Nat) : Encoding.Statement (.gangFinish launch gang) := .inl rfl
theorem Encoding.launchComplete (launch : Nat) : Encoding.Statement (.launchComplete launch) := .inl rfl
theorem Encoding.placementDecision : Encoding.Statement .placementDecision := .inl rfl
theorem Encoding.spliceAged (launch splice die : Nat) : Encoding.Statement (.spliceAged launch splice die) := .inl rfl
theorem Encoding.splicePreemption (launch : Nat) (a : PreemptingSplice) : Encoding.Statement (.splicePreemption launch a) := .inl rfl
theorem Encoding.packWindowClose (launch splice : Nat) (addr : Word) : Encoding.Statement (.packWindowClose launch splice addr) := .inl rfl
theorem Encoding.regangCombine (launch gang : Nat) : Encoding.Statement (.regangCombine launch gang) := .inl rfl
theorem Encoding.deferredTrap (sid : Nat) : Encoding.Statement (.deferredTrap sid) := .inl rfl
theorem Encoding.watchdogExpiry (sid : Nat) : Encoding.Statement (.watchdogExpiry sid) := .inl rfl
theorem Encoding.faultRecordPost : Encoding.Statement .faultRecordPost := .inl rfl
theorem Encoding.hwQueueIdleUnmap (pasid desc : Nat) : Encoding.Statement (.hwQueueIdleUnmap pasid desc) := .inl rfl
theorem Encoding.runListTurn (die : Nat) : Encoding.Statement (.runListTurn die) := .inl rfl
theorem Encoding.fabricRequestArrival (r : FabricRequest) : Encoding.Statement (.fabricRequestArrival r) := .inl rfl
theorem Encoding.fabricResponseArrival (tag : Nat) (r : FabricAnswer) : Encoding.Statement (.fabricResponseArrival tag r) := .inl rfl
theorem Encoding.fabricRequestTimeout (tag : Nat) : Encoding.Statement (.fabricRequestTimeout tag) := .inl rfl
theorem Encoding.xnetComplete (seq : Nat) : Encoding.Statement (.xnetComplete seq) := .inl rfl
theorem Encoding.halyardPacketArrival (p : HalyardPacket) : Encoding.Statement (.halyardPacketArrival p) := .inl rfl
theorem Encoding.halyardBucketComplete (handle bucket : Nat) : Encoding.Statement (.halyardBucketComplete handle bucket) := .inl rfl
theorem Encoding.halyardDeadlineExpiry (handle : Nat) (a : DueBucket) : Encoding.Statement (.halyardDeadlineExpiry handle a) := .inl rfl
theorem Encoding.planFreeDrainExpiry (handle : Nat) : Encoding.Statement (.planFreeDrainExpiry handle) := .inl rfl
theorem Encoding.planIndexQuarantineEnd (index : Nat) : Encoding.Statement (.planIndexQuarantineEnd index) := .inl rfl
theorem Encoding.ckrollComplete (launch region : Nat) : Encoding.Statement (.ckrollComplete launch region) := .inl rfl
theorem Encoding.moduleReset (st : SelfTest) : Encoding.Statement (.moduleReset st) := .inl rfl
theorem Encoding.fatalReset (die : Nat) : Encoding.Statement (.fatalReset die) := .inl rfl
theorem Encoding.hostLineFlush (die : Nat) : Encoding.Statement (.hostLineFlush die) := .inl rfl
theorem Encoding.diePowerGate (die : Nat) : Encoding.Statement (.diePowerGate die) := .inl rfl
theorem Encoding.dieWake (die : Nat) : Encoding.Statement (.dieWake die) := .inl rfl
theorem Encoding.powerWindow (watts : Nat) : Encoding.Statement (.powerWindow watts) := .inl rfl
theorem Encoding.guestReset (id : GuestIdentity) : Encoding.Statement (.guestReset id) := .inl rfl
theorem Encoding.guestCoherentRequest (r : GuestRequest) : Encoding.Statement (.guestCoherentRequest r) := .inl rfl
theorem Encoding.guestKnotArrival (pasid : Nat) (va : Word) : Encoding.Statement (.guestKnotArrival pasid va) := .inl rfl
theorem Encoding.guestTranslationRequest (pasid : Nat) (va : Word) (write : Bool) : Encoding.Statement (.guestTranslationRequest pasid va write) := .inl rfl
theorem Encoding.guestFaultRecord (r : FaultRecord) : Encoding.Statement (.guestFaultRecord r) := .inl rfl
theorem Encoding.guestSaveAck (data : List Byte) : Encoding.Statement (.guestSaveAck data) := .inl rfl
theorem Encoding.guestSnoopTimeout (line : Nat) : Encoding.Statement (.guestSnoopTimeout line) := .inl rfl
theorem Encoding.guestInvalidationTimeout : Encoding.Statement .guestInvalidationTimeout := .inl rfl
theorem Encoding.guestSaveTimeout : Encoding.Statement .guestSaveTimeout := .inl rfl
theorem Encoding.guestLinkDown : Encoding.Statement .guestLinkDown := .inl rfl
theorem Encoding.launchKill (launch : Nat) : Encoding.Statement (.launchKill launch) := .inl rfl
theorem Encoding.partitionReset (p : Nat) : Encoding.Statement (.partitionReset p) := .inl rfl
theorem Encoding.guestInvalidationAck : Encoding.Statement .guestInvalidationAck := .inl rfl
theorem Encoding.guestRecallAnswer (line : Nat) (data : List Byte) : Encoding.Statement (.guestRecallAnswer line data) := .inl rfl
theorem Encoding.guestRegisterAnswer (tag : Nat) (data : List Byte) : Encoding.Statement (.guestRegisterAnswer tag data) := .inl rfl

end Sys2Proof.Laws
end

