-- ==== Sys2Proof/Laws/State.lean ====
section
/-! SUPPORT. What the updates of State leave of each field, and what the lookups find after an update. -/

namespace Sys2Proof.Machine

@[simp] theorem State.updGang_agenda (s : State) (l k : Nat) (f : Gang → Gang) : (s.updGang l k f).agenda = s.agenda := rfl
@[simp] theorem State.updGang_cur (s : State) (l k : Nat) (f : Gang → Gang) : (s.updGang l k f).cur = s.cur := rfl
@[simp] theorem State.updGang_last (s : State) (l k : Nat) (f : Gang → Gang) : (s.updGang l k f).last = s.last := rfl
@[simp] theorem State.updGang_turn (s : State) (l k : Nat) (f : Gang → Gang) : (s.updGang l k f).turn = s.turn := rfl
@[simp] theorem State.updGang_ticks (s : State) (l k : Nat) (f : Gang → Gang) : (s.updGang l k f).ticks = s.ticks := rfl
@[simp] theorem State.updGang_clock (s : State) (l k : Nat) (f : Gang → Gang) : (s.updGang l k f).clock = s.clock := rfl
@[simp] theorem State.updGang_seq (s : State) (l k : Nat) (f : Gang → Gang) : (s.updGang l k f).seq = s.seq := rfl
@[simp] theorem State.updGang_nextSid (s : State) (l k : Nat) (f : Gang → Gang) : (s.updGang l k f).nextSid = s.nextSid := rfl
@[simp] theorem State.updGang_nextLaunch (s : State) (l k : Nat) (f : Gang → Gang) : (s.updGang l k f).nextLaunch = s.nextLaunch := rfl
@[simp] theorem State.updGang_mem (s : State) (l k : Nat) (f : Gang → Gang) : (s.updGang l k f).mem = s.mem := rfl
@[simp] theorem State.updGang_badLines (s : State) (l k : Nat) (f : Gang → Gang) : (s.updGang l k f).badLines = s.badLines := rfl
@[simp] theorem State.updGang_retired (s : State) (l k : Nat) (f : Gang → Gang) : (s.updGang l k f).retired = s.retired := rfl
@[simp] theorem State.updGang_tlb (s : State) (l k : Nat) (f : Gang → Gang) : (s.updGang l k f).tlb = s.tlb := rfl
@[simp] theorem State.updGang_ctlb (s : State) (l k : Nat) (f : Gang → Gang) : (s.updGang l k f).ctlb = s.ctlb := rfl
@[simp] theorem State.updGang_walkCache (s : State) (l k : Nat) (f : Gang → Gang) : (s.updGang l k f).walkCache = s.walkCache := rfl
@[simp] theorem State.updGang_misses (s : State) (l k : Nat) (f : Gang → Gang) : (s.updGang l k f).misses = s.misses := rfl
@[simp] theorem State.updGang_l1 (s : State) (l k : Nat) (f : Gang → Gang) : (s.updGang l k f).l1 = s.l1 := rfl
@[simp] theorem State.updGang_l2 (s : State) (l k : Nat) (f : Gang → Gang) : (s.updGang l k f).l2 = s.l2 := rfl
@[simp] theorem State.updGang_hostCopies (s : State) (l k : Nat) (f : Gang → Gang) : (s.updGang l k f).hostCopies = s.hostCopies := rfl
@[simp] theorem State.updGang_tileReads (s : State) (l k : Nat) (f : Gang → Gang) : (s.updGang l k f).tileReads = s.tileReads := rfl
@[simp] theorem State.updGang_dropped (s : State) (l k : Nat) (f : Gang → Gang) : (s.updGang l k f).dropped = s.dropped := rfl
@[simp] theorem State.updGang_ibuf (s : State) (l k : Nat) (f : Gang → Gang) : (s.updGang l k f).ibuf = s.ibuf := rfl
@[simp] theorem State.updGang_aliasLines (s : State) (l k : Nat) (f : Gang → Gang) : (s.updGang l k f).aliasLines = s.aliasLines := rfl
@[simp] theorem State.updGang_hostLines (s : State) (l k : Nat) (f : Gang → Gang) : (s.updGang l k f).hostLines = s.hostLines := rfl
@[simp] theorem State.updGang_lostLog (s : State) (l k : Nat) (f : Gang → Gang) : (s.updGang l k f).lostLog = s.lostLog := rfl
@[simp] theorem State.updGang_launches (s : State) (l k : Nat) (f : Gang → Gang) : (s.updGang l k f).launches = s.launches := rfl
@[simp] theorem State.updGang_streams (s : State) (l k : Nat) (f : Gang → Gang) : (s.updGang l k f).streams = s.streams := rfl
@[simp] theorem State.updGang_splices (s : State) (l k : Nat) (f : Gang → Gang) : (s.updGang l k f).splices = s.splices := rfl
@[simp] theorem State.updGang_marks (s : State) (l k : Nat) (f : Gang → Gang) : (s.updGang l k f).marks = s.marks := rfl
@[simp] theorem State.updGang_queues (s : State) (l k : Nat) (f : Gang → Gang) : (s.updGang l k f).queues = s.queues := rfl
@[simp] theorem State.updGang_coreCmds (s : State) (l k : Nat) (f : Gang → Gang) : (s.updGang l k f).coreCmds = s.coreCmds := rfl
@[simp] theorem State.updGang_matCmds (s : State) (l k : Nat) (f : Gang → Gang) : (s.updGang l k f).matCmds = s.matCmds := rfl
@[simp] theorem State.updGang_matTurn (s : State) (l k : Nat) (f : Gang → Gang) : (s.updGang l k f).matTurn = s.matTurn := rfl
@[simp] theorem State.updGang_locks (s : State) (l k : Nat) (f : Gang → Gang) : (s.updGang l k f).locks = s.locks := rfl
@[simp] theorem State.updGang_xcmds (s : State) (l k : Nat) (f : Gang → Gang) : (s.updGang l k f).xcmds = s.xcmds := rfl
@[simp] theorem State.updGang_out (s : State) (l k : Nat) (f : Gang → Gang) : (s.updGang l k f).out = s.out := rfl
@[simp] theorem State.updGang_imports (s : State) (l k : Nat) (f : Gang → Gang) : (s.updGang l k f).imports = s.imports := rfl
@[simp] theorem State.updGang_buffers (s : State) (l k : Nat) (f : Gang → Gang) : (s.updGang l k f).buffers = s.buffers := rfl
@[simp] theorem State.updGang_plans (s : State) (l k : Nat) (f : Gang → Gang) : (s.updGang l k f).plans = s.plans := rfl
@[simp] theorem State.updGang_halyardOut (s : State) (l k : Nat) (f : Gang → Gang) : (s.updGang l k f).halyardOut = s.halyardOut := rfl
@[simp] theorem State.updGang_quarantine (s : State) (l k : Nat) (f : Gang → Gang) : (s.updGang l k f).quarantine = s.quarantine := rfl
@[simp] theorem State.updGang_pages (s : State) (l k : Nat) (f : Gang → Gang) : (s.updGang l k f).pages = s.pages := rfl
@[simp] theorem State.updGang_planCount (s : State) (l k : Nat) (f : Gang → Gang) : (s.updGang l k f).planCount = s.planCount := rfl
@[simp] theorem State.updGang_hwqs (s : State) (l k : Nat) (f : Gang → Gang) : (s.updGang l k f).hwqs = s.hwqs := rfl
@[simp] theorem State.updGang_waitingRecords (s : State) (l k : Nat) (f : Gang → Gang) : (s.updGang l k f).waitingRecords = s.waitingRecords := rfl
@[simp] theorem State.updGang_openFaults (s : State) (l k : Nat) (f : Gang → Gang) : (s.updGang l k f).openFaults = s.openFaults := rfl
@[simp] theorem State.updGang_nextFaultSeq (s : State) (l k : Nat) (f : Gang → Gang) : (s.updGang l k f).nextFaultSeq = s.nextFaultSeq := rfl
@[simp] theorem State.updGang_io (s : State) (l k : Nat) (f : Gang → Gang) : (s.updGang l k f).io = s.io := rfl
@[simp] theorem State.updGang_counters (s : State) (l k : Nat) (f : Gang → Gang) : (s.updGang l k f).counters = s.counters := rfl
@[simp] theorem State.updGang_arithMHz (s : State) (l k : Nat) (f : Gang → Gang) : (s.updGang l k f).arithMHz = s.arithMHz := rfl
@[simp] theorem State.updGang_gated (s : State) (l k : Nat) (f : Gang → Gang) : (s.updGang l k f).gated = s.gated := rfl
@[simp] theorem State.updGang_fw (s : State) (l k : Nat) (f : Gang → Gang) : (s.updGang l k f).fw = s.fw := rfl
@[simp] theorem State.updGang_guest (s : State) (l k : Nat) (f : Gang → Gang) : (s.updGang l k f).guest = s.guest := rfl
@[simp] theorem State.updGang_signals (s : State) (l k : Nat) (f : Gang → Gang) : (s.updGang l k f).signals = s.signals := rfl
@[simp] theorem State.updGang_hostReads (s : State) (l k : Nat) (f : Gang → Gang) : (s.updGang l k f).hostReads = s.hostReads := rfl
@[simp] theorem State.updGang_sentAnswers (s : State) (l k : Nat) (f : Gang → Gang) : (s.updGang l k f).sentAnswers = s.sentAnswers := rfl
@[simp] theorem State.updGang_heldRequests (s : State) (l k : Nat) (f : Gang → Gang) : (s.updGang l k f).heldRequests = s.heldRequests := rfl
@[simp] theorem State.updGang_savedCounters (s : State) (l k : Nat) (f : Gang → Gang) : (s.updGang l k f).savedCounters = s.savedCounters := rfl

@[simp] theorem State.updStream_agenda (s : State) (n : Nat) (f : Stream → Stream) : (s.updStream n f).agenda = s.agenda := rfl
@[simp] theorem State.updStream_cur (s : State) (n : Nat) (f : Stream → Stream) : (s.updStream n f).cur = s.cur := rfl
@[simp] theorem State.updStream_last (s : State) (n : Nat) (f : Stream → Stream) : (s.updStream n f).last = s.last := rfl
@[simp] theorem State.updStream_turn (s : State) (n : Nat) (f : Stream → Stream) : (s.updStream n f).turn = s.turn := rfl
@[simp] theorem State.updStream_ticks (s : State) (n : Nat) (f : Stream → Stream) : (s.updStream n f).ticks = s.ticks := rfl
@[simp] theorem State.updStream_clock (s : State) (n : Nat) (f : Stream → Stream) : (s.updStream n f).clock = s.clock := rfl
@[simp] theorem State.updStream_seq (s : State) (n : Nat) (f : Stream → Stream) : (s.updStream n f).seq = s.seq := rfl
@[simp] theorem State.updStream_nextSid (s : State) (n : Nat) (f : Stream → Stream) : (s.updStream n f).nextSid = s.nextSid := rfl
@[simp] theorem State.updStream_nextLaunch (s : State) (n : Nat) (f : Stream → Stream) : (s.updStream n f).nextLaunch = s.nextLaunch := rfl
@[simp] theorem State.updStream_mem (s : State) (n : Nat) (f : Stream → Stream) : (s.updStream n f).mem = s.mem := rfl
@[simp] theorem State.updStream_badLines (s : State) (n : Nat) (f : Stream → Stream) : (s.updStream n f).badLines = s.badLines := rfl
@[simp] theorem State.updStream_retired (s : State) (n : Nat) (f : Stream → Stream) : (s.updStream n f).retired = s.retired := rfl
@[simp] theorem State.updStream_tlb (s : State) (n : Nat) (f : Stream → Stream) : (s.updStream n f).tlb = s.tlb := rfl
@[simp] theorem State.updStream_ctlb (s : State) (n : Nat) (f : Stream → Stream) : (s.updStream n f).ctlb = s.ctlb := rfl
@[simp] theorem State.updStream_walkCache (s : State) (n : Nat) (f : Stream → Stream) : (s.updStream n f).walkCache = s.walkCache := rfl
@[simp] theorem State.updStream_misses (s : State) (n : Nat) (f : Stream → Stream) : (s.updStream n f).misses = s.misses := rfl
@[simp] theorem State.updStream_l1 (s : State) (n : Nat) (f : Stream → Stream) : (s.updStream n f).l1 = s.l1 := rfl
@[simp] theorem State.updStream_l2 (s : State) (n : Nat) (f : Stream → Stream) : (s.updStream n f).l2 = s.l2 := rfl
@[simp] theorem State.updStream_hostCopies (s : State) (n : Nat) (f : Stream → Stream) : (s.updStream n f).hostCopies = s.hostCopies := rfl
@[simp] theorem State.updStream_tileReads (s : State) (n : Nat) (f : Stream → Stream) : (s.updStream n f).tileReads = s.tileReads := rfl
@[simp] theorem State.updStream_dropped (s : State) (n : Nat) (f : Stream → Stream) : (s.updStream n f).dropped = s.dropped := rfl
@[simp] theorem State.updStream_ibuf (s : State) (n : Nat) (f : Stream → Stream) : (s.updStream n f).ibuf = s.ibuf := rfl
@[simp] theorem State.updStream_aliasLines (s : State) (n : Nat) (f : Stream → Stream) : (s.updStream n f).aliasLines = s.aliasLines := rfl
@[simp] theorem State.updStream_hostLines (s : State) (n : Nat) (f : Stream → Stream) : (s.updStream n f).hostLines = s.hostLines := rfl
@[simp] theorem State.updStream_lostLog (s : State) (n : Nat) (f : Stream → Stream) : (s.updStream n f).lostLog = s.lostLog := rfl
@[simp] theorem State.updStream_launches (s : State) (n : Nat) (f : Stream → Stream) : (s.updStream n f).launches = s.launches := rfl
@[simp] theorem State.updStream_gangs (s : State) (n : Nat) (f : Stream → Stream) : (s.updStream n f).gangs = s.gangs := rfl
@[simp] theorem State.updStream_splices (s : State) (n : Nat) (f : Stream → Stream) : (s.updStream n f).splices = s.splices := rfl
@[simp] theorem State.updStream_marks (s : State) (n : Nat) (f : Stream → Stream) : (s.updStream n f).marks = s.marks := rfl
@[simp] theorem State.updStream_queues (s : State) (n : Nat) (f : Stream → Stream) : (s.updStream n f).queues = s.queues := rfl
@[simp] theorem State.updStream_coreCmds (s : State) (n : Nat) (f : Stream → Stream) : (s.updStream n f).coreCmds = s.coreCmds := rfl
@[simp] theorem State.updStream_matCmds (s : State) (n : Nat) (f : Stream → Stream) : (s.updStream n f).matCmds = s.matCmds := rfl
@[simp] theorem State.updStream_matTurn (s : State) (n : Nat) (f : Stream → Stream) : (s.updStream n f).matTurn = s.matTurn := rfl
@[simp] theorem State.updStream_locks (s : State) (n : Nat) (f : Stream → Stream) : (s.updStream n f).locks = s.locks := rfl
@[simp] theorem State.updStream_xcmds (s : State) (n : Nat) (f : Stream → Stream) : (s.updStream n f).xcmds = s.xcmds := rfl
@[simp] theorem State.updStream_out (s : State) (n : Nat) (f : Stream → Stream) : (s.updStream n f).out = s.out := rfl
@[simp] theorem State.updStream_imports (s : State) (n : Nat) (f : Stream → Stream) : (s.updStream n f).imports = s.imports := rfl
@[simp] theorem State.updStream_buffers (s : State) (n : Nat) (f : Stream → Stream) : (s.updStream n f).buffers = s.buffers := rfl
@[simp] theorem State.updStream_plans (s : State) (n : Nat) (f : Stream → Stream) : (s.updStream n f).plans = s.plans := rfl
@[simp] theorem State.updStream_halyardOut (s : State) (n : Nat) (f : Stream → Stream) : (s.updStream n f).halyardOut = s.halyardOut := rfl
@[simp] theorem State.updStream_quarantine (s : State) (n : Nat) (f : Stream → Stream) : (s.updStream n f).quarantine = s.quarantine := rfl
@[simp] theorem State.updStream_pages (s : State) (n : Nat) (f : Stream → Stream) : (s.updStream n f).pages = s.pages := rfl
@[simp] theorem State.updStream_planCount (s : State) (n : Nat) (f : Stream → Stream) : (s.updStream n f).planCount = s.planCount := rfl
@[simp] theorem State.updStream_hwqs (s : State) (n : Nat) (f : Stream → Stream) : (s.updStream n f).hwqs = s.hwqs := rfl
@[simp] theorem State.updStream_waitingRecords (s : State) (n : Nat) (f : Stream → Stream) : (s.updStream n f).waitingRecords = s.waitingRecords := rfl
@[simp] theorem State.updStream_openFaults (s : State) (n : Nat) (f : Stream → Stream) : (s.updStream n f).openFaults = s.openFaults := rfl
@[simp] theorem State.updStream_nextFaultSeq (s : State) (n : Nat) (f : Stream → Stream) : (s.updStream n f).nextFaultSeq = s.nextFaultSeq := rfl
@[simp] theorem State.updStream_io (s : State) (n : Nat) (f : Stream → Stream) : (s.updStream n f).io = s.io := rfl
@[simp] theorem State.updStream_counters (s : State) (n : Nat) (f : Stream → Stream) : (s.updStream n f).counters = s.counters := rfl
@[simp] theorem State.updStream_arithMHz (s : State) (n : Nat) (f : Stream → Stream) : (s.updStream n f).arithMHz = s.arithMHz := rfl
@[simp] theorem State.updStream_gated (s : State) (n : Nat) (f : Stream → Stream) : (s.updStream n f).gated = s.gated := rfl
@[simp] theorem State.updStream_fw (s : State) (n : Nat) (f : Stream → Stream) : (s.updStream n f).fw = s.fw := rfl
@[simp] theorem State.updStream_guest (s : State) (n : Nat) (f : Stream → Stream) : (s.updStream n f).guest = s.guest := rfl
@[simp] theorem State.updStream_signals (s : State) (n : Nat) (f : Stream → Stream) : (s.updStream n f).signals = s.signals := rfl
@[simp] theorem State.updStream_hostReads (s : State) (n : Nat) (f : Stream → Stream) : (s.updStream n f).hostReads = s.hostReads := rfl
@[simp] theorem State.updStream_sentAnswers (s : State) (n : Nat) (f : Stream → Stream) : (s.updStream n f).sentAnswers = s.sentAnswers := rfl
@[simp] theorem State.updStream_heldRequests (s : State) (n : Nat) (f : Stream → Stream) : (s.updStream n f).heldRequests = s.heldRequests := rfl
@[simp] theorem State.updStream_savedCounters (s : State) (n : Nat) (f : Stream → Stream) : (s.updStream n f).savedCounters = s.savedCounters := rfl

@[simp] theorem State.updLaunch_agenda (s : State) (l : Nat) (f : Launch → Launch) : (s.updLaunch l f).agenda = s.agenda := rfl
@[simp] theorem State.updLaunch_cur (s : State) (l : Nat) (f : Launch → Launch) : (s.updLaunch l f).cur = s.cur := rfl
@[simp] theorem State.updLaunch_last (s : State) (l : Nat) (f : Launch → Launch) : (s.updLaunch l f).last = s.last := rfl
@[simp] theorem State.updLaunch_turn (s : State) (l : Nat) (f : Launch → Launch) : (s.updLaunch l f).turn = s.turn := rfl
@[simp] theorem State.updLaunch_ticks (s : State) (l : Nat) (f : Launch → Launch) : (s.updLaunch l f).ticks = s.ticks := rfl
@[simp] theorem State.updLaunch_clock (s : State) (l : Nat) (f : Launch → Launch) : (s.updLaunch l f).clock = s.clock := rfl
@[simp] theorem State.updLaunch_seq (s : State) (l : Nat) (f : Launch → Launch) : (s.updLaunch l f).seq = s.seq := rfl
@[simp] theorem State.updLaunch_nextSid (s : State) (l : Nat) (f : Launch → Launch) : (s.updLaunch l f).nextSid = s.nextSid := rfl
@[simp] theorem State.updLaunch_nextLaunch (s : State) (l : Nat) (f : Launch → Launch) : (s.updLaunch l f).nextLaunch = s.nextLaunch := rfl
@[simp] theorem State.updLaunch_mem (s : State) (l : Nat) (f : Launch → Launch) : (s.updLaunch l f).mem = s.mem := rfl
@[simp] theorem State.updLaunch_badLines (s : State) (l : Nat) (f : Launch → Launch) : (s.updLaunch l f).badLines = s.badLines := rfl
@[simp] theorem State.updLaunch_retired (s : State) (l : Nat) (f : Launch → Launch) : (s.updLaunch l f).retired = s.retired := rfl
@[simp] theorem State.updLaunch_tlb (s : State) (l : Nat) (f : Launch → Launch) : (s.updLaunch l f).tlb = s.tlb := rfl
@[simp] theorem State.updLaunch_ctlb (s : State) (l : Nat) (f : Launch → Launch) : (s.updLaunch l f).ctlb = s.ctlb := rfl
@[simp] theorem State.updLaunch_walkCache (s : State) (l : Nat) (f : Launch → Launch) : (s.updLaunch l f).walkCache = s.walkCache := rfl
@[simp] theorem State.updLaunch_misses (s : State) (l : Nat) (f : Launch → Launch) : (s.updLaunch l f).misses = s.misses := rfl
@[simp] theorem State.updLaunch_l1 (s : State) (l : Nat) (f : Launch → Launch) : (s.updLaunch l f).l1 = s.l1 := rfl
@[simp] theorem State.updLaunch_l2 (s : State) (l : Nat) (f : Launch → Launch) : (s.updLaunch l f).l2 = s.l2 := rfl
@[simp] theorem State.updLaunch_hostCopies (s : State) (l : Nat) (f : Launch → Launch) : (s.updLaunch l f).hostCopies = s.hostCopies := rfl
@[simp] theorem State.updLaunch_tileReads (s : State) (l : Nat) (f : Launch → Launch) : (s.updLaunch l f).tileReads = s.tileReads := rfl
@[simp] theorem State.updLaunch_dropped (s : State) (l : Nat) (f : Launch → Launch) : (s.updLaunch l f).dropped = s.dropped := rfl
@[simp] theorem State.updLaunch_ibuf (s : State) (l : Nat) (f : Launch → Launch) : (s.updLaunch l f).ibuf = s.ibuf := rfl
@[simp] theorem State.updLaunch_aliasLines (s : State) (l : Nat) (f : Launch → Launch) : (s.updLaunch l f).aliasLines = s.aliasLines := rfl
@[simp] theorem State.updLaunch_hostLines (s : State) (l : Nat) (f : Launch → Launch) : (s.updLaunch l f).hostLines = s.hostLines := rfl
@[simp] theorem State.updLaunch_lostLog (s : State) (l : Nat) (f : Launch → Launch) : (s.updLaunch l f).lostLog = s.lostLog := rfl
@[simp] theorem State.updLaunch_gangs (s : State) (l : Nat) (f : Launch → Launch) : (s.updLaunch l f).gangs = s.gangs := rfl
@[simp] theorem State.updLaunch_streams (s : State) (l : Nat) (f : Launch → Launch) : (s.updLaunch l f).streams = s.streams := rfl
@[simp] theorem State.updLaunch_splices (s : State) (l : Nat) (f : Launch → Launch) : (s.updLaunch l f).splices = s.splices := rfl
@[simp] theorem State.updLaunch_marks (s : State) (l : Nat) (f : Launch → Launch) : (s.updLaunch l f).marks = s.marks := rfl
@[simp] theorem State.updLaunch_queues (s : State) (l : Nat) (f : Launch → Launch) : (s.updLaunch l f).queues = s.queues := rfl
@[simp] theorem State.updLaunch_coreCmds (s : State) (l : Nat) (f : Launch → Launch) : (s.updLaunch l f).coreCmds = s.coreCmds := rfl
@[simp] theorem State.updLaunch_matCmds (s : State) (l : Nat) (f : Launch → Launch) : (s.updLaunch l f).matCmds = s.matCmds := rfl
@[simp] theorem State.updLaunch_matTurn (s : State) (l : Nat) (f : Launch → Launch) : (s.updLaunch l f).matTurn = s.matTurn := rfl
@[simp] theorem State.updLaunch_locks (s : State) (l : Nat) (f : Launch → Launch) : (s.updLaunch l f).locks = s.locks := rfl
@[simp] theorem State.updLaunch_xcmds (s : State) (l : Nat) (f : Launch → Launch) : (s.updLaunch l f).xcmds = s.xcmds := rfl
@[simp] theorem State.updLaunch_out (s : State) (l : Nat) (f : Launch → Launch) : (s.updLaunch l f).out = s.out := rfl
@[simp] theorem State.updLaunch_imports (s : State) (l : Nat) (f : Launch → Launch) : (s.updLaunch l f).imports = s.imports := rfl
@[simp] theorem State.updLaunch_buffers (s : State) (l : Nat) (f : Launch → Launch) : (s.updLaunch l f).buffers = s.buffers := rfl
@[simp] theorem State.updLaunch_plans (s : State) (l : Nat) (f : Launch → Launch) : (s.updLaunch l f).plans = s.plans := rfl
@[simp] theorem State.updLaunch_halyardOut (s : State) (l : Nat) (f : Launch → Launch) : (s.updLaunch l f).halyardOut = s.halyardOut := rfl
@[simp] theorem State.updLaunch_quarantine (s : State) (l : Nat) (f : Launch → Launch) : (s.updLaunch l f).quarantine = s.quarantine := rfl
@[simp] theorem State.updLaunch_pages (s : State) (l : Nat) (f : Launch → Launch) : (s.updLaunch l f).pages = s.pages := rfl
@[simp] theorem State.updLaunch_planCount (s : State) (l : Nat) (f : Launch → Launch) : (s.updLaunch l f).planCount = s.planCount := rfl
@[simp] theorem State.updLaunch_hwqs (s : State) (l : Nat) (f : Launch → Launch) : (s.updLaunch l f).hwqs = s.hwqs := rfl
@[simp] theorem State.updLaunch_waitingRecords (s : State) (l : Nat) (f : Launch → Launch) : (s.updLaunch l f).waitingRecords = s.waitingRecords := rfl
@[simp] theorem State.updLaunch_openFaults (s : State) (l : Nat) (f : Launch → Launch) : (s.updLaunch l f).openFaults = s.openFaults := rfl
@[simp] theorem State.updLaunch_nextFaultSeq (s : State) (l : Nat) (f : Launch → Launch) : (s.updLaunch l f).nextFaultSeq = s.nextFaultSeq := rfl
@[simp] theorem State.updLaunch_io (s : State) (l : Nat) (f : Launch → Launch) : (s.updLaunch l f).io = s.io := rfl
@[simp] theorem State.updLaunch_counters (s : State) (l : Nat) (f : Launch → Launch) : (s.updLaunch l f).counters = s.counters := rfl
@[simp] theorem State.updLaunch_arithMHz (s : State) (l : Nat) (f : Launch → Launch) : (s.updLaunch l f).arithMHz = s.arithMHz := rfl
@[simp] theorem State.updLaunch_gated (s : State) (l : Nat) (f : Launch → Launch) : (s.updLaunch l f).gated = s.gated := rfl
@[simp] theorem State.updLaunch_fw (s : State) (l : Nat) (f : Launch → Launch) : (s.updLaunch l f).fw = s.fw := rfl
@[simp] theorem State.updLaunch_guest (s : State) (l : Nat) (f : Launch → Launch) : (s.updLaunch l f).guest = s.guest := rfl
@[simp] theorem State.updLaunch_signals (s : State) (l : Nat) (f : Launch → Launch) : (s.updLaunch l f).signals = s.signals := rfl
@[simp] theorem State.updLaunch_hostReads (s : State) (l : Nat) (f : Launch → Launch) : (s.updLaunch l f).hostReads = s.hostReads := rfl
@[simp] theorem State.updLaunch_sentAnswers (s : State) (l : Nat) (f : Launch → Launch) : (s.updLaunch l f).sentAnswers = s.sentAnswers := rfl
@[simp] theorem State.updLaunch_heldRequests (s : State) (l : Nat) (f : Launch → Launch) : (s.updLaunch l f).heldRequests = s.heldRequests := rfl
@[simp] theorem State.updLaunch_savedCounters (s : State) (l : Nat) (f : Launch → Launch) : (s.updLaunch l f).savedCounters = s.savedCounters := rfl

@[simp] theorem State.updSplice_agenda (s : State) (l i : Nat) (f : Splice → Splice) : (s.updSplice l i f).agenda = s.agenda := rfl
@[simp] theorem State.updSplice_cur (s : State) (l i : Nat) (f : Splice → Splice) : (s.updSplice l i f).cur = s.cur := rfl
@[simp] theorem State.updSplice_last (s : State) (l i : Nat) (f : Splice → Splice) : (s.updSplice l i f).last = s.last := rfl
@[simp] theorem State.updSplice_turn (s : State) (l i : Nat) (f : Splice → Splice) : (s.updSplice l i f).turn = s.turn := rfl
@[simp] theorem State.updSplice_ticks (s : State) (l i : Nat) (f : Splice → Splice) : (s.updSplice l i f).ticks = s.ticks := rfl
@[simp] theorem State.updSplice_clock (s : State) (l i : Nat) (f : Splice → Splice) : (s.updSplice l i f).clock = s.clock := rfl
@[simp] theorem State.updSplice_seq (s : State) (l i : Nat) (f : Splice → Splice) : (s.updSplice l i f).seq = s.seq := rfl
@[simp] theorem State.updSplice_nextSid (s : State) (l i : Nat) (f : Splice → Splice) : (s.updSplice l i f).nextSid = s.nextSid := rfl
@[simp] theorem State.updSplice_nextLaunch (s : State) (l i : Nat) (f : Splice → Splice) : (s.updSplice l i f).nextLaunch = s.nextLaunch := rfl
@[simp] theorem State.updSplice_mem (s : State) (l i : Nat) (f : Splice → Splice) : (s.updSplice l i f).mem = s.mem := rfl
@[simp] theorem State.updSplice_badLines (s : State) (l i : Nat) (f : Splice → Splice) : (s.updSplice l i f).badLines = s.badLines := rfl
@[simp] theorem State.updSplice_retired (s : State) (l i : Nat) (f : Splice → Splice) : (s.updSplice l i f).retired = s.retired := rfl
@[simp] theorem State.updSplice_tlb (s : State) (l i : Nat) (f : Splice → Splice) : (s.updSplice l i f).tlb = s.tlb := rfl
@[simp] theorem State.updSplice_ctlb (s : State) (l i : Nat) (f : Splice → Splice) : (s.updSplice l i f).ctlb = s.ctlb := rfl
@[simp] theorem State.updSplice_walkCache (s : State) (l i : Nat) (f : Splice → Splice) : (s.updSplice l i f).walkCache = s.walkCache := rfl
@[simp] theorem State.updSplice_misses (s : State) (l i : Nat) (f : Splice → Splice) : (s.updSplice l i f).misses = s.misses := rfl
@[simp] theorem State.updSplice_l1 (s : State) (l i : Nat) (f : Splice → Splice) : (s.updSplice l i f).l1 = s.l1 := rfl
@[simp] theorem State.updSplice_l2 (s : State) (l i : Nat) (f : Splice → Splice) : (s.updSplice l i f).l2 = s.l2 := rfl
@[simp] theorem State.updSplice_hostCopies (s : State) (l i : Nat) (f : Splice → Splice) : (s.updSplice l i f).hostCopies = s.hostCopies := rfl
@[simp] theorem State.updSplice_tileReads (s : State) (l i : Nat) (f : Splice → Splice) : (s.updSplice l i f).tileReads = s.tileReads := rfl
@[simp] theorem State.updSplice_dropped (s : State) (l i : Nat) (f : Splice → Splice) : (s.updSplice l i f).dropped = s.dropped := rfl
@[simp] theorem State.updSplice_ibuf (s : State) (l i : Nat) (f : Splice → Splice) : (s.updSplice l i f).ibuf = s.ibuf := rfl
@[simp] theorem State.updSplice_aliasLines (s : State) (l i : Nat) (f : Splice → Splice) : (s.updSplice l i f).aliasLines = s.aliasLines := rfl
@[simp] theorem State.updSplice_hostLines (s : State) (l i : Nat) (f : Splice → Splice) : (s.updSplice l i f).hostLines = s.hostLines := rfl
@[simp] theorem State.updSplice_lostLog (s : State) (l i : Nat) (f : Splice → Splice) : (s.updSplice l i f).lostLog = s.lostLog := rfl
@[simp] theorem State.updSplice_launches (s : State) (l i : Nat) (f : Splice → Splice) : (s.updSplice l i f).launches = s.launches := rfl
@[simp] theorem State.updSplice_gangs (s : State) (l i : Nat) (f : Splice → Splice) : (s.updSplice l i f).gangs = s.gangs := rfl
@[simp] theorem State.updSplice_streams (s : State) (l i : Nat) (f : Splice → Splice) : (s.updSplice l i f).streams = s.streams := rfl
@[simp] theorem State.updSplice_marks (s : State) (l i : Nat) (f : Splice → Splice) : (s.updSplice l i f).marks = s.marks := rfl
@[simp] theorem State.updSplice_queues (s : State) (l i : Nat) (f : Splice → Splice) : (s.updSplice l i f).queues = s.queues := rfl
@[simp] theorem State.updSplice_coreCmds (s : State) (l i : Nat) (f : Splice → Splice) : (s.updSplice l i f).coreCmds = s.coreCmds := rfl
@[simp] theorem State.updSplice_matCmds (s : State) (l i : Nat) (f : Splice → Splice) : (s.updSplice l i f).matCmds = s.matCmds := rfl
@[simp] theorem State.updSplice_matTurn (s : State) (l i : Nat) (f : Splice → Splice) : (s.updSplice l i f).matTurn = s.matTurn := rfl
@[simp] theorem State.updSplice_locks (s : State) (l i : Nat) (f : Splice → Splice) : (s.updSplice l i f).locks = s.locks := rfl
@[simp] theorem State.updSplice_xcmds (s : State) (l i : Nat) (f : Splice → Splice) : (s.updSplice l i f).xcmds = s.xcmds := rfl
@[simp] theorem State.updSplice_out (s : State) (l i : Nat) (f : Splice → Splice) : (s.updSplice l i f).out = s.out := rfl
@[simp] theorem State.updSplice_imports (s : State) (l i : Nat) (f : Splice → Splice) : (s.updSplice l i f).imports = s.imports := rfl
@[simp] theorem State.updSplice_buffers (s : State) (l i : Nat) (f : Splice → Splice) : (s.updSplice l i f).buffers = s.buffers := rfl
@[simp] theorem State.updSplice_plans (s : State) (l i : Nat) (f : Splice → Splice) : (s.updSplice l i f).plans = s.plans := rfl
@[simp] theorem State.updSplice_halyardOut (s : State) (l i : Nat) (f : Splice → Splice) : (s.updSplice l i f).halyardOut = s.halyardOut := rfl
@[simp] theorem State.updSplice_quarantine (s : State) (l i : Nat) (f : Splice → Splice) : (s.updSplice l i f).quarantine = s.quarantine := rfl
@[simp] theorem State.updSplice_pages (s : State) (l i : Nat) (f : Splice → Splice) : (s.updSplice l i f).pages = s.pages := rfl
@[simp] theorem State.updSplice_planCount (s : State) (l i : Nat) (f : Splice → Splice) : (s.updSplice l i f).planCount = s.planCount := rfl
@[simp] theorem State.updSplice_hwqs (s : State) (l i : Nat) (f : Splice → Splice) : (s.updSplice l i f).hwqs = s.hwqs := rfl
@[simp] theorem State.updSplice_waitingRecords (s : State) (l i : Nat) (f : Splice → Splice) : (s.updSplice l i f).waitingRecords = s.waitingRecords := rfl
@[simp] theorem State.updSplice_openFaults (s : State) (l i : Nat) (f : Splice → Splice) : (s.updSplice l i f).openFaults = s.openFaults := rfl
@[simp] theorem State.updSplice_nextFaultSeq (s : State) (l i : Nat) (f : Splice → Splice) : (s.updSplice l i f).nextFaultSeq = s.nextFaultSeq := rfl
@[simp] theorem State.updSplice_io (s : State) (l i : Nat) (f : Splice → Splice) : (s.updSplice l i f).io = s.io := rfl
@[simp] theorem State.updSplice_counters (s : State) (l i : Nat) (f : Splice → Splice) : (s.updSplice l i f).counters = s.counters := rfl
@[simp] theorem State.updSplice_arithMHz (s : State) (l i : Nat) (f : Splice → Splice) : (s.updSplice l i f).arithMHz = s.arithMHz := rfl
@[simp] theorem State.updSplice_gated (s : State) (l i : Nat) (f : Splice → Splice) : (s.updSplice l i f).gated = s.gated := rfl
@[simp] theorem State.updSplice_fw (s : State) (l i : Nat) (f : Splice → Splice) : (s.updSplice l i f).fw = s.fw := rfl
@[simp] theorem State.updSplice_guest (s : State) (l i : Nat) (f : Splice → Splice) : (s.updSplice l i f).guest = s.guest := rfl
@[simp] theorem State.updSplice_signals (s : State) (l i : Nat) (f : Splice → Splice) : (s.updSplice l i f).signals = s.signals := rfl
@[simp] theorem State.updSplice_hostReads (s : State) (l i : Nat) (f : Splice → Splice) : (s.updSplice l i f).hostReads = s.hostReads := rfl
@[simp] theorem State.updSplice_sentAnswers (s : State) (l i : Nat) (f : Splice → Splice) : (s.updSplice l i f).sentAnswers = s.sentAnswers := rfl
@[simp] theorem State.updSplice_heldRequests (s : State) (l i : Nat) (f : Splice → Splice) : (s.updSplice l i f).heldRequests = s.heldRequests := rfl
@[simp] theorem State.updSplice_savedCounters (s : State) (l i : Nat) (f : Splice → Splice) : (s.updSplice l i f).savedCounters = s.savedCounters := rfl

@[simp] theorem State.updQueue_agenda (s : State) (p h : Nat) (f : MemQueue → MemQueue) : (s.updQueue p h f).agenda = s.agenda := rfl
@[simp] theorem State.updQueue_cur (s : State) (p h : Nat) (f : MemQueue → MemQueue) : (s.updQueue p h f).cur = s.cur := rfl
@[simp] theorem State.updQueue_last (s : State) (p h : Nat) (f : MemQueue → MemQueue) : (s.updQueue p h f).last = s.last := rfl
@[simp] theorem State.updQueue_turn (s : State) (p h : Nat) (f : MemQueue → MemQueue) : (s.updQueue p h f).turn = s.turn := rfl
@[simp] theorem State.updQueue_ticks (s : State) (p h : Nat) (f : MemQueue → MemQueue) : (s.updQueue p h f).ticks = s.ticks := rfl
@[simp] theorem State.updQueue_clock (s : State) (p h : Nat) (f : MemQueue → MemQueue) : (s.updQueue p h f).clock = s.clock := rfl
@[simp] theorem State.updQueue_seq (s : State) (p h : Nat) (f : MemQueue → MemQueue) : (s.updQueue p h f).seq = s.seq := rfl
@[simp] theorem State.updQueue_nextSid (s : State) (p h : Nat) (f : MemQueue → MemQueue) : (s.updQueue p h f).nextSid = s.nextSid := rfl
@[simp] theorem State.updQueue_nextLaunch (s : State) (p h : Nat) (f : MemQueue → MemQueue) : (s.updQueue p h f).nextLaunch = s.nextLaunch := rfl
@[simp] theorem State.updQueue_mem (s : State) (p h : Nat) (f : MemQueue → MemQueue) : (s.updQueue p h f).mem = s.mem := rfl
@[simp] theorem State.updQueue_badLines (s : State) (p h : Nat) (f : MemQueue → MemQueue) : (s.updQueue p h f).badLines = s.badLines := rfl
@[simp] theorem State.updQueue_retired (s : State) (p h : Nat) (f : MemQueue → MemQueue) : (s.updQueue p h f).retired = s.retired := rfl
@[simp] theorem State.updQueue_tlb (s : State) (p h : Nat) (f : MemQueue → MemQueue) : (s.updQueue p h f).tlb = s.tlb := rfl
@[simp] theorem State.updQueue_ctlb (s : State) (p h : Nat) (f : MemQueue → MemQueue) : (s.updQueue p h f).ctlb = s.ctlb := rfl
@[simp] theorem State.updQueue_walkCache (s : State) (p h : Nat) (f : MemQueue → MemQueue) : (s.updQueue p h f).walkCache = s.walkCache := rfl
@[simp] theorem State.updQueue_misses (s : State) (p h : Nat) (f : MemQueue → MemQueue) : (s.updQueue p h f).misses = s.misses := rfl
@[simp] theorem State.updQueue_l1 (s : State) (p h : Nat) (f : MemQueue → MemQueue) : (s.updQueue p h f).l1 = s.l1 := rfl
@[simp] theorem State.updQueue_l2 (s : State) (p h : Nat) (f : MemQueue → MemQueue) : (s.updQueue p h f).l2 = s.l2 := rfl
@[simp] theorem State.updQueue_hostCopies (s : State) (p h : Nat) (f : MemQueue → MemQueue) : (s.updQueue p h f).hostCopies = s.hostCopies := rfl
@[simp] theorem State.updQueue_tileReads (s : State) (p h : Nat) (f : MemQueue → MemQueue) : (s.updQueue p h f).tileReads = s.tileReads := rfl
@[simp] theorem State.updQueue_dropped (s : State) (p h : Nat) (f : MemQueue → MemQueue) : (s.updQueue p h f).dropped = s.dropped := rfl
@[simp] theorem State.updQueue_ibuf (s : State) (p h : Nat) (f : MemQueue → MemQueue) : (s.updQueue p h f).ibuf = s.ibuf := rfl
@[simp] theorem State.updQueue_aliasLines (s : State) (p h : Nat) (f : MemQueue → MemQueue) : (s.updQueue p h f).aliasLines = s.aliasLines := rfl
@[simp] theorem State.updQueue_hostLines (s : State) (p h : Nat) (f : MemQueue → MemQueue) : (s.updQueue p h f).hostLines = s.hostLines := rfl
@[simp] theorem State.updQueue_lostLog (s : State) (p h : Nat) (f : MemQueue → MemQueue) : (s.updQueue p h f).lostLog = s.lostLog := rfl
@[simp] theorem State.updQueue_launches (s : State) (p h : Nat) (f : MemQueue → MemQueue) : (s.updQueue p h f).launches = s.launches := rfl
@[simp] theorem State.updQueue_gangs (s : State) (p h : Nat) (f : MemQueue → MemQueue) : (s.updQueue p h f).gangs = s.gangs := rfl
@[simp] theorem State.updQueue_streams (s : State) (p h : Nat) (f : MemQueue → MemQueue) : (s.updQueue p h f).streams = s.streams := rfl
@[simp] theorem State.updQueue_splices (s : State) (p h : Nat) (f : MemQueue → MemQueue) : (s.updQueue p h f).splices = s.splices := rfl
@[simp] theorem State.updQueue_marks (s : State) (p h : Nat) (f : MemQueue → MemQueue) : (s.updQueue p h f).marks = s.marks := rfl
@[simp] theorem State.updQueue_coreCmds (s : State) (p h : Nat) (f : MemQueue → MemQueue) : (s.updQueue p h f).coreCmds = s.coreCmds := rfl
@[simp] theorem State.updQueue_matCmds (s : State) (p h : Nat) (f : MemQueue → MemQueue) : (s.updQueue p h f).matCmds = s.matCmds := rfl
@[simp] theorem State.updQueue_matTurn (s : State) (p h : Nat) (f : MemQueue → MemQueue) : (s.updQueue p h f).matTurn = s.matTurn := rfl
@[simp] theorem State.updQueue_locks (s : State) (p h : Nat) (f : MemQueue → MemQueue) : (s.updQueue p h f).locks = s.locks := rfl
@[simp] theorem State.updQueue_xcmds (s : State) (p h : Nat) (f : MemQueue → MemQueue) : (s.updQueue p h f).xcmds = s.xcmds := rfl
@[simp] theorem State.updQueue_out (s : State) (p h : Nat) (f : MemQueue → MemQueue) : (s.updQueue p h f).out = s.out := rfl
@[simp] theorem State.updQueue_imports (s : State) (p h : Nat) (f : MemQueue → MemQueue) : (s.updQueue p h f).imports = s.imports := rfl
@[simp] theorem State.updQueue_buffers (s : State) (p h : Nat) (f : MemQueue → MemQueue) : (s.updQueue p h f).buffers = s.buffers := rfl
@[simp] theorem State.updQueue_plans (s : State) (p h : Nat) (f : MemQueue → MemQueue) : (s.updQueue p h f).plans = s.plans := rfl
@[simp] theorem State.updQueue_halyardOut (s : State) (p h : Nat) (f : MemQueue → MemQueue) : (s.updQueue p h f).halyardOut = s.halyardOut := rfl
@[simp] theorem State.updQueue_quarantine (s : State) (p h : Nat) (f : MemQueue → MemQueue) : (s.updQueue p h f).quarantine = s.quarantine := rfl
@[simp] theorem State.updQueue_pages (s : State) (p h : Nat) (f : MemQueue → MemQueue) : (s.updQueue p h f).pages = s.pages := rfl
@[simp] theorem State.updQueue_planCount (s : State) (p h : Nat) (f : MemQueue → MemQueue) : (s.updQueue p h f).planCount = s.planCount := rfl
@[simp] theorem State.updQueue_hwqs (s : State) (p h : Nat) (f : MemQueue → MemQueue) : (s.updQueue p h f).hwqs = s.hwqs := rfl
@[simp] theorem State.updQueue_waitingRecords (s : State) (p h : Nat) (f : MemQueue → MemQueue) : (s.updQueue p h f).waitingRecords = s.waitingRecords := rfl
@[simp] theorem State.updQueue_openFaults (s : State) (p h : Nat) (f : MemQueue → MemQueue) : (s.updQueue p h f).openFaults = s.openFaults := rfl
@[simp] theorem State.updQueue_nextFaultSeq (s : State) (p h : Nat) (f : MemQueue → MemQueue) : (s.updQueue p h f).nextFaultSeq = s.nextFaultSeq := rfl
@[simp] theorem State.updQueue_io (s : State) (p h : Nat) (f : MemQueue → MemQueue) : (s.updQueue p h f).io = s.io := rfl
@[simp] theorem State.updQueue_counters (s : State) (p h : Nat) (f : MemQueue → MemQueue) : (s.updQueue p h f).counters = s.counters := rfl
@[simp] theorem State.updQueue_arithMHz (s : State) (p h : Nat) (f : MemQueue → MemQueue) : (s.updQueue p h f).arithMHz = s.arithMHz := rfl
@[simp] theorem State.updQueue_gated (s : State) (p h : Nat) (f : MemQueue → MemQueue) : (s.updQueue p h f).gated = s.gated := rfl
@[simp] theorem State.updQueue_fw (s : State) (p h : Nat) (f : MemQueue → MemQueue) : (s.updQueue p h f).fw = s.fw := rfl
@[simp] theorem State.updQueue_guest (s : State) (p h : Nat) (f : MemQueue → MemQueue) : (s.updQueue p h f).guest = s.guest := rfl
@[simp] theorem State.updQueue_signals (s : State) (p h : Nat) (f : MemQueue → MemQueue) : (s.updQueue p h f).signals = s.signals := rfl
@[simp] theorem State.updQueue_hostReads (s : State) (p h : Nat) (f : MemQueue → MemQueue) : (s.updQueue p h f).hostReads = s.hostReads := rfl
@[simp] theorem State.updQueue_sentAnswers (s : State) (p h : Nat) (f : MemQueue → MemQueue) : (s.updQueue p h f).sentAnswers = s.sentAnswers := rfl
@[simp] theorem State.updQueue_heldRequests (s : State) (p h : Nat) (f : MemQueue → MemQueue) : (s.updQueue p h f).heldRequests = s.heldRequests := rfl
@[simp] theorem State.updQueue_savedCounters (s : State) (p h : Nat) (f : MemQueue → MemQueue) : (s.updQueue p h f).savedCounters = s.savedCounters := rfl

@[simp] theorem State.updHwq_agenda (s : State) (p d : Nat) (f : HwQueue → HwQueue) : (s.updHwq p d f).agenda = s.agenda := rfl
@[simp] theorem State.updHwq_cur (s : State) (p d : Nat) (f : HwQueue → HwQueue) : (s.updHwq p d f).cur = s.cur := rfl
@[simp] theorem State.updHwq_last (s : State) (p d : Nat) (f : HwQueue → HwQueue) : (s.updHwq p d f).last = s.last := rfl
@[simp] theorem State.updHwq_turn (s : State) (p d : Nat) (f : HwQueue → HwQueue) : (s.updHwq p d f).turn = s.turn := rfl
@[simp] theorem State.updHwq_ticks (s : State) (p d : Nat) (f : HwQueue → HwQueue) : (s.updHwq p d f).ticks = s.ticks := rfl
@[simp] theorem State.updHwq_clock (s : State) (p d : Nat) (f : HwQueue → HwQueue) : (s.updHwq p d f).clock = s.clock := rfl
@[simp] theorem State.updHwq_seq (s : State) (p d : Nat) (f : HwQueue → HwQueue) : (s.updHwq p d f).seq = s.seq := rfl
@[simp] theorem State.updHwq_nextSid (s : State) (p d : Nat) (f : HwQueue → HwQueue) : (s.updHwq p d f).nextSid = s.nextSid := rfl
@[simp] theorem State.updHwq_nextLaunch (s : State) (p d : Nat) (f : HwQueue → HwQueue) : (s.updHwq p d f).nextLaunch = s.nextLaunch := rfl
@[simp] theorem State.updHwq_mem (s : State) (p d : Nat) (f : HwQueue → HwQueue) : (s.updHwq p d f).mem = s.mem := rfl
@[simp] theorem State.updHwq_badLines (s : State) (p d : Nat) (f : HwQueue → HwQueue) : (s.updHwq p d f).badLines = s.badLines := rfl
@[simp] theorem State.updHwq_retired (s : State) (p d : Nat) (f : HwQueue → HwQueue) : (s.updHwq p d f).retired = s.retired := rfl
@[simp] theorem State.updHwq_tlb (s : State) (p d : Nat) (f : HwQueue → HwQueue) : (s.updHwq p d f).tlb = s.tlb := rfl
@[simp] theorem State.updHwq_ctlb (s : State) (p d : Nat) (f : HwQueue → HwQueue) : (s.updHwq p d f).ctlb = s.ctlb := rfl
@[simp] theorem State.updHwq_walkCache (s : State) (p d : Nat) (f : HwQueue → HwQueue) : (s.updHwq p d f).walkCache = s.walkCache := rfl
@[simp] theorem State.updHwq_misses (s : State) (p d : Nat) (f : HwQueue → HwQueue) : (s.updHwq p d f).misses = s.misses := rfl
@[simp] theorem State.updHwq_l1 (s : State) (p d : Nat) (f : HwQueue → HwQueue) : (s.updHwq p d f).l1 = s.l1 := rfl
@[simp] theorem State.updHwq_l2 (s : State) (p d : Nat) (f : HwQueue → HwQueue) : (s.updHwq p d f).l2 = s.l2 := rfl
@[simp] theorem State.updHwq_hostCopies (s : State) (p d : Nat) (f : HwQueue → HwQueue) : (s.updHwq p d f).hostCopies = s.hostCopies := rfl
@[simp] theorem State.updHwq_tileReads (s : State) (p d : Nat) (f : HwQueue → HwQueue) : (s.updHwq p d f).tileReads = s.tileReads := rfl
@[simp] theorem State.updHwq_dropped (s : State) (p d : Nat) (f : HwQueue → HwQueue) : (s.updHwq p d f).dropped = s.dropped := rfl
@[simp] theorem State.updHwq_ibuf (s : State) (p d : Nat) (f : HwQueue → HwQueue) : (s.updHwq p d f).ibuf = s.ibuf := rfl
@[simp] theorem State.updHwq_aliasLines (s : State) (p d : Nat) (f : HwQueue → HwQueue) : (s.updHwq p d f).aliasLines = s.aliasLines := rfl
@[simp] theorem State.updHwq_hostLines (s : State) (p d : Nat) (f : HwQueue → HwQueue) : (s.updHwq p d f).hostLines = s.hostLines := rfl
@[simp] theorem State.updHwq_lostLog (s : State) (p d : Nat) (f : HwQueue → HwQueue) : (s.updHwq p d f).lostLog = s.lostLog := rfl
@[simp] theorem State.updHwq_launches (s : State) (p d : Nat) (f : HwQueue → HwQueue) : (s.updHwq p d f).launches = s.launches := rfl
@[simp] theorem State.updHwq_gangs (s : State) (p d : Nat) (f : HwQueue → HwQueue) : (s.updHwq p d f).gangs = s.gangs := rfl
@[simp] theorem State.updHwq_streams (s : State) (p d : Nat) (f : HwQueue → HwQueue) : (s.updHwq p d f).streams = s.streams := rfl
@[simp] theorem State.updHwq_splices (s : State) (p d : Nat) (f : HwQueue → HwQueue) : (s.updHwq p d f).splices = s.splices := rfl
@[simp] theorem State.updHwq_marks (s : State) (p d : Nat) (f : HwQueue → HwQueue) : (s.updHwq p d f).marks = s.marks := rfl
@[simp] theorem State.updHwq_queues (s : State) (p d : Nat) (f : HwQueue → HwQueue) : (s.updHwq p d f).queues = s.queues := rfl
@[simp] theorem State.updHwq_coreCmds (s : State) (p d : Nat) (f : HwQueue → HwQueue) : (s.updHwq p d f).coreCmds = s.coreCmds := rfl
@[simp] theorem State.updHwq_matCmds (s : State) (p d : Nat) (f : HwQueue → HwQueue) : (s.updHwq p d f).matCmds = s.matCmds := rfl
@[simp] theorem State.updHwq_matTurn (s : State) (p d : Nat) (f : HwQueue → HwQueue) : (s.updHwq p d f).matTurn = s.matTurn := rfl
@[simp] theorem State.updHwq_locks (s : State) (p d : Nat) (f : HwQueue → HwQueue) : (s.updHwq p d f).locks = s.locks := rfl
@[simp] theorem State.updHwq_xcmds (s : State) (p d : Nat) (f : HwQueue → HwQueue) : (s.updHwq p d f).xcmds = s.xcmds := rfl
@[simp] theorem State.updHwq_out (s : State) (p d : Nat) (f : HwQueue → HwQueue) : (s.updHwq p d f).out = s.out := rfl
@[simp] theorem State.updHwq_imports (s : State) (p d : Nat) (f : HwQueue → HwQueue) : (s.updHwq p d f).imports = s.imports := rfl
@[simp] theorem State.updHwq_buffers (s : State) (p d : Nat) (f : HwQueue → HwQueue) : (s.updHwq p d f).buffers = s.buffers := rfl
@[simp] theorem State.updHwq_plans (s : State) (p d : Nat) (f : HwQueue → HwQueue) : (s.updHwq p d f).plans = s.plans := rfl
@[simp] theorem State.updHwq_halyardOut (s : State) (p d : Nat) (f : HwQueue → HwQueue) : (s.updHwq p d f).halyardOut = s.halyardOut := rfl
@[simp] theorem State.updHwq_quarantine (s : State) (p d : Nat) (f : HwQueue → HwQueue) : (s.updHwq p d f).quarantine = s.quarantine := rfl
@[simp] theorem State.updHwq_pages (s : State) (p d : Nat) (f : HwQueue → HwQueue) : (s.updHwq p d f).pages = s.pages := rfl
@[simp] theorem State.updHwq_planCount (s : State) (p d : Nat) (f : HwQueue → HwQueue) : (s.updHwq p d f).planCount = s.planCount := rfl
@[simp] theorem State.updHwq_waitingRecords (s : State) (p d : Nat) (f : HwQueue → HwQueue) : (s.updHwq p d f).waitingRecords = s.waitingRecords := rfl
@[simp] theorem State.updHwq_openFaults (s : State) (p d : Nat) (f : HwQueue → HwQueue) : (s.updHwq p d f).openFaults = s.openFaults := rfl
@[simp] theorem State.updHwq_nextFaultSeq (s : State) (p d : Nat) (f : HwQueue → HwQueue) : (s.updHwq p d f).nextFaultSeq = s.nextFaultSeq := rfl
@[simp] theorem State.updHwq_io (s : State) (p d : Nat) (f : HwQueue → HwQueue) : (s.updHwq p d f).io = s.io := rfl
@[simp] theorem State.updHwq_counters (s : State) (p d : Nat) (f : HwQueue → HwQueue) : (s.updHwq p d f).counters = s.counters := rfl
@[simp] theorem State.updHwq_arithMHz (s : State) (p d : Nat) (f : HwQueue → HwQueue) : (s.updHwq p d f).arithMHz = s.arithMHz := rfl
@[simp] theorem State.updHwq_gated (s : State) (p d : Nat) (f : HwQueue → HwQueue) : (s.updHwq p d f).gated = s.gated := rfl
@[simp] theorem State.updHwq_fw (s : State) (p d : Nat) (f : HwQueue → HwQueue) : (s.updHwq p d f).fw = s.fw := rfl
@[simp] theorem State.updHwq_guest (s : State) (p d : Nat) (f : HwQueue → HwQueue) : (s.updHwq p d f).guest = s.guest := rfl
@[simp] theorem State.updHwq_signals (s : State) (p d : Nat) (f : HwQueue → HwQueue) : (s.updHwq p d f).signals = s.signals := rfl
@[simp] theorem State.updHwq_hostReads (s : State) (p d : Nat) (f : HwQueue → HwQueue) : (s.updHwq p d f).hostReads = s.hostReads := rfl
@[simp] theorem State.updHwq_sentAnswers (s : State) (p d : Nat) (f : HwQueue → HwQueue) : (s.updHwq p d f).sentAnswers = s.sentAnswers := rfl
@[simp] theorem State.updHwq_heldRequests (s : State) (p d : Nat) (f : HwQueue → HwQueue) : (s.updHwq p d f).heldRequests = s.heldRequests := rfl
@[simp] theorem State.updHwq_savedCounters (s : State) (p d : Nat) (f : HwQueue → HwQueue) : (s.updHwq p d f).savedCounters = s.savedCounters := rfl

@[simp] theorem State.updPlan_agenda (s : State) (h : Nat) (f : Plan → Plan) : (s.updPlan h f).agenda = s.agenda := rfl
@[simp] theorem State.updPlan_cur (s : State) (h : Nat) (f : Plan → Plan) : (s.updPlan h f).cur = s.cur := rfl
@[simp] theorem State.updPlan_last (s : State) (h : Nat) (f : Plan → Plan) : (s.updPlan h f).last = s.last := rfl
@[simp] theorem State.updPlan_turn (s : State) (h : Nat) (f : Plan → Plan) : (s.updPlan h f).turn = s.turn := rfl
@[simp] theorem State.updPlan_ticks (s : State) (h : Nat) (f : Plan → Plan) : (s.updPlan h f).ticks = s.ticks := rfl
@[simp] theorem State.updPlan_clock (s : State) (h : Nat) (f : Plan → Plan) : (s.updPlan h f).clock = s.clock := rfl
@[simp] theorem State.updPlan_seq (s : State) (h : Nat) (f : Plan → Plan) : (s.updPlan h f).seq = s.seq := rfl
@[simp] theorem State.updPlan_nextSid (s : State) (h : Nat) (f : Plan → Plan) : (s.updPlan h f).nextSid = s.nextSid := rfl
@[simp] theorem State.updPlan_nextLaunch (s : State) (h : Nat) (f : Plan → Plan) : (s.updPlan h f).nextLaunch = s.nextLaunch := rfl
@[simp] theorem State.updPlan_mem (s : State) (h : Nat) (f : Plan → Plan) : (s.updPlan h f).mem = s.mem := rfl
@[simp] theorem State.updPlan_badLines (s : State) (h : Nat) (f : Plan → Plan) : (s.updPlan h f).badLines = s.badLines := rfl
@[simp] theorem State.updPlan_retired (s : State) (h : Nat) (f : Plan → Plan) : (s.updPlan h f).retired = s.retired := rfl
@[simp] theorem State.updPlan_tlb (s : State) (h : Nat) (f : Plan → Plan) : (s.updPlan h f).tlb = s.tlb := rfl
@[simp] theorem State.updPlan_ctlb (s : State) (h : Nat) (f : Plan → Plan) : (s.updPlan h f).ctlb = s.ctlb := rfl
@[simp] theorem State.updPlan_walkCache (s : State) (h : Nat) (f : Plan → Plan) : (s.updPlan h f).walkCache = s.walkCache := rfl
@[simp] theorem State.updPlan_misses (s : State) (h : Nat) (f : Plan → Plan) : (s.updPlan h f).misses = s.misses := rfl
@[simp] theorem State.updPlan_l1 (s : State) (h : Nat) (f : Plan → Plan) : (s.updPlan h f).l1 = s.l1 := rfl
@[simp] theorem State.updPlan_l2 (s : State) (h : Nat) (f : Plan → Plan) : (s.updPlan h f).l2 = s.l2 := rfl
@[simp] theorem State.updPlan_hostCopies (s : State) (h : Nat) (f : Plan → Plan) : (s.updPlan h f).hostCopies = s.hostCopies := rfl
@[simp] theorem State.updPlan_tileReads (s : State) (h : Nat) (f : Plan → Plan) : (s.updPlan h f).tileReads = s.tileReads := rfl
@[simp] theorem State.updPlan_dropped (s : State) (h : Nat) (f : Plan → Plan) : (s.updPlan h f).dropped = s.dropped := rfl
@[simp] theorem State.updPlan_ibuf (s : State) (h : Nat) (f : Plan → Plan) : (s.updPlan h f).ibuf = s.ibuf := rfl
@[simp] theorem State.updPlan_aliasLines (s : State) (h : Nat) (f : Plan → Plan) : (s.updPlan h f).aliasLines = s.aliasLines := rfl
@[simp] theorem State.updPlan_hostLines (s : State) (h : Nat) (f : Plan → Plan) : (s.updPlan h f).hostLines = s.hostLines := rfl
@[simp] theorem State.updPlan_lostLog (s : State) (h : Nat) (f : Plan → Plan) : (s.updPlan h f).lostLog = s.lostLog := rfl
@[simp] theorem State.updPlan_launches (s : State) (h : Nat) (f : Plan → Plan) : (s.updPlan h f).launches = s.launches := rfl
@[simp] theorem State.updPlan_gangs (s : State) (h : Nat) (f : Plan → Plan) : (s.updPlan h f).gangs = s.gangs := rfl
@[simp] theorem State.updPlan_streams (s : State) (h : Nat) (f : Plan → Plan) : (s.updPlan h f).streams = s.streams := rfl
@[simp] theorem State.updPlan_splices (s : State) (h : Nat) (f : Plan → Plan) : (s.updPlan h f).splices = s.splices := rfl
@[simp] theorem State.updPlan_marks (s : State) (h : Nat) (f : Plan → Plan) : (s.updPlan h f).marks = s.marks := rfl
@[simp] theorem State.updPlan_queues (s : State) (h : Nat) (f : Plan → Plan) : (s.updPlan h f).queues = s.queues := rfl
@[simp] theorem State.updPlan_coreCmds (s : State) (h : Nat) (f : Plan → Plan) : (s.updPlan h f).coreCmds = s.coreCmds := rfl
@[simp] theorem State.updPlan_matCmds (s : State) (h : Nat) (f : Plan → Plan) : (s.updPlan h f).matCmds = s.matCmds := rfl
@[simp] theorem State.updPlan_matTurn (s : State) (h : Nat) (f : Plan → Plan) : (s.updPlan h f).matTurn = s.matTurn := rfl
@[simp] theorem State.updPlan_locks (s : State) (h : Nat) (f : Plan → Plan) : (s.updPlan h f).locks = s.locks := rfl
@[simp] theorem State.updPlan_xcmds (s : State) (h : Nat) (f : Plan → Plan) : (s.updPlan h f).xcmds = s.xcmds := rfl
@[simp] theorem State.updPlan_out (s : State) (h : Nat) (f : Plan → Plan) : (s.updPlan h f).out = s.out := rfl
@[simp] theorem State.updPlan_imports (s : State) (h : Nat) (f : Plan → Plan) : (s.updPlan h f).imports = s.imports := rfl
@[simp] theorem State.updPlan_buffers (s : State) (h : Nat) (f : Plan → Plan) : (s.updPlan h f).buffers = s.buffers := rfl
@[simp] theorem State.updPlan_halyardOut (s : State) (h : Nat) (f : Plan → Plan) : (s.updPlan h f).halyardOut = s.halyardOut := rfl
@[simp] theorem State.updPlan_quarantine (s : State) (h : Nat) (f : Plan → Plan) : (s.updPlan h f).quarantine = s.quarantine := rfl
@[simp] theorem State.updPlan_pages (s : State) (h : Nat) (f : Plan → Plan) : (s.updPlan h f).pages = s.pages := rfl
@[simp] theorem State.updPlan_planCount (s : State) (h : Nat) (f : Plan → Plan) : (s.updPlan h f).planCount = s.planCount := rfl
@[simp] theorem State.updPlan_hwqs (s : State) (h : Nat) (f : Plan → Plan) : (s.updPlan h f).hwqs = s.hwqs := rfl
@[simp] theorem State.updPlan_waitingRecords (s : State) (h : Nat) (f : Plan → Plan) : (s.updPlan h f).waitingRecords = s.waitingRecords := rfl
@[simp] theorem State.updPlan_openFaults (s : State) (h : Nat) (f : Plan → Plan) : (s.updPlan h f).openFaults = s.openFaults := rfl
@[simp] theorem State.updPlan_nextFaultSeq (s : State) (h : Nat) (f : Plan → Plan) : (s.updPlan h f).nextFaultSeq = s.nextFaultSeq := rfl
@[simp] theorem State.updPlan_io (s : State) (h : Nat) (f : Plan → Plan) : (s.updPlan h f).io = s.io := rfl
@[simp] theorem State.updPlan_counters (s : State) (h : Nat) (f : Plan → Plan) : (s.updPlan h f).counters = s.counters := rfl
@[simp] theorem State.updPlan_arithMHz (s : State) (h : Nat) (f : Plan → Plan) : (s.updPlan h f).arithMHz = s.arithMHz := rfl
@[simp] theorem State.updPlan_gated (s : State) (h : Nat) (f : Plan → Plan) : (s.updPlan h f).gated = s.gated := rfl
@[simp] theorem State.updPlan_fw (s : State) (h : Nat) (f : Plan → Plan) : (s.updPlan h f).fw = s.fw := rfl
@[simp] theorem State.updPlan_guest (s : State) (h : Nat) (f : Plan → Plan) : (s.updPlan h f).guest = s.guest := rfl
@[simp] theorem State.updPlan_signals (s : State) (h : Nat) (f : Plan → Plan) : (s.updPlan h f).signals = s.signals := rfl
@[simp] theorem State.updPlan_hostReads (s : State) (h : Nat) (f : Plan → Plan) : (s.updPlan h f).hostReads = s.hostReads := rfl
@[simp] theorem State.updPlan_sentAnswers (s : State) (h : Nat) (f : Plan → Plan) : (s.updPlan h f).sentAnswers = s.sentAnswers := rfl
@[simp] theorem State.updPlan_heldRequests (s : State) (h : Nat) (f : Plan → Plan) : (s.updPlan h f).heldRequests = s.heldRequests := rfl
@[simp] theorem State.updPlan_savedCounters (s : State) (h : Nat) (f : Plan → Plan) : (s.updPlan h f).savedCounters = s.savedCounters := rfl

@[simp] theorem State.advance_agenda (s : State) (n len : Nat) : (s.advance n len).agenda = s.agenda := rfl
@[simp] theorem State.advance_cur (s : State) (n len : Nat) : (s.advance n len).cur = s.cur := rfl
@[simp] theorem State.advance_last (s : State) (n len : Nat) : (s.advance n len).last = s.last := rfl
@[simp] theorem State.advance_turn (s : State) (n len : Nat) : (s.advance n len).turn = s.turn := rfl
@[simp] theorem State.advance_ticks (s : State) (n len : Nat) : (s.advance n len).ticks = s.ticks := rfl
@[simp] theorem State.advance_clock (s : State) (n len : Nat) : (s.advance n len).clock = s.clock := rfl
@[simp] theorem State.advance_seq (s : State) (n len : Nat) : (s.advance n len).seq = s.seq := rfl
@[simp] theorem State.advance_nextSid (s : State) (n len : Nat) : (s.advance n len).nextSid = s.nextSid := rfl
@[simp] theorem State.advance_nextLaunch (s : State) (n len : Nat) : (s.advance n len).nextLaunch = s.nextLaunch := rfl
@[simp] theorem State.advance_mem (s : State) (n len : Nat) : (s.advance n len).mem = s.mem := rfl
@[simp] theorem State.advance_badLines (s : State) (n len : Nat) : (s.advance n len).badLines = s.badLines := rfl
@[simp] theorem State.advance_retired (s : State) (n len : Nat) : (s.advance n len).retired = s.retired := rfl
@[simp] theorem State.advance_tlb (s : State) (n len : Nat) : (s.advance n len).tlb = s.tlb := rfl
@[simp] theorem State.advance_ctlb (s : State) (n len : Nat) : (s.advance n len).ctlb = s.ctlb := rfl
@[simp] theorem State.advance_walkCache (s : State) (n len : Nat) : (s.advance n len).walkCache = s.walkCache := rfl
@[simp] theorem State.advance_misses (s : State) (n len : Nat) : (s.advance n len).misses = s.misses := rfl
@[simp] theorem State.advance_l1 (s : State) (n len : Nat) : (s.advance n len).l1 = s.l1 := rfl
@[simp] theorem State.advance_l2 (s : State) (n len : Nat) : (s.advance n len).l2 = s.l2 := rfl
@[simp] theorem State.advance_hostCopies (s : State) (n len : Nat) : (s.advance n len).hostCopies = s.hostCopies := rfl
@[simp] theorem State.advance_tileReads (s : State) (n len : Nat) : (s.advance n len).tileReads = s.tileReads := rfl
@[simp] theorem State.advance_dropped (s : State) (n len : Nat) : (s.advance n len).dropped = s.dropped := rfl
@[simp] theorem State.advance_ibuf (s : State) (n len : Nat) : (s.advance n len).ibuf = s.ibuf := rfl
@[simp] theorem State.advance_aliasLines (s : State) (n len : Nat) : (s.advance n len).aliasLines = s.aliasLines := rfl
@[simp] theorem State.advance_hostLines (s : State) (n len : Nat) : (s.advance n len).hostLines = s.hostLines := rfl
@[simp] theorem State.advance_lostLog (s : State) (n len : Nat) : (s.advance n len).lostLog = s.lostLog := rfl
@[simp] theorem State.advance_launches (s : State) (n len : Nat) : (s.advance n len).launches = s.launches := rfl
@[simp] theorem State.advance_gangs (s : State) (n len : Nat) : (s.advance n len).gangs = s.gangs := rfl
@[simp] theorem State.advance_splices (s : State) (n len : Nat) : (s.advance n len).splices = s.splices := rfl
@[simp] theorem State.advance_marks (s : State) (n len : Nat) : (s.advance n len).marks = s.marks := rfl
@[simp] theorem State.advance_queues (s : State) (n len : Nat) : (s.advance n len).queues = s.queues := rfl
@[simp] theorem State.advance_coreCmds (s : State) (n len : Nat) : (s.advance n len).coreCmds = s.coreCmds := rfl
@[simp] theorem State.advance_matCmds (s : State) (n len : Nat) : (s.advance n len).matCmds = s.matCmds := rfl
@[simp] theorem State.advance_matTurn (s : State) (n len : Nat) : (s.advance n len).matTurn = s.matTurn := rfl
@[simp] theorem State.advance_locks (s : State) (n len : Nat) : (s.advance n len).locks = s.locks := rfl
@[simp] theorem State.advance_xcmds (s : State) (n len : Nat) : (s.advance n len).xcmds = s.xcmds := rfl
@[simp] theorem State.advance_out (s : State) (n len : Nat) : (s.advance n len).out = s.out := rfl
@[simp] theorem State.advance_imports (s : State) (n len : Nat) : (s.advance n len).imports = s.imports := rfl
@[simp] theorem State.advance_buffers (s : State) (n len : Nat) : (s.advance n len).buffers = s.buffers := rfl
@[simp] theorem State.advance_plans (s : State) (n len : Nat) : (s.advance n len).plans = s.plans := rfl
@[simp] theorem State.advance_halyardOut (s : State) (n len : Nat) : (s.advance n len).halyardOut = s.halyardOut := rfl
@[simp] theorem State.advance_quarantine (s : State) (n len : Nat) : (s.advance n len).quarantine = s.quarantine := rfl
@[simp] theorem State.advance_pages (s : State) (n len : Nat) : (s.advance n len).pages = s.pages := rfl
@[simp] theorem State.advance_planCount (s : State) (n len : Nat) : (s.advance n len).planCount = s.planCount := rfl
@[simp] theorem State.advance_hwqs (s : State) (n len : Nat) : (s.advance n len).hwqs = s.hwqs := rfl
@[simp] theorem State.advance_waitingRecords (s : State) (n len : Nat) : (s.advance n len).waitingRecords = s.waitingRecords := rfl
@[simp] theorem State.advance_openFaults (s : State) (n len : Nat) : (s.advance n len).openFaults = s.openFaults := rfl
@[simp] theorem State.advance_nextFaultSeq (s : State) (n len : Nat) : (s.advance n len).nextFaultSeq = s.nextFaultSeq := rfl
@[simp] theorem State.advance_io (s : State) (n len : Nat) : (s.advance n len).io = s.io := rfl
@[simp] theorem State.advance_counters (s : State) (n len : Nat) : (s.advance n len).counters = s.counters := rfl
@[simp] theorem State.advance_arithMHz (s : State) (n len : Nat) : (s.advance n len).arithMHz = s.arithMHz := rfl
@[simp] theorem State.advance_gated (s : State) (n len : Nat) : (s.advance n len).gated = s.gated := rfl
@[simp] theorem State.advance_fw (s : State) (n len : Nat) : (s.advance n len).fw = s.fw := rfl
@[simp] theorem State.advance_guest (s : State) (n len : Nat) : (s.advance n len).guest = s.guest := rfl
@[simp] theorem State.advance_signals (s : State) (n len : Nat) : (s.advance n len).signals = s.signals := rfl
@[simp] theorem State.advance_hostReads (s : State) (n len : Nat) : (s.advance n len).hostReads = s.hostReads := rfl
@[simp] theorem State.advance_sentAnswers (s : State) (n len : Nat) : (s.advance n len).sentAnswers = s.sentAnswers := rfl
@[simp] theorem State.advance_heldRequests (s : State) (n len : Nat) : (s.advance n len).heldRequests = s.heldRequests := rfl
@[simp] theorem State.advance_savedCounters (s : State) (n len : Nat) : (s.advance n len).savedCounters = s.savedCounters := rfl

/-- The element that an update replaced is found replaced. -/
theorem find?_updFirst_same (p : α → Bool) (f : α → α) (hf : ∀ x, p x = true → p (f x) = true) : ∀ l : List α,
    (updFirst p f l).find? p = (l.find? p).map f
  | [] => rfl
  | x :: xs => by
    by_cases hp : p x = true
    · simp [updFirst, hp, hf x hp]
    · simp [updFirst, hp, find?_updFirst_same p f hf xs]

/-- Another element is found as before. -/
theorem find?_updFirst_other (p q : α → Bool) (f : α → α) (hq : ∀ x, p x = true → q (f x) = false ∧ q x = false) : ∀ l : List α,
    (updFirst p f l).find? q = l.find? q
  | [] => rfl
  | x :: xs => by
    by_cases hp : p x = true
    · simp [updFirst, hp, hq x hp]
    · simp [updFirst, hp, List.find?_cons, find?_updFirst_other p q f hq xs]

/-- A gang after an update of it. -/
theorem State.gang?_updGang (s : State) (l k : Nat) (f : Gang → Gang)
    (hf : ∀ g, (f g).launch = g.launch ∧ (f g).idx = g.idx) : (s.updGang l k f).gang? l k = (s.gang? l k).map f :=
  find?_updFirst_same _ f (fun g h => by simpa [hf g] using h) s.gangs

/-- Another gang after an update of one. -/
theorem State.gang?_updGang_other (s : State) (l k l' k' : Nat) (f : Gang → Gang)
    (hf : ∀ g, (f g).launch = g.launch ∧ (f g).idx = g.idx) (h : ¬(l' = l ∧ k' = k)) :
    (s.updGang l k f).gang? l' k' = s.gang? l' k' :=
  find?_updFirst_other _ _ f (fun g hg => by
    simp only [Bool.and_eq_true, beq_iff_eq] at hg
    have : ¬(g.launch = l' ∧ g.idx = k') := fun e => h ⟨e.1 ▸ hg.1, e.2 ▸ hg.2⟩
    simpa [hf g] using this) s.gangs

/-- A stream after an update of it. -/
theorem State.stream?_updStream (s : State) (n : Nat) (f : Stream → Stream) (hf : ∀ t, (f t).sid = t.sid) :
    (s.updStream n f).stream? n = (s.stream? n).map f :=
  find?_updFirst_same _ f (fun t h => by simpa [hf t] using h) s.streams

/-- Another stream after an update of one. -/
theorem State.stream?_updStream_other (s : State) (n m : Nat) (f : Stream → Stream) (hf : ∀ t, (f t).sid = t.sid) (h : m ≠ n) :
    (s.updStream n f).stream? m = s.stream? m :=
  find?_updFirst_other _ _ f (fun t ht => by
    simp only [beq_iff_eq] at ht
    simp [hf t, ht, Ne.symm h]) s.streams

@[simp] theorem State.stream?_updGang (s : State) (l k : Nat) (f : Gang → Gang) (n : Nat) :
    (s.updGang l k f).stream? n = s.stream? n := rfl
@[simp] theorem State.gang?_updStream (s : State) (n : Nat) (f : Stream → Stream) (l k : Nat) :
    (s.updStream n f).gang? l k = s.gang? l k := rfl

/-- What an issued instruction comes to: nothing issues without a stream. -/
theorem State.issue_none (s : State) (i : Issue) (eff : Stream → Who → State → Res) (h : s.cur.bind s.stream? = none) :
    s.issue i eff = .fault .noIssuingStream := by simp [State.issue, h]

/-- An instruction of a stream whose older work is done runs at once, at a commit point. -/
theorem State.issue_drained (s : State) (i : Issue) (eff : Stream → Who → State → Res) {t : Stream}
    (h : s.cur.bind s.stream? = some t) (hd : s.drained t = true) (hi : i.settleFirst = false) :
    s.issue i eff = .next (s.finish t i false (eff t
      { sid := t.sid, seq := s.seq, spec := false, alone := t.homes.all fun k => decide ((s.streamsOf t.launch k).length ≤ 1), tick := s.ticks } s)) := by
  simp [State.issue, h, State.speculative, hd, hi]

end Sys2Proof.Machine
end

