-- ==== Sys2Proof/Laws/Visible.lean ====
section
/-! SUPPORT. What caches, directories and the watch table change (R84 to R87, R285), and what one write does that no signature, window or
region answers to (R87, R89): the laws of `Cached` and `CachedWith`. -/

namespace Sys2Proof.Machine

/-! `Cached`: which fields it leaves alone. -/

theorem Cached.refl (s : State) : Cached s s := ⟨rfl, rfl⟩

theorem Cached.trans {a b c : State} (h : Cached a b) (k : Cached b c) : Cached a c := by
  refine ⟨k.1.trans h.1, ?_⟩
  obtain ⟨-, h⟩ := h
  obtain ⟨-, k⟩ := k
  rw [h] at k
  exact k

theorem Cached.mem {s s' : State} (h : Cached s s') : s'.mem = s.mem := (congrArg State.mem h.2 :)
theorem Cached.gangs {s s' : State} (h : Cached s s') : s'.gangs = s.gangs := (congrArg State.gangs h.2 :)
theorem Cached.launches {s s' : State} (h : Cached s s') : s'.launches = s.launches := (congrArg State.launches h.2 :)
theorem Cached.io {s s' : State} (h : Cached s s') : s'.io = s.io := (congrArg State.io h.2 :)
theorem Cached.fw {s s' : State} (h : Cached s s') : s'.fw = s.fw := (congrArg State.fw h.2 :)
theorem Cached.badLines {s s' : State} (h : Cached s s') : s'.badLines = s.badLines := (congrArg State.badLines h.2 :)
theorem Cached.splices {s s' : State} (h : Cached s s') : s'.splices = s.splices := (congrArg State.splices h.2 :)
theorem Cached.queues {s s' : State} (h : Cached s s') : s'.queues = s.queues := (congrArg State.queues h.2 :)
theorem Cached.owned {s s' : State} (h : Cached s s') : s'.guest.owned = s.guest.owned :=
  (congrArg (fun s : State => s.guest.owned) h.2 :)

theorem State.windows_congr {s s' : State} (h : s'.io = s.io) : s'.windows = s.windows := by unfold State.windows; rw [h]

/-- Nothing that makes a state calm is in a cache. -/
theorem Cached.calm {s s' : State} (h : Cached s s') (c : Calm s) : Calm s' :=
  ⟨h.gangs ▸ c.1, (State.windows_congr h.io).trans c.2, h.launches ▸ c.3, h.owned.trans c.4, h.badLines.trans c.5⟩

theorem CachedWith.mem {s s' : State} {m : Memory} (h : CachedWith s m s') : s'.mem = m := Cached.mem h

theorem CachedWith.calm {s s' : State} {m : Memory} (h : CachedWith s m s') (c : Calm s) : Calm s' :=
  Cached.calm (s := { s with mem := m }) h ⟨c.1, c.2, c.3, c.4, c.5⟩

theorem CachedWith.trans {a b c : State} {m n : Memory} (h : CachedWith a m b) (k : CachedWith b n c) : CachedWith a n c := by
  refine ⟨k.1.trans h.1, ?_⟩
  obtain ⟨-, h⟩ := h
  obtain ⟨-, k⟩ := k
  rw [h] at k
  exact k

/-! The operations of the caches. -/

theorem State.count_cached (s : State) (bank ev pasid n : Nat) : Cached s (s.count bank ev pasid n) := ⟨rfl, rfl⟩

theorem State.touchWatch_cached (s : State) (die : Option Nat) (hit : Stream → LinePlace → Bool) : Cached s (s.touchWatch die hit) := by
  refine ⟨?_, rfl⟩
  simp only [State.touchWatch, List.map_map]
  refine List.map_congr_left fun t _ => ?_
  exact (apply_ite Stream.unnoted _ _ _).trans (ite_self t.unnoted)

theorem State.dropL1_cached (s : State) (cores : Nat → Bool) (pa : Nat) : Cached s (s.dropL1 cores pa) := ⟨rfl, rfl⟩

theorem State.dropL2_cached (s : State) (die pa : Nat) : Cached s (s.dropL2 die pa) := by
  unfold State.dropL2
  exact (Cached.trans (b := { s.dropL1 _ _ with l2 := _, hostLines := _, aliasLines := _ }) ⟨rfl, rfl⟩ (State.touchWatch_cached ..))

theorem State.evictL2_cached (s : State) (die pa : Nat) : Cached s (s.evictL2 die pa) := by
  unfold State.evictL2
  exact (s.dropL2_cached die pa).trans ⟨rfl, rfl⟩

theorem State.putWay_cached (s : State) (die pa way : Nat) (st : L2State) : Cached s (s.putWay die pa way st) := ⟨rfl, rfl⟩

theorem State.fillWay_cached (s : State) (u : Filler) (pa : Nat) (st : L2State) : Cached s (s.fillWay u pa st) := by
  unfold State.fillWay
  simp only
  split
  · exact s.putWay_cached ..
  · split
    · exact s.putWay_cached ..
    · exact (s.evictL2_cached u.die _).trans (State.putWay_cached ..)
    · exact Cached.refl s

theorem State.putL2_cached (s : State) (u : Filler) (pa : Nat) (st : L2State) : Cached s (s.putL2 u pa st) := by
  unfold State.putL2
  split
  · exact ⟨rfl, rfl⟩
  · exact s.fillWay_cached u pa st

theorem State.missL2_cached (s : State) (u : Filler) (pa : Nat) : Cached s (s.missL2 u pa) := by
  unfold State.missL2
  split
  · exact Cached.refl s
  · exact s.count_cached ..

theorem State.readL2_cached (s : State) (die pasid pa : Nat) : Cached s (s.readL2 die pasid pa) := by
  unfold State.readL2
  split
  · exact Cached.refl s
  · refine Cached.trans ?_ (State.putL2_cached ..)
    split
    · exact (State.missL2_cached ..).trans ⟨rfl, rfl⟩
    · exact State.missL2_cached ..

theorem State.evictL1_cached (s : State) (core pa : Nat) : Cached s (s.evictL1 core pa) := ⟨rfl, rfl⟩

theorem State.readL1_cached (s : State) (core pasid pa : Nat) : Cached s (s.readL1 core pasid pa) := by
  unfold State.readL1
  refine (s.readL2_cached (dieOf core) pasid pa).trans ?_
  simp only
  split
  · exact Cached.refl _
  · split
    · exact ⟨rfl, rfl⟩
    · split
      · exact (State.evictL1_cached ..).trans ⟨rfl, rfl⟩
      · exact Cached.refl _

theorem State.invalidateLines_cached (s : State) (hit : Nat → Bool) : Cached s (s.invalidateLines hit) := ⟨rfl, rfl⟩

theorem State.ownLine_cached (s : State) (by' : Option Filler) (core : Option Nat) (pa : Nat) : Cached s (s.ownLine by' core pa) := by
  unfold State.ownLine
  cases by' with
  | none => exact ⟨rfl, rfl⟩
  | some u =>
    refine Cached.trans ?_ (State.putL2_cached ..)
    simp only
    generalize h : State.dropL1 _ _ pa = s1
    have k : Cached s s1 := h ▸ ⟨rfl, rfl⟩
    refine k.trans ((s1.missL2_cached u pa).trans ?_)
    split <;> exact ⟨rfl, rfl⟩

/-! Writes in a calm state. -/

/-- Where no gang has a read signature, a write tests none. -/
theorem State.testSignatures_quiet {s : State} (h : ∀ g ∈ s.gangs, g.sig = []) (w : Option Writer) (hit : Gang → LinePlace → Bool) :
    s.testSignatures w hit = s := by
  have : (s.gangs.filter fun g => g.sig.any (hit g) && s.testsOf w g) = [] :=
    List.filter_eq_nil_iff.mpr fun g hg => by simp [h g hg]
  simp [State.testSignatures, this]

theorem State.aliasOf_calm {s : State} (h : s.windows = []) (pa : Nat) : s.aliasOf pa = [] := by simp [State.aliasOf, h]

/-- One line written in a calm state: its bytes are in memory, and beyond caches and watches nothing else has changed. -/
theorem State.storeLine_calm {s : State} (c : Calm s) (w : Option Writer) (die : Option Filler) (whole : Bool) (cells : List Host.Cell) :
    CachedWith s (cells.foldl (fun (m : Memory) (c : Host.Cell) => m.set c.1 c.2) s.mem) (s.storeLine w die whole cells) := by
  match cells with
  | [] => exact ⟨rfl, rfl⟩
  | (a, b) :: rest =>
    simp only [State.storeLine]
    generalize ho : s.ownLine die (w.bind fun w => (s.gang? w.1 w.2.1).bind Gang.core) (lineOf a) = o
    have o1 : Cached s o := ho ▸ s.ownLine_cached ..
    have oc : Calm o := o1.calm c
    have e : ((a, b) :: rest).flatMap (fun (c : Host.Cell) => o.aliasOf c.1) = [] := by
      simp [State.aliasOf_calm oc.windows]
    have bad : o.badLines = [] := oc.errors
    simp only [e, List.isEmpty_nil, if_true, bad, List.filter_nil, ite_self]
    rw [State.testSignatures_quiet (by exact oc.signatures)]
    refine Cached.trans ?_ (State.touchWatch_cached ..)
    rw [o1.mem]
    refine ⟨o1.1, ?_⟩
    have hb : s.badLines = [] := c.errors
    obtain ⟨-, h⟩ := o1
    rw [h]
    simp [hb]

/-- No region answers to a write in a calm state. -/
theorem State.regionsOf_calm {s : State} (c : Calm s) (pa : Nat) : s.regionsOf pa = [] := by
  rw [State.regionsOf, List.flatMap_eq_nil_iff]
  intro x hx
  rw [List.filterMap_eq_nil_iff]
  intro i hi
  simp [c.regions x hx i (List.mem_range.mp hi)]

theorem State.logLine_calm {s : State} (c : Calm s) (pa : Nat) : s.logLine pa = .ok s := by
  simp [State.logLine, s.regionsOf_calm c]

theorem State.lineBusy_calm {s : State} (c : Calm s) (pa : Nat) : s.lineBusy pa = false := by
  simp [State.lineBusy, State.lineHeld, s.regionsOf_calm c, c.guest]

/-! Bytes by lines. -/

theorem Memory.foldl_cells : ∀ (bs : List Byte) (m : Memory) (a : Nat),
    (cellsOf a bs).foldl (fun (m : Memory) (c : Host.Cell) => m.set c.1 c.2) m = m.write a bs
  | [], _, _ => rfl
  | b :: bs, m, a => by simpa [cellsOf, Memory.write] using Memory.foldl_cells bs (m.set a b) (a + 1)

/-- Cells that follow one another: a first group that starts with the first cell, then groups of higher lines; nothing is lost. -/
theorem byLine_cells : ∀ (bs : List Byte) (a : Nat) (b : Byte), ∃ g rest, byLine (cellsOf a (b :: bs)) = ((a, b) :: g) :: rest ∧
    ((a, b) :: g) ++ rest.flatten = cellsOf a (b :: bs) ∧ ∀ h ∈ rest, ∃ x t, h = x :: t ∧ lineOf a < lineOf x.1
  | [], a, b => ⟨[], [], rfl, rfl, by simp⟩
  | c :: bs, a, b => by
    obtain ⟨g, rest, h1, h2, h3⟩ := byLine_cells bs (a + 1) c
    have hle : lineOf a ≤ lineOf (a + 1) := by unfold lineOf; omega
    have e : cellsOf a (b :: c :: bs) = (a, b) :: cellsOf (a + 1) (c :: bs) := rfl
    rw [e]
    simp only [byLine, h1]
    by_cases hl : lineOf (a + 1) = lineOf a
    · refine ⟨(a + 1, c) :: g, rest, ?_, by simpa using h2, fun h hh => ?_⟩
      · have k : rest.filter (· != (a + 1, c) :: g) = rest := List.filter_eq_self.mpr fun h hh => by
          obtain ⟨x, t, rfl, hx⟩ := h3 h hh
          simp only [bne_iff_ne, ne_eq, List.cons.injEq, not_and]
          rintro rfl; simp at hx
        simp [hl, k]
      · obtain ⟨x, t, rfl, hx⟩ := h3 h hh
        exact ⟨x, t, rfl, by omega⟩
    · refine ⟨[], ((a + 1, c) :: g) :: rest, ?_, by simpa using h2, fun h hh => ?_⟩
      · simp only [List.find?_cons, beq_eq_false_iff_ne.mpr hl]
        split
        · next y hy =>
          obtain ⟨x, t, rfl, hx⟩ := h3 y (List.mem_of_find?_eq_some hy)
          have := List.find?_some hy
          simp only [beq_iff_eq] at this; omega
        · rfl
      · rcases List.mem_cons.mp hh with rfl | hh
        · exact ⟨_, _, rfl, lt_of_le_of_ne hle (Ne.symm hl)⟩
        · obtain ⟨x, t, rfl, hx⟩ := h3 h hh
          exact ⟨x, t, rfl, by omega⟩

theorem byLine_flatten (bs : List Byte) (a : Nat) : (byLine (cellsOf a bs)).flatten = cellsOf a bs := by
  cases bs with
  | nil => rfl
  | cons b bs => obtain ⟨g, rest, h1, h2, -⟩ := byLine_cells bs a b; rw [h1]; exact h2

theorem byLine_ne_nil (bs : List Byte) (a : Nat) : ∀ g ∈ byLine (cellsOf a bs), g ≠ [] := by
  cases bs with
  | nil => intro g h; simp [cellsOf, byLine] at h
  | cons b bs =>
    obtain ⟨g, rest, h1, -, h3⟩ := byLine_cells bs a b
    rw [h1]
    intro h hh
    rcases List.mem_cons.mp hh with rfl | hh
    · simp
    · obtain ⟨x, t, rfl, -⟩ := h3 h hh; simp

theorem cellsOf_range : ∀ (bs : List Byte) (a : Nat), ∀ c ∈ cellsOf a bs, a ≤ c.1 ∧ c.1 < a + bs.length
  | [], _, c, h => by simp [cellsOf] at h
  | b :: bs, a, c, h => by
    rcases List.mem_cons.mp h with rfl | h
    · simp
    · have := cellsOf_range bs (a + 1) c h
      simp only [List.length_cons]; omega

/-- Bytes written by an engine or the host in a calm state. -/
theorem State.storeLogged_calm {s : State} (c : Calm s) (die : Option Filler) (a : Nat) (bytes : List Byte) :
    ∃ t, s.storeLogged die a bytes = .ok t ∧ CachedWith s (s.mem.write a bytes) t := by
  have fold : ∀ (gs : List (List Host.Cell)) (s : State), Calm s → (∀ g ∈ gs, g ≠ []) →
      ∃ t, gs.foldl (fun acc g => match acc, g with
        | .ok s, (pa, _) :: _ => match s.logLine pa with
          | .ok s => .ok (s.storeLine none die (g.length == 64) g)
          | r => r
        | r, _ => r) (Logged.ok s) = .ok t ∧
        CachedWith s (gs.flatten.foldl (fun (m : Memory) (c : Host.Cell) => m.set c.1 c.2) s.mem) t := by
    intro gs
    induction gs with
    | nil => exact fun s _ _ => ⟨s, rfl, rfl, rfl⟩
    | cons g gs ih =>
      intro s c h
      match g, h g (by simp) with
      | x :: g, _ =>
        have k := State.storeLine_calm c none die ((x :: g).length == 64) (x :: g)
        obtain ⟨t, ht, kt⟩ := ih _ (k.calm c) fun g hg => h g (by simp [hg])
        refine ⟨t, ?_, ?_⟩
        · simp only [List.foldl_cons, s.logLine_calm c]; exact ht
        · rw [k.mem] at kt
          simpa [List.foldl_append] using k.trans kt
  obtain ⟨t, ht, k⟩ := fold (byLine (cellsOf a bytes)) s c (byLine_ne_nil bytes a)
  rw [byLine_flatten, Memory.foldl_cells] at k
  exact ⟨t, ht, k⟩

/-- An engine's write of one line in a calm state, through a translation whose leaf has A and D. -/
theorem State.engineWriteLine_calm {s : State} (c : Calm s) {die : Option Nat} {pasid va : Nat} {b : Byte} {g : List Host.Cell} {x : Xlat}
    (h : s.engineAccess pasid (toWord va) .store die = .ok (s, x)) (hk : x.kind < 2) :
    ∃ t, s.engineWriteLine die pasid ((va, b) :: g) = .ok t () ∧ CachedWith s (s.mem.write x.pa (b :: g.map (·.2))) t := by
  obtain ⟨t, ht, k⟩ := s.storeLogged_calm c (die.map fun d => ⟨d, pasid⟩) x.pa (b :: g.map (·.2))
  refine ⟨t, ?_, k⟩
  have w : Access.store.writes = true := rfl
  have hl : s.engineLine die pasid (toWord va) .store = .ok s x.pa := by
    simp [State.engineLine, h, w, s.lineBusy_calm c, c.guest, Nat.not_le.mpr hk]
  simp [State.engineWriteLine, hl, EngineRes.bind, ht]

end Sys2Proof.Machine
end

