-- ==== Sys2Proof/Tests/Slice0.lean ====
section
/-! SUPPORT. Tests: the ill-formed terms that WellFormed refuses, one word of each constructor written out from the spec, and for each
statement a state and operands that meet its hypotheses (witness_…). -/

set_option Elab.async false

namespace Sys2Proof.Tests
open Sys2Proof.Machine

def half (a d : BitVec 5) (h : Bool) : HalfFields := { a, d, h }
def vr (x : BitVec 2) (b a d : BitVec 6) (t : BitVec 3) (h : Bool) : VRFields := { x, b, a, d, t, h }
def si (imm : BitVec 16) (d : BitVec 6) (h : Bool) : SIFields := { imm, d, h }
def sr (n : BitVec 8) (d : BitVec 6) (h : Bool) : SRFields := { n, d, h }
def mem (mode : BitVec 2) (b a d : BitVec 6) (w : BitVec 3) (h : Bool) : MFields := { mode, b, a, d, w, h }
def bra (off : BitVec 14) (c : BitVec 5) (n w p u h : Bool) : BRFields := { off, c, n, w, p, u, h }
def jmp (imm : BitVec 14) (a : BitVec 6) (h : Bool) : JFields := { imm, a, h }
def mat (sg clr : Bool) (aux : BitVec 6) (bm am : BitVec 3) (c : BitVec 6) (sub : BitVec 3) (h : Bool) : XFields :=
  { sg, clr, aux, bm, am, c, sub, h }
def kw (b a d : BitVec 6) (h : Bool) : KFields := { b, a, d, h }

/-- Every word of n bytes decodes to the instruction beside it. -/
abbrev reads (n : Nat) (ws : List (Nat × Instr)) : Prop := ∀ p ∈ ws, decode (leBytes n p.1) = .instr p.2 n


/-! Ill-formed terms, one for each check of WellFormed (R28 to R43). -/

theorem test_wf_vector_types : (Instr.iadd (vr 0 1 2 3 5 false)).wf = false ∧ (Instr.fadd (vr 0 1 2 3 7 false)).wf = false ∧
    (Instr.bfx (vr 0 1 2 3 4 false)).wf = false ∧ (Instr.frcp (vr 0 0 2 3 4 false)).wf = false ∧
    (Instr.frsq (vr 0 0 2 3 0 false)).wf = false ∧ (Instr.fscale (vr 0 0 2 3 4 false)).wf = false ∧
    (Instr.fdot2 (vr 0 1 2 3 1 false)).wf = false ∧ (Instr.cbld (vr 0 0 2 0 1 false)).wf = false ∧
    (Instr.cbst (vr 0 0 0 2 1 false)).wf = false ∧ (Instr.shfl (vr 0 1 2 3 1 false)).wf = false ∧
    (Instr.perm (vr 0 1 2 3 4 false)).wf = false ∧ (Instr.ballot (vr 0 0 2 3 1 false)).wf = false := by decide

theorem test_wf_vector_operands : (Instr.iadd (vr 3 1 2 3 0 false)).wf = false ∧ (Instr.iadd (vr 2 8 2 3 4 false)).wf = false ∧
    (Instr.iadd (vr 2 7 2 3 4 false)).wf = true ∧ (Instr.fadd (vr 3 1 2 3 0 false)).wf = false ∧
    (Instr.fadd (vr 2 1 2 3 4 false)).wf = false ∧ (Instr.mov (vr 0 1 2 3 0 false)).wf = false ∧
    (Instr.mov (vr 1 0 2 3 0 false)).wf = false ∧ (Instr.cvt (vr 1 1 2 3 0 false)).wf = false ∧
    (Instr.cvt (vr 0 6 2 3 0 false)).wf = false ∧ (Instr.cbld (vr 0 0 2 1 2 false)).wf = false ∧
    (Instr.cbst (vr 0 0 1 2 2 false)).wf = false := by decide

theorem test_wf_cross_lane : (Instr.shfl (vr 1 32 2 3 0 false)).wf = false ∧ (Instr.bcast (vr 0 1 2 3 0 false)).wf = false ∧
    (Instr.perm (vr 1 1 2 3 0 false)).wf = false ∧ (Instr.mred (vr 1 0 2 3 0 false)).wf = false ∧
    (Instr.scan (vr 2 0 2 3 0 false)).wf = false ∧ (Instr.red (vr 0 6 2 3 0 false)).wf = false ∧
    (Instr.red (vr 0 11 2 3 0 false)).wf = false ∧ (Instr.red (vr 0 16 2 3 0 false)).wf = false ∧
    (Instr.red (vr 0 0 2 3 5 false)).wf = false ∧ (Instr.red (vr 0 8 2 3 7 false)).wf = false ∧
    (Instr.ballot (vr 0 0 2 16 0 false)).wf = false ∧ (Instr.mset (vr 0 0 2 0 0 false)).wf = false ∧
    (Instr.first (vr 0 0 16 3 0 false)).wf = false ∧ (Instr.movvs (vr 0 1 2 3 0 false)).wf = false ∧
    (Instr.iota (vr 2 1 1 3 0 false)).wf = false ∧ (Instr.iota (vr 0 1 0 3 0 false)).wf = false ∧
    (Instr.iota (vr 2 8 0 3 4 false)).wf = false := by decide

theorem test_wf_prefix :
    let p : Prefix := { sat := false, z := false, cv := false, c := 0, mask := 0, rnd := 0 }
    let f := vr 0 1 2 3 1 false
    (Instr.prefixedInstruction { p with rnd := 7 } .fadd f).wf = false ∧
      (Instr.prefixedInstruction { p with c := 1 } .imad f).wf = false ∧
      (Instr.prefixedInstruction { p with sat := true } .imin f).wf = false ∧
      (Instr.prefixedInstruction { p with cv := true } .iadd f).wf = false ∧
      (Instr.prefixedInstruction { p with rnd := 1 } .iadd f).wf = false ∧
      (Instr.prefixedInstruction p .iadd (vr 3 1 2 3 1 false)).wf = false ∧
      (Instr.prefixedInstruction { p with sat := true } .imad f).wf = true := by decide

theorem test_wf_scalar_and_special : (Instr.sadd (vr 1 1 2 3 0 false)).wf = false ∧ (Instr.sadd (vr 3 1 2 3 0 false)).wf = false ∧
    (Instr.sadd (vr 0 1 2 3 4 false)).wf = false ∧ (Instr.smov (vr 0 1 2 3 0 false)).wf = false ∧
    (Instr.getsr (sr 21 0 false)).wf = false ∧ (Instr.setsr (sr 14 0 false)).wf = false := by decide

theorem test_wf_memory : (Instr.ld (mem 3 1 2 4 0 false)).wf = false ∧ (Instr.ld (mem 0 1 2 5 4 false)).wf = false ∧
    (Instr.st (mem 0 1 2 4 5 false)).wf = false ∧ (Instr.atom (mem 0 1 2 5 7 false)).wf = false ∧
    (Instr.pref (mem 0 1 2 0 5 false)).wf = false ∧ (Instr.zero (mem 0 1 2 1 0 false)).wf = false ∧
    (Instr.commit (mem 0 0 0 1 0 false)).wf = false := by decide

theorem test_wf_control : (Instr.jmp (jmp 4 1 false)).wf = false ∧ (Instr.jmpReg (jmp 4 1 false)).wf = false ∧
    (Instr.ret (jmp 0 1 false)).wf = false ∧ (Instr.rte (jmp 1 0 false)).wf = false := by decide

theorem test_wf_matrix : (Instr.mma (mat false false 0 0 0 16 0 false)).wf = false ∧ (Instr.mma (mat false false 1 0 0 0 0 false)).wf = false ∧
    (Instr.mma (mat false false 0 0 0 0 1 false)).wf = false ∧ (Instr.mmas (mat false false 0 0 0 0 2 false)).wf = false ∧
    (Instr.mmat (mat true false 0 0 0 0 0 false)).wf = false ∧ (Instr.mfence (mat false true 0 0 0 0 0 false)).wf = false ∧
    (Instr.mwait (mat false false 0 1 0 0 0 false)).wf = false ∧ (Instr.accld (mat false false 0 1 0 0 0 false)).wf = false ∧
    (Instr.accldZero (mat false false 0 0 1 0 1 false)).wf = false ∧ (Instr.mfence (mat false false 0 0 0 1 0 false)).wf = false ∧
    (Instr.omset (mat false false 1 0 0 0 0 false)).wf = false := by decide

theorem test_wf_knots_and_queues : (Instr.qpush (kw 1 0 4 false)).wf = false ∧ (Instr.qpop (kw 0 0 5 false)).wf = false ∧
    (Instr.qtry (kw 1 0 2 false)).wf = false ∧ (Instr.xput (kw 0 1 2 false)).wf = false ∧ (Instr.xput (kw 0 2 1 false)).wf = false ∧
    (Instr.qlen (kw 1 0 0 false)).wf = false ∧ (Instr.hfire (kw 0 0 1 false)).wf = false ∧ (Instr.kfree (kw 1 0 0 false)).wf = false ∧
    (Instr.knew (kw 0 0 1 false)).wf = false ∧ (Instr.racq (kw 0 1 0 false)).wf = false ∧ (Instr.ckmark (kw 0 1 0 false)).wf = false ∧
    (Instr.ckroll (kw 1 0 0 false)).wf = false := by decide

/-! Words that R25, R41 and R43 call illegal, and the spec's own pairs (R41, R181). -/

theorem test_decode_illegal : decode [2, 0] = .illegal 2 2 ∧ decode (leBytes 4 0xC0000001) = .illegal 0xC0000001 4 ∧
    decode (leBytes 4 0x80000001) = .instr (.iadd (vr 2 0 0 0 0 false)) 4 ∧
    decode (leBytes 4 0x014D01FD ++ leBytes 4 0x0C2CA201) = .illegal 0x0C2CA201014D01FD 8 := by decide

theorem test_decode_pairs :
    decode (leBytes 4 0x014D01FD ++ leBytes 4 0x0C2CA21D) = .instr (.prefixedInstruction
      { sat := true, z := false, cv := true, c := 13, mask := 0, rnd := 0 } .imad (vr 0 12 11 10 1 false)) 8 ∧
    decode (leBytes 4 0x000035FD ++ leBytes 4 0x06144481) = .instr (.prefixedInstruction
      { sat := false, z := false, cv := false, c := 0, mask := 3, rnd := 2 } .fadd (vr 0 6 5 4 2 false)) 8 ∧
    decode (leBytes 2 0x38C4) = .instr (.iadd16 (half 7 3 false)) 2 ∧ decode [0, 0] = .instr .nop 2 ∧
    decode (leBytes 4 0x1FD) = .more 6 := by decide

theorem test_decode_printed : reads 4 [
    (0x14085BE1, .pkt (kw 20 2 5 false)), (0x0A1001F5, .warm (kw 10 4 0 false)),
    (0x000803B5, .yieldContinuation (jmp 2 0 false)), (0x80308573, .ld (mem 2 0 12 8 2 true)),
    (0x80348575, .st (mem 2 0 13 8 2 false)), (0x46088771, .ld (mem 1 6 2 8 3 false)),
    (0x001081E5, .qpush (kw 0 4 8 false)), (0x001083E5, .qpop (kw 0 4 8 false)), (0x0C1085E5, .qtry (kw 12 4 8 false)),
    (0x001057E5, .qlen (kw 0 4 5 false)), (0x071859E5, .spawn (kw 7 6 5 false))] := by decide +kernel

/-- Words written out from R23, R24, with every field set. -/
theorem test_decode_half : reads 2 [
    (0xAA86, .iadd16 (half 0x15 10 true)),
    (0xAA8A, .isub16 (half 0x15 10 true)),
    (0xAA8E, .and16 (half 0x15 10 true)),
    (0xAA92, .or16 (half 0x15 10 true)),
    (0xAA96, .xor16 (half 0x15 10 true)),
    (0xAA9A, .shl16 (half 0x15 10 true)),
    (0xAA9E, .mov16 (half 0x15 10 true)),
    (0xAAA2, .fadd16 (half 0x15 10 true)),
    (0xAAA6, .fsub16 (half 0x15 10 true)),
    (0xAAAA, .fmul16 (half 0x15 10 true)),
    (0xAAAE, .fmax16 (half 0x15 10 true)),
    (0xAAB2, .imin16 (half 0x15 10 true)),
    (0xAAB6, .imax16 (half 0x15 10 true)),
    (0xAABA, .sadd16 (half 0x15 10 true)),
    (0xAABE, .smov16 (half 0x15 10 true))] := by decide +kernel

/-- Words written out from R27, R175, with every field set. -/
theorem test_decode_integer_1 : reads 4 [
    (0x0928B203, .iadd (vr 0 9 10 11 1 true)),
    (0x0928B207, .isub (vr 0 9 10 11 1 true)),
    (0x0928B20B, .iadds (vr 0 9 10 11 1 true)),
    (0x0928B20F, .isubs (vr 0 9 10 11 1 true)),
    (0x0928B213, .imul (vr 0 9 10 11 1 true)),
    (0x0928B217, .imulh (vr 0 9 10 11 1 true)),
    (0x0928B21B, .umulh (vr 0 9 10 11 1 true)),
    (0x0928B21F, .imad (vr 0 9 10 11 1 true)),
    (0x0928B223, .imin (vr 0 9 10 11 1 true)),
    (0x0928B227, .imax (vr 0 9 10 11 1 true)),
    (0x0928B22B, .umin (vr 0 9 10 11 1 true)),
    (0x0928B22F, .umax (vr 0 9 10 11 1 true)),
    (0x0028B233, .iabs (vr 0 0 10 11 1 true)),
    (0x0928B237, .shl (vr 0 9 10 11 1 true)),
    (0x0928B23B, .shr (vr 0 9 10 11 1 true)),
    (0x0928B23F, .sar (vr 0 9 10 11 1 true))] := by decide +kernel

/-- Words written out from R27, R175, with every field set. -/
theorem test_decode_integer_2 : reads 4 [
    (0x0928B243, .and (vr 0 9 10 11 1 true)),
    (0x0928B247, .or (vr 0 9 10 11 1 true)),
    (0x0928B24B, .xor (vr 0 9 10 11 1 true)),
    (0x0928B24F, .andn (vr 0 9 10 11 1 true)),
    (0x0028B253, .popc (vr 0 0 10 11 1 true)),
    (0x0028B257, .clz (vr 0 0 10 11 1 true)),
    (0x0028B25B, .brev (vr 0 0 10 11 1 true)),
    (0x0928B25F, .bfx (vr 0 9 10 11 1 true)),
    (0x0928B263, .bfi (vr 0 9 10 11 1 true)),
    (0x0928B267, .lea (vr 0 9 10 11 1 true)),
    (0x0928B26B, .icmpeq (vr 0 9 10 11 1 true)),
    (0x0928B26F, .icmplt (vr 0 9 10 11 1 true)),
    (0x0928B273, .icmpltu (vr 0 9 10 11 1 true)),
    (0x0928B277, .sel (vr 0 9 10 11 1 true)),
    (0x0028B27B, .mov (vr 0 0 10 11 1 true))] := by decide +kernel

/-- Words written out from R27, R185, with every field set. -/
theorem test_decode_float_1 : reads 4 [
    (0x0928B283, .fadd (vr 0 9 10 11 1 true)),
    (0x0928B287, .fsub (vr 0 9 10 11 1 true)),
    (0x0928B28B, .fmul (vr 0 9 10 11 1 true)),
    (0x0928B28F, .ffma (vr 0 9 10 11 1 true)),
    (0x0928B293, .fmin (vr 0 9 10 11 1 true)),
    (0x0928B297, .fmax (vr 0 9 10 11 1 true)),
    (0x0028B29B, .fabs (vr 0 0 10 11 1 true)),
    (0x0028B29F, .fneg (vr 0 0 10 11 1 true)),
    (0x0928B2A3, .fcmpeq (vr 0 9 10 11 1 true)),
    (0x0928B2A7, .fcmplt (vr 0 9 10 11 1 true)),
    (0x0928B2AB, .fcmple (vr 0 9 10 11 1 true)),
    (0x0928B2AF, .fcmpun (vr 0 9 10 11 1 true)),
    (0x0028B2B3, .frcp (vr 0 0 10 11 1 true)),
    (0x0028B2B7, .frsq (vr 0 0 10 11 1 true)),
    (0x0028B2BB, .fsqrt (vr 0 0 10 11 1 true)),
    (0x0028B2BF, .fexp2 (vr 0 0 10 11 1 true))] := by decide +kernel

/-- Words written out from R27, R185, with every field set. -/
theorem test_decode_float_2 : reads 4 [
    (0x0028B2C3, .flog2 (vr 0 0 10 11 1 true)),
    (0x0028B2C7, .fsin (vr 0 0 10 11 1 true)),
    (0x0028B2CB, .fcos (vr 0 0 10 11 1 true)),
    (0x0028B2CF, .ftanh (vr 0 0 10 11 1 true)),
    (0x0028B2D3, .fround (vr 0 0 10 11 1 true)),
    (0x0928B2D7, .fscale (vr 0 9 10 11 1 true)),
    (0x0028B2DB, .fclass (vr 0 0 10 11 1 true)),
    (0x0928B4DF, .fdot2 (vr 0 9 10 11 2 true)),
    (0x0928B2E3, .cvt (vr 0 9 10 11 1 true)),
    (0x002804E7, .cbld (vr 0 0 10 0 2 true)),
    (0x0000B4EB, .cbst (vr 0 0 0 11 2 true))] := by decide +kernel

/-- Words written out from R27, R200, with every field set. -/
theorem test_decode_cross_lane : reads 4 [
    (0x0928B103, .shfl (vr 0 9 10 11 0 true)),
    (0x4928B307, .bcast (vr 1 9 10 11 1 true)),
    (0x0928B30B, .perm (vr 0 9 10 11 1 true)),
    (0x0928B30F, .mred (vr 0 9 10 11 1 true)),
    (0x0928B313, .scan (vr 0 9 10 11 1 true)),
    (0x0928B317, .red (vr 0 9 10 11 1 true)),
    (0x0028B11B, .ballot (vr 0 0 10 11 0 true)),
    (0x0028B11F, .mset (vr 0 0 10 11 0 true)),
    (0x0028B323, .movsv (vr 0 0 10 11 1 true)),
    (0x4928B327, .movvs (vr 1 9 10 11 1 true)),
    (0x0028B12B, .first (vr 0 0 10 11 0 true)),
    (0x4900B32F, .iota (vr 1 9 0 11 1 true))] := by decide +kernel

/-- Words written out from R29, R165, with every field set. -/
theorem test_decode_scalar : reads 4 [
    (0xBE28B333, .sadd (vr 2 0x3e 10 11 1 true)),
    (0xBE28B337, .ssub (vr 2 0x3e 10 11 1 true)),
    (0xBE28B33B, .smul (vr 2 0x3e 10 11 1 true)),
    (0xBE28B33F, .sand (vr 2 0x3e 10 11 1 true)),
    (0xBE28B343, .sor (vr 2 0x3e 10 11 1 true)),
    (0xBE28B347, .sxor (vr 2 0x3e 10 11 1 true)),
    (0xBE28B34B, .sshl (vr 2 0x3e 10 11 1 true)),
    (0xBE28B34F, .sshr (vr 2 0x3e 10 11 1 true)),
    (0xBE28B353, .ssar (vr 2 0x3e 10 11 1 true)),
    (0xBE28B357, .scmp (vr 2 0x3e 10 11 1 true)),
    (0x0028B35B, .smov (vr 0 0 10 11 1 true)),
    (0xBE28B35F, .slea (vr 2 0x3e 10 11 1 true))] := by decide +kernel

/-- Words written out from R30, with every field set. -/
theorem test_decode_immediate : reads 4 [
    (0x8ABC9563, .li (si 0x8abc 0x25 true)),
    (0x8ABC9567, .lih (si 0x8abc 0x25 true))] := by decide +kernel

/-- Words written out from R30, with every field set. -/
theorem test_decode_special : reads 4 [
    (0x0D00956B, .getsr (sr 13 0x25 true)),
    (0x0D00956F, .setsr (sr 13 0x25 true))] := by decide +kernel

/-- Words written out from R31, R32, with every field set. -/
theorem test_decode_memory : reads 4 [
    (0xB530E773, .ld (mem 2 0x35 12 14 3 true)),
    (0xB530E777, .st (mem 2 0x35 12 14 3 true)),
    (0xB530E77B, .lds (mem 2 0x35 12 14 3 true)),
    (0xB530E77F, .sts (mem 2 0x35 12 14 3 true)),
    (0xB530E783, .sld (mem 2 0x35 12 14 3 true)),
    (0xB530E787, .sst (mem 2 0x35 12 14 3 true)),
    (0xB530E78B, .atom (mem 2 0x35 12 14 3 true)),
    (0xB530E78F, .atomx (mem 2 0x35 12 14 3 true)),
    (0xB530E793, .satom (mem 2 0x35 12 14 3 true)),
    (0xB5300597, .pref (mem 2 0x35 12 0 2 true)),
    (0xB530059B, .zero (mem 2 0x35 12 0 2 true)),
    (0x0000019F, .commit (mem 0 0 0 0 0 true))] := by decide +kernel

/-- Words written out from R33, with every field set. -/
theorem test_decode_branch : reads 4 [
    (0xAAF275A3, .br (bra 0x2abc 0x13 true false true false true))] := by decide +kernel

/-- Words written out from R33, with every field set. -/
theorem test_decode_jump : reads 4 [
    (0xAAF001A7, .jmp (jmp 0x2abc 0 true)),
    (0x0002A3A7, .jmpReg (jmp 0 0x2a true)),
    (0xAAF001AB, .call (jmp 0x2abc 0 true)),
    (0x0002A3AB, .callReg (jmp 0 0x2a true)),
    (0x000001AF, .ret (jmp 0 0 true)),
    (0x000001B3, .regang (jmp 0 0 true)),
    (0x000001B7, .yield (jmp 0 0 true)),
    (0xAAF003B7, .yieldContinuation (jmp 0x2abc 0 true)),
    (0x000001BB, .exit (jmp 0 0 true)),
    (0xAAF001BF, .trap (jmp 0x2abc 0 true)),
    (0x000003BF, .rte (jmp 0 0 true)),
    (0x000005BF, .brk (jmp 0 0 true))] := by decide +kernel

/-- Words written out from R34, with every field set. -/
theorem test_decode_matrix : reads 4 [
    (0xC0A8D1C3, .mma (mat true true 0 5 2 13 0 true)),
    (0xD6A8D1C7, .mmas (mat true true 0x16 5 2 13 0 true)),
    (0x40A8D1CB, .mmat (mat false true 0 5 2 13 0 true)),
    (0x160001CF, .mfence (mat false false 0x16 0 0 0 0 true)),
    (0x160001D3, .mwait (mat false false 0x16 0 0 0 0 true)),
    (0x0008D1D7, .accld (mat false false 0 0 2 13 0 true)),
    (0x0000D3D7, .accldZero (mat false false 0 0 0 13 1 true)),
    (0x0008D1DB, .accst (mat false false 0 0 2 13 0 true)),
    (0x160801DF, .omset (mat false false 0x16 0 2 0 0 true))] := by decide +kernel

/-- Words written out from R35, R42, with every field set. -/
theorem test_decode_knot_and_queue_1 : reads 4 [
    (0x125981E3, .cpyCopy (kw 0x12 0x16 0x18 true)),
    (0x125983E3, .cpyQuant (kw 0x12 0x16 0x18 true)),
    (0x125985E3, .cpyDec (kw 0x12 0x16 0x18 true)),
    (0x125987E3, .cpyRed (kw 0x12 0x16 0x18 true)),
    (0x125989E3, .cpyFill (kw 0x12 0x16 0x18 true)),
    (0x12598BE3, .pkt (kw 0x12 0x16 0x18 true)),
    (0x005981E7, .qpush (kw 0 0x16 0x18 true)),
    (0x005983E7, .qpop (kw 0 0x16 0x18 true)),
    (0x125985E7, .qtry (kw 0x12 0x16 0x18 true)),
    (0x005987E7, .qlen (kw 0 0x16 0x18 true)),
    (0x125989E7, .spawn (kw 0x12 0x16 0x18 true)),
    (0x125981EB, .xput (kw 0x12 0x16 0x18 true)),
    (0x125983EB, .xget (kw 0x12 0x16 0x18 true)),
    (0x125985EB, .xatom (kw 0x12 0x16 0x18 true)),
    (0x005801EF, .hfire (kw 0 0x16 0 true)),
    (0x005983EF, .hstat (kw 0 0x16 0x18 true))] := by decide +kernel

/-- Words written out from R35, R42, with every field set. -/
theorem test_decode_knot_and_queue_2 : reads 4 [
    (0x125801F3, .knew (kw 0x12 0x16 0 true)),
    (0x005983F3, .kjoin (kw 0 0x16 0x18 true)),
    (0x005805F3, .kleave (kw 0 0x16 0 true)),
    (0x005987F3, .karrive (kw 0 0x16 0x18 true)),
    (0x125809F3, .kwait (kw 0x12 0x16 0 true)),
    (0x00598BF3, .karrw (kw 0 0x16 0x18 true)),
    (0x00580DF3, .kfree (kw 0 0x16 0 true)),
    (0x00598FF3, .kquery (kw 0 0x16 0x18 true)),
    (0x125801F7, .warm (kw 0x12 0x16 0 true)),
    (0x125983F7, .wwait (kw 0x12 0x16 0x18 true)),
    (0x125985F7, .wstamp (kw 0x12 0x16 0x18 true)),
    (0x000001FB, .racq (kw 0 0 0 true)),
    (0x000003FB, .rrel (kw 0 0 0 true)),
    (0x005985FB, .resize (kw 0 0x16 0x18 true)),
    (0x125987FB, .ckmark (kw 0x12 0x16 0x18 true)),
    (0x005989FB, .cktake (kw 0 0x16 0x18 true))] := by decide +kernel

/-- Words written out from R35, R42, with every field set. -/
theorem test_decode_knot_and_queue_3 : reads 4 [
    (0x12598BFB, .ckroll (kw 0x12 0x16 0x18 true)),
    (0x00598DFB, .ckdrop (kw 0 0x16 0x18 true))] := by decide +kernel

/-! States in which the statements' hypotheses hold: one gang of launch 1 on core 0, PASID 1, whose pages lie at their own
addresses. Each `witness_` theorem names a concrete state and operands that meet the hypotheses of a statement, clause by clause. -/

/-- PASID 1's context at 64 and a page table that maps every low address to itself, A and D set. -/
def tables : Memory :=
  [(64, 1), (74, 2), (88, 4), (92, 4), (98, 0x10), (107, 1), (0x20000, 1), (0x20002, 3), (0x30000, 0x0F), (0x30001, 0x06)]

/-- Scalar registers of the given values, the others zero. -/
def regs (rs : List (Nat × Word)) : Vector Word 64 := rs.foldl (fun v r => vset v r.1 r.2) (Vector.replicate 64 0)

def gang0 (rs : List (Nat × Word)) : Gang :=
  { launch := 1, idx := 0, place := some (0, 0), since := 0, evict := false, evictFor := none, record := 0, xb := true
    blockCore := none, awake := false, bad := false, v := Vector.replicate 64 zeroV, s := regs rs, m := Vector.replicate 16 0
    om := Vector.replicate 8 { isSet := false, low := 0, high := 0, cursor := 0 }
    tiles := Vector.replicate 16 { kind := .f, words := Vector.replicate 1024 0 }, codebook := Vector.replicate 16 0
    st := Vector.replicate 32 0, fflags := 0, seed := 0, trapCause := 0, trapInfo := 0, trapPc := 0x100200, hm := false, hmSlices := 0
    armed := none, batch := 5, members := Vector.replicate 16 { handle := 0, av := false, agen := 0 }, exited := 0, tagBase := 0
    tagExt := 0, tagScalar := 0, pending := [], races := [], belay := [], sig := [], sb := []
    deferred := [] }

def stream0 : Stream :=
  { sid := 0, launch := 1, splice := 0, slots := Vector.replicate 8 (some 0), pc := 0x100000, wait := .none, unc := [], rbCount := 0
    rbPc := 0, careful := 0, spin := Spin.empty, stopped := false, claim := none, grant := none, operands := [], popped := none
    loading := false, saved := none, answers := [], walkFails := [], partsDone := [], doneLen := 0, watchDie := none, due := false }

/-- A stream of slice k alone. -/
def slice (k sid : Nat) (w : Wait) : Stream :=
  { stream0 with sid := sid, slots := vset (Vector.replicate 8 none) k (some 0), wait := w }

def launch1 : Launch :=
  { id := 1, pasid := 1, queue := 0x5000, slot := 0, epc := 0x100000, hpc := 0x9000, args := 0x77, scr := 4096, rlim := 1, prio := 5
    tiles := 8, xreg := true, spl := 1, gangs := 1, since := 0, nextSplice := 1, finished := 0, spawns := []
    regions := Vector.replicate 16 Region.unmarked, aborting := false, ended := false }

def splice0 : Splice :=
  { launch := 1, idx := 0, size := 4096, scratch := [], badBlocks := [], core := some 0, record := some 0, windows := [] }

/-- The leaf of the tables in core 0's TLB, with A and D. -/
def tlb0 : TlbEntry := { core := 0, pasid := 1, vpage := 0, pages := 8192, pa := 0, w := true, x := true, kind := 0, dirty := true }

/-- Their first-level entry in a die's walk cache. -/
def walk0 (die : Nat) : WalkEntry := { die := die, level := 1, pasid := 1, index := 0, entry := 0x30001 }

def with1 (g : Gang) (t : Stream) : State :=
  { State.reset with
    tlb := [tlb0], walkCache := [walk0 0, walk0 1]
    cur := some 0, nextSid := 1, nextLaunch := 2, mem := tables, launches := [launch1], gangs := [g], streams := [t], splices := [splice0]
    seq := 40 }

abbrev g0 : Gang := gang0 []
abbrev s0 : State := with1 g0 stream0

theorem issues_of {s : State} {t : Stream} {g : Gang} (hc : s.cur = some t.sid) (ht : s.streams.head? = some t)
    (hg : s.gangs.head? = some g) (hl : g.launch = t.launch) (hp : g.pending = [] ∧ g.races = [] ∧ g.place.isSome = true)
    (h : t.homes = [g.idx] ∧ s.drained t = true ∧ g.belayUsed ≤ 8 ∧ g.storesUsed ≤ 32) : Issues s t g := by
  refine ⟨hc, ?_, h.1, ?_, hp.2.2, h.2.1, h.2.2.1, h.2.2.2, hp.1, hp.2.1⟩
  · cases hs : s.streams with
    | nil => simp [hs] at ht
    | cons a l => simp only [hs, List.head?_cons, Option.some.injEq] at ht; subst ht; simp [State.stream?, hs]
  · cases hs : s.gangs with
    | nil => simp [hs] at hg
    | cons a l => simp only [hs, List.head?_cons, Option.some.injEq] at hg; subst hg; simp [State.gang?, hs, hl]

theorem calm_of {s : State} (h : (∀ g ∈ s.gangs, g.sig = []) ∧ s.windows = [] ∧
    (∀ x ∈ s.launches, ∀ i, i < 16 → (x.region i).state = .unmarked) ∧ s.guest.owned = [] ∧ s.badLines = []) : Calm s :=
  ⟨h.1, h.2.1, h.2.2.1, h.2.2.2.1, h.2.2.2.2⟩

theorem reached_of {s : State} {t : Stream} {g : Gang} {z : Nat} {acc : Access} {a : Word} {x : Xlat}
    (h : a.toNat % z = 0 ∧ canonical a = true ∧ s.translate g.core (s.pasidOf t.launch) (vaOf a) acc = .ok x ∧ x.kind < 2) :
    Reached s t g z acc a x :=
  ⟨h.1, h.2.1, h.2.2.1, h.2.2.2⟩

theorem ready_of {s : State} {t : Stream} {g : Gang} {x : Launch} (h0 : s.launch? t.launch = some x) (h1 : x.hpc ≠ 0) (h2 : g.hm = false)
    (h3 : ∀ u ∈ s.streamsOf t.launch g.idx, s.stream? u.sid = some u ∧
      (u.sid = t.sid ∨ u.unc = [] ∧ u.homes = [g.idx] ∧ u.slotsOf g.idx ≠ t.slotsOf g.idx)) : TrapReady s t g x := ⟨h0, h1, h2, h3⟩

/-- The translation of an address in a state. -/
def xlat (s : State) (a : Word) (acc : Access) : Xlat :=
  match s.translate (some 0) 1 (vaOf a) acc with
  | .ok x => x
  | .error _ => { pa := 0, base := 0, vpage := 0, pages := 0, w := false, x := false, kind := 9, leaf := 0, leafPa := 0 }

theorem issues0 : Issues s0 stream0 g0 := issues_of rfl rfl rfl rfl ⟨rfl, rfl, rfl⟩ (by decide +kernel)

theorem calm0 : Calm s0 := calm_of (by decide +kernel)

theorem ready0 : TrapReady s0 stream0 g0 launch1 := ready_of rfl (by decide) rfl (by decide +kernel)

theorem ok_of {ε α : Type} [DecidableEq α] {e : Except ε α} {a : α}
    (h : (match e with
      | .ok b => decide (b = a)
      | .error _ => false) = true) : e = .ok a := by
  cases e with
  | ok b => simpa using h
  | error e => simp at h

/-- The bytes of a knot record at an address, its check right. -/
def knotAt (va exp arr gen flags : Nat) (head : Nat) (owner : Nat) (m : Memory) : Memory :=
  m.write va (leBytes 4 exp ++ leBytes 4 arr ++ leBytes 4 gen ++ leBytes 4 flags ++ leBytes 8 head ++ leBytes 4 owner ++
    leBytes 4 (knotCheck (BitVec.ofNat 64 va)))

/-- s0's gang with scalar registers, and memory. -/
def with2 (rs : List (Nat × Word)) (m : Memory) : State := { with1 (gang0 rs) stream0 with mem := m }

theorem issues2 (rs : List (Nat × Word)) (m : Memory) : Issues (with2 rs m) stream0 (gang0 rs) :=
  issues_of rfl rfl rfl rfl ⟨rfl, rfl, rfl⟩
    ⟨(by decide +kernel : stream0.homes = [0]), rfl, (by decide +kernel : g0.belayUsed ≤ 8), (by decide +kernel : g0.storesUsed ≤ 32)⟩

theorem calm2 (rs : List (Nat × Word)) (m : Memory) : Calm (with2 rs m) :=
  ⟨fun g h => by simp only [with2, with1, List.mem_singleton] at h; subst h; rfl, (by decide +kernel : s0.windows = []),
    (by decide +kernel : ∀ x ∈ s0.launches, ∀ i, i < 16 → (x.region i).state = .unmarked), rfl, rfl⟩

theorem ready2 (rs : List (Nat × Word)) (m : Memory) : TrapReady (with2 rs m) stream0 (gang0 rs) launch1 :=
  ready_of rfl (by decide) rfl fun u h => by
    have h : u = stream0 := by simpa [with2, with1] using (List.mem_filter.mp h).1
    subst h; exact ⟨rfl, .inl rfl⟩

/-- The translation for a core, or for an engine, in PASID 1. -/
def xlatAt (s : State) (core : Option Nat) (a : Word) (acc : Access) : Xlat :=
  match s.translate core 1 (vaOf a) acc with
  | .ok x => x
  | .error _ => { pa := 0, base := 0, vpage := 0, pages := 0, w := false, x := false, kind := 9, leaf := 0, leafPa := 0 }

/-- A walk that met no false hint of the leaf counts nothing. -/
theorem noteHint_of {s : State} {x : Xlat} {p : Nat} (h : x.leaf.getLsbD 5 = false) : s.noteHint x p = s := by
  simp only [State.noteHint, h, Bool.false_and, Bool.false_eq_true, if_false]

theorem handle_of {s : State} {core : Option Nat} {p align : Nat} {a : Word} {x : Xlat} {pa : Nat} (hx : x.pa = pa)
    (h : a.toNat % align = 0 ∧ canonical a = true ∧ s.translate core p (vaOf a) .store = .ok x ∧ x.kind < 2 ∧
      x.leaf ||| 0x600 = x.leaf ∧ x.leaf.getLsbD 5 = false) (ht : s.touchTlb core p (vaOf a) .store = s) :
    s.handleAccess core p a align = .ok (s, pa) := by
  have h5 : x.leaf ||| 0x600#64 = x.leaf := h.2.2.2.2.1
  subst hx; simp [State.handleAccess, h.1, h.2.1, h.2.2.1, h.2.2.2.1, State.markLeaf, noteHint_of h.2.2.2.2.2, Access.writes, h5, ht]

theorem engine_of {s : State} {p : Nat} {a : Word} {acc : Access} {x : Xlat}
    (h : canonical a = true ∧ s.walkFor none p (vaOf a) = .ok x ∧ permits acc x.kind x.w x.x = true ∧
      x.leaf ||| (if acc.writes then 0x600#64 else 0x200#64) = x.leaf ∧ x.leaf.getLsbD 5 = false) : s.engineAccess p a acc = .ok (s, x) := by
  have h3 := h.2.2.2.1
  simp [State.engineAccess, h.1, h.2.1, h.2.2.1, State.markLeaf, noteHint_of h.2.2.2.2, h3, State.cacheWalk]

theorem engine_at {s : State} {p d : Nat} {a : Word} {acc : Access} {x : Xlat} {e1 e2 : Word}
    (h : canonical a = true ∧ s.walkFor (some d) p (vaOf a) = .ok x ∧ permits acc x.kind x.w x.x = true ∧
      x.leaf ||| (if acc.writes then 0x600#64 else 0x200#64) = x.leaf ∧ x.leaf.getLsbD 5 = false)
    (hm : s.missing d p (vaOf a / 65536) = false ∧ s.walkerFree d = true)
    (h1 : s.walkHit (some d) 1 p (vaOf a) = some e1)
    (h2 : s.walkRead (some d) 2 p (vaOf a) (pteAddr e1 + 8 * field (vaOf a) 41 29) = some e2) (h3 : e2.getLsbD 1 = true) :
    s.engineAccess p a acc (some d) = .ok (s, x) := by
  have h4 := h.2.2.2.1
  have hw : ∀ a', s.walkRead (some d) 1 p (vaOf a) a' = some e1 := fun a' => by simp [State.walkRead, h1]
  have hc : ∀ root, s.cacheWalk (some d) p root (vaOf a) = s := fun root => by simp only [State.cacheWalk, hw, h2, h1]; simp [h3]
  simp [State.engineAccess, h.1, h.2.1, h.2.2.1, State.markLeaf, noteHint_of h.2.2.2.2, h4, hm.1, hm.2, hc]

theorem witness_NopOnlyMovesPc : Issues s0 stream0 g0 := issues0

/-- A word, a pair and a 16-bit form; LEA. -/
theorem witness_VectorIntegerResults :
    let f := vr 0 6 5 63 2 true
    let p : Prefix := { sat := true, z := true, cv := true, c := 40, mask := 3, rnd := 0 }
    let hf := half 31 0 false
    Issues s0 stream0 g0 ∧
      (VRForm (.iadd f) .iadd Prefix.none f 4 false ∧ VROp.wf .iadd f = true ∧ Prefix.none.fits .iadd f = true ∧
        Held g0 (vrRegs Prefix.none f) ∧ (intElem .iadd false 8 0 0 0 0).isSome = true) ∧
      (VRForm (.prefixedInstruction p .imad f) .imad p f 8 false ∧ VROp.wf .imad f = true ∧ p.fits .imad f = true ∧
        Held g0 (vrRegs p f) ∧ (intElem .imad false 8 0 0 0 0).isSome = true) ∧
      (VRForm (.shl16 hf) .shl Prefix.none (halfBinary hf 1) 2 true ∧ VROp.wf .shl (halfBinary hf 1) = true ∧
        Prefix.none.fits .shl (halfBinary hf 1) = true ∧ Held g0 (vrRegs Prefix.none (halfBinary hf 1))) ∧
      (VRForm (.lea f) .lea Prefix.none f 4 false ∧ VROp.wf .lea f = true ∧ Prefix.none.fits .lea f = true) :=
  ⟨issues0, ⟨.word .iadd _, by decide, by decide, .inl rfl, rfl⟩, ⟨.pair _ _ _, by decide, by decide, .inl rfl, rfl⟩,
    ⟨.shl16 _, by decide, by decide, .inl rfl⟩, ⟨.word .lea _, by decide, by decide⟩⟩

theorem witness_VectorFloatResults :
    let f := vr 2 0x3F 5 4 1 true
    let p : Prefix := { sat := false, z := true, cv := false, c := 0, mask := 3, rnd := 6 }
    Issues s0 stream0 g0 ∧
      (VRForm (.fadd f) .fadd Prefix.none f 4 false ∧ VROp.wf .fadd f = true ∧ Prefix.none.fits .fadd f = true ∧
        Held g0 (vrRegs Prefix.none f) ∧ (floatResult .fadd f false g0.codebook 0 0 0 0 .rne).isSome = true) ∧
      (VRForm (.prefixedInstruction p .ffma f) .ffma p f 8 false ∧ VROp.wf .ffma f = true ∧ p.fits .ffma f = true ∧
        (floatResult .ffma f false g0.codebook 0 0 0 0 .rne).isSome = true) :=
  ⟨issues0, ⟨.word .fadd _, by decide, by decide, .inl rfl, rfl⟩, ⟨.pair _ _ _, by decide, by decide, rfl⟩⟩

theorem witness_CodebookWords :
    let f := vr 0 0 63 0 2 false
    let d := vr 0 0 0 63 2 false
    let p : Prefix := { sat := false, z := true, cv := false, c := 0, mask := 5, rnd := 0 }
    Issues s0 stream0 g0 ∧ (VRForm (.prefixedInstruction p .cbld f) .cbld p f 8 false ∧ VROp.wf .cbld f = true ∧ p.fits .cbld f = true ∧
      Held g0 [f.a.toNat]) ∧
      (VRForm (.cbst d) .cbst Prefix.none d 4 false ∧ VROp.wf .cbst d = true ∧ Prefix.none.fits .cbst d = true ∧ Held g0 [d.d.toNat]) :=
  ⟨issues0, ⟨.pair _ _ _, by decide, by decide, .inl rfl⟩, .word .cbst _, by decide, by decide, .inl rfl⟩

theorem witness_FirstLane :
    let b := vr 0 0 2 15 0 false
    Issues s0 stream0 g0 ∧ VRForm (.first b) .first Prefix.none b 4 false ∧ VROp.wf .first b = true :=
  ⟨issues0, .word .first _, by decide⟩

/-- SHFL in each of its four forms, BCAST, PERM, MOVSV and IOTA. -/
theorem witness_CrossLaneMoves :
    let ok := fun (op : VROp) (f : VRFields) (long : Bool) => op.wf f = true ∧ Prefix.none.fits op f = true ∧
      VRForm (op.toInstr f) op Prefix.none f 4 false ∧ Held g0 (moveRegs op f) ∧ (moveLane op g0 f 0).map (·.2) = some long
    Issues s0 stream0 g0 ∧ ok .shfl (vr 0 1 2 3 0 false) true ∧ ok .shfl (vr 1 31 2 3 0 false) true ∧ ok .shfl (vr 2 31 2 3 0 false) true ∧
      ok .shfl (vr 3 31 2 3 0 false) true ∧ ok .bcast (vr 2 63 2 3 4 false) true ∧ ok .perm (vr 0 1 2 3 3 false) true ∧
      ok .movsv (vr 0 0 2 3 4 false) false ∧ ok .iota (vr 1 1 0 3 1 false) true :=
  ⟨issues0, ⟨by decide, by decide, .word .shfl _, .inl rfl, rfl⟩, ⟨by decide, by decide, .word .shfl _, .inl rfl, rfl⟩,
    ⟨by decide, by decide, .word .shfl _, .inl rfl, rfl⟩, ⟨by decide, by decide, .word .shfl _, .inl rfl, rfl⟩,
    ⟨by decide, by decide, .word .bcast _, .inl rfl, rfl⟩, ⟨by decide, by decide, .word .perm _, .inl rfl, rfl⟩,
    ⟨by decide, by decide, .word .movsv _, .inl rfl, rfl⟩, ⟨by decide, by decide, .word .iota _, .inl rfl, rfl⟩⟩

theorem witness_MaskMoves :
    let b := vr 0 0 2 15 0 false
    let q := vr 2 63 2 3 1 false
    Issues s0 stream0 g0 ∧ (VRForm (.ballot b) .ballot Prefix.none b 4 false ∧ VROp.wf .ballot b = true ∧ Held g0 [b.a.toNat]) ∧
      (VRForm (.mset b) .mset Prefix.none b 4 false ∧ VROp.wf .mset b = true) ∧
      (VRForm (.movvs q) .movvs Prefix.none q 4 false ∧ VROp.wf .movvs q = true ∧ Held g0 [q.a.toNat]) :=
  ⟨issues0, ⟨.word .ballot _, by decide, .inl rfl⟩, ⟨.word .mset _, by decide⟩,
    ⟨.word .movvs _, by decide, .inl rfl⟩⟩

theorem free_cross : EntryFree s0 stream0 g0 .cross := ⟨0, rfl, .inr (by decide +kernel)⟩

theorem witness_Reductions :
    let r0 := vr 0 0 2 3 1 false
    let r1 := vr 1 8 2 3 1 false
    let ok := fun (op : VROp) (f : VRFields) (regs : List Nat) =>
      VRForm (op.toInstr f) op Prefix.none f 4 false ∧ op.wf f = true ∧ Prefix.none.fits op f = true ∧ Held g0 regs
    Issues s0 stream0 g0 ∧ EntryFree s0 stream0 g0 .cross ∧ (ok .red r0 [2, 3] ∧ r0.x = 0) ∧ (ok .red r1 [2] ∧ r1.x = 1) ∧
      ok .scan r1 [2, 3] ∧ ok .mred r0 [2, 3] :=
  ⟨issues0, free_cross, ⟨⟨.word .red _, by decide, by decide, .inl rfl⟩, rfl⟩, ⟨⟨.word .red _, by decide, by decide, .inl rfl⟩, rfl⟩,
    ⟨.word .scan _, by decide, by decide, .inl rfl⟩, ⟨.word .mred _, by decide, by decide, .inl rfl⟩⟩

theorem witness_ScalarResults :
    let f := vr 2 0x3F 2 2 3 true
    Issues s0 stream0 g0 ∧ (Instr.sadd f).wf = true ∧ scalarResult g0 (.sadd f) = some (2, -1, 4, true) ∧
      (Instr.lih (si 0xFFFF 3 false)).wf = true ∧ scalarResult g0 (.lih (si 0xFFFF 3 false)) = some (3, 0xFFFF, 4, false) ∧
      scalarResult g0 (.smov16 (half 1 2 true)) = some (2, 0, 2, true) :=
  ⟨issues0, by decide +kernel⟩

/-- The first and the last special register. -/
theorem witness_SpecialRegisterRead :
    Issues s0 stream0 g0 ∧ s0.launch? stream0.launch = some launch1 ∧ 1 ≤ launch1.spl ∧ g0.core = some 0 ∧
      (stream0.slotsOf g0.idx).head? = some 0 ∧ specialValue s0 g0 launch1 0 0 0 = some 0 ∧ specialValue s0 g0 launch1 0 0 20 = some 1 :=
  ⟨issues0, rfl, by decide +kernel⟩

theorem witness_SpecialRegisterWrite : Issues s0 stream0 g0 ∧ (sr 12 5 false).n = 12 ∧ (sr 13 5 false).n = 13 := ⟨issues0, rfl, rfl⟩

/-- A branch on a mask register, and one on a scalar register with U. -/
theorem witness_BranchMovesSlices :
    Issues s0 stream0 g0 ∧ (bra 20 3 false false false false false).p = false ∧
      disagrees stream0 g0 (bra 20 3 false false false false false) = false ∧
      disagrees stream0 g0 (bra 20 31 true false false true false) = false ∧ canonical (relative stream0.pc 20) = true :=
  ⟨issues0, by decide +kernel⟩

/-- The window of the stream's address, before and after the stream has joined it; due when every stream is there, and at its 64th clock; and
not due while a stream runs. -/
theorem witness_PackWindows :
    let f := bra 20 3 false false true false false
    let w : PackWindow := { addr := 0x100000, branch := f, sids := [0], opened := 0 }
    let sp := { splice0 with windows := [w] }
    let t := { stream0 with wait := .pack 0x100000 }
    let s := { with1 g0 t with splices := [sp] }
    let r := { s0 with splices := [sp] }
    (Issues s0 stream0 g0 ∧ f.p = true ∧ g0.hm = false ∧ disagrees stream0 g0 f = false ∧
        s0.splice? stream0.launch stream0.splice = some splice0) ∧
      (s.splice? 1 0 = some sp ∧ sp.windows.find? (·.addr == 0x100000) = some w ∧ WindowDue s sp w ∧
        WindowDue { r with clock := 64 } sp w ∧ t ∈ s.streams ∧ t.sid ∈ w.sids ∧
        t.wait = .pack 0x100000 ∧ t.stopped = false ∧ t.homes = [g0.idx] ∧ s.gang? t.launch g0.idx = some g0 ∧ g0.pending = [] ∧
        g0.races = [] ∧ vget t.slots 7 none = some g0.idx ∧ canonical (relative 0x100000 f.off) = true) ∧
      (r.splice? 1 0 = some sp ∧ ∀ w ∈ sp.windows, w.addr = 0x100000 → ¬WindowDue r sp w) :=
  ⟨⟨issues0, rfl, rfl, by decide +kernel, rfl⟩, ⟨rfl, rfl, by unfold WindowDue; decide +kernel, by unfold WindowDue; decide +kernel,
    by simp [with1], by decide, rfl, rfl, by decide +kernel, rfl, rfl, rfl, rfl, by decide +kernel⟩, rfl, by unfold WindowDue; decide +kernel⟩

/-- Targets at both ends of the address space that fit; a target that is odd, and two that are not canonical. -/
theorem witness_JumpsAndCalls :
    let g := gang0 [(8, 0xFFFF800000000000), (63, 0x7FFFFFFFFFFE)]
    let fits := fun (a : Word) => a.getLsbD 0 = false ∧ canonical a = true
    let t := { stream0 with pc := 0x3FFFFFFFFFFFFC }
    let h := gang0 [(8, 0xFFFF800000000001), (63, 0x40000000000000)]
    (Issues (with1 g stream0) stream0 g ∧ fits (relative stream0.pc 0x3FF0) ∧ fits (vget g.s 8 0) ∧ fits (vget g.s 63 0)) ∧
      (Issues (with1 h t) t h ∧ TrapReady (with1 h t) t h launch1 ∧ ¬fits (relative t.pc 2) ∧ ¬fits (vget h.s 8 0) ∧ ¬fits (vget h.s 63 0)) :=
  ⟨⟨issues_of rfl rfl rfl rfl ⟨rfl, rfl, rfl⟩ (by decide +kernel), by decide +kernel⟩,
    issues_of rfl rfl rfl rfl ⟨rfl, rfl, rfl⟩ (by decide +kernel), ready_of rfl (by decide) rfl (by decide +kernel), by decide +kernel⟩

/-- A whole gang, a part of one, and a gang whose streams all wait, at two addresses. -/
theorem witness_Regang :
    let t := slice 3 0 .none
    let s := with1 g0 t
    let a := slice 0 0 (.regang 0x200 true)
    let b := slice 1 1 (.regang 0x300 false)
    let s2 := { with1 g0 a with streams := [a, b], cur := none }
    (Issues s0 stream0 g0 ∧ g0.hm = false ∧ stream0.slotsOf g0.idx = (List.range 8).filter fun k => !g0.exited.getLsbD k) ∧
      (Issues s t g0 ∧ t.slotsOf g0.idx ≠ (List.range 8).filter fun k => !g0.exited.getLsbD k) ∧
      (s2.gang? 1 0 = some g0 ∧ g0.exited ≠ 0xFF ∧ s2.streamsOf 1 0 = [a, b] ∧
        ∀ u ∈ [a, b], u.homes = [0] ∧ u.stopped = false ∧ (u.wait = .regang 0x200 true ∨ u.wait = .regang 0x300 false)) :=
  ⟨⟨issues0, rfl, by decide +kernel⟩, ⟨issues_of rfl rfl rfl rfl ⟨rfl, rfl, rfl⟩ (by decide +kernel), by decide +kernel⟩,
    rfl, by decide, by decide +kernel, by decide +kernel⟩

/-- Without a condition, and with one that does not hold and one that does. -/
theorem witness_Yields :
    let g := { g0 with armed := some (0x40000, 7) }
    let s := with1 g stream0
    let g' := { g0 with armed := some (0x40000, 0) }
    (Issues s0 stream0 g0 ∧ g0.armed = none) ∧
      (Issues s stream0 g ∧ Calm s ∧ Reached s stream0 g 8 .load 0x40000 (xlat s 0x40000 .load) ∧ s.mem.word (xlat s 0x40000 .load).pa < 7) ∧
      (Issues (with1 g' stream0) stream0 g' ∧ Calm (with1 g' stream0) ∧ Reached (with1 g' stream0) stream0 g' 8 .load 0x40000 (xlat s 0x40000 .load)) :=
  ⟨⟨issues0, rfl⟩, ⟨issues_of rfl rfl rfl rfl ⟨rfl, rfl, rfl⟩ (by decide +kernel), calm_of (by decide +kernel), reached_of (by decide +kernel),
      by decide +kernel⟩,
    issues_of rfl rfl rfl rfl ⟨rfl, rfl, rfl⟩ (by decide +kernel), calm_of (by decide +kernel), reached_of (by decide +kernel)⟩

/-- Outside a handler; in one that another slice is in; and the last slice of one, with a stopped stream beside it. -/
theorem witness_ExitEndsStream :
    let leaves := fun (g : Gang) (t : Stream) k => g.hmSlices.getLsbD k = true → g.exited.getLsbD k = true ∨ k ∈ t.slotsOf g.idx
    let t := slice 2 0 .none
    let u := { slice 4 1 .none with stopped := true }
    let a := { g0 with hm := true, hmSlices := 0x0C }
    let b := { g0 with hm := true, hmSlices := 0x0C, exited := 0x08 }
    let s := { with1 b t with streams := [t, u] }
    (Issues s0 stream0 g0 ∧ g0.hm = false) ∧ (Issues (with1 a t) t a ∧ ¬leaves a t 3) ∧
      (Issues s t b ∧ b.hm = true ∧ (∀ k, k < 8 → leaves b t k) ∧
        ∀ u ∈ s.streamsOf t.launch b.idx, u.homes = [b.idx] ∧ s.storesOf u = []) :=
  ⟨⟨issues0, rfl⟩, ⟨issues_of rfl rfl rfl rfl ⟨rfl, rfl, rfl⟩ (by decide +kernel), by decide +kernel⟩,
    issues_of rfl rfl rfl rfl ⟨rfl, rfl, rfl⟩ (by decide +kernel), rfl, by decide +kernel, by decide +kernel⟩

/-- With a handler, and a branch whose condition differs; without one; and inside it. -/
theorem witness_TrapsTaken :
    let g := { g0 with m := vset g0.m 3 0xF }
    let x := { launch1 with hpc := 0 }
    let h := { g0 with hm := true }
    let s := { s0 with launches := [x] }
    (Issues s0 stream0 g0 ∧ TrapReady s0 stream0 g0 launch1) ∧
      (Issues (with1 g stream0) stream0 g ∧ disagrees stream0 g (bra 20 3 false false false true false) = true) ∧
      (Issues s stream0 g0 ∧ s.launch? 1 = some x ∧ x.hpc = 0 ∧ (∀ h ∈ s.gangs, h.launch = 1 → h.sb = []) ∧
        (∀ h ∈ s.gangs, h.launch = 1 → ∀ m ∈ h.members.toList, m.handle = 0) ∧
        ∀ u ∈ s.streams, u.launch = 1 → (∀ a n, u.wait ≠ .knot a n) ∧ u.homes ≠ [] ∧ ∀ k ∈ u.homes, (s.gang? 1 k).isSome = true) ∧ (Issues (with1 h stream0) stream0 h ∧ h.hm = true) :=
  ⟨⟨issues0, ready0⟩, ⟨issues_of rfl rfl rfl rfl ⟨rfl, rfl, rfl⟩ (by decide +kernel), by decide +kernel⟩,
    ⟨issues_of rfl rfl rfl rfl ⟨rfl, rfl, rfl⟩ (by decide +kernel), rfl, rfl, by decide +kernel, by decide +kernel, fun u hu _ => by
      simp only [with1, List.mem_singleton] at hu; subst hu
      exact ⟨by simp [stream0], by decide +kernel, by decide +kernel⟩⟩, issues_of rfl rfl rfl rfl ⟨rfl, rfl, rfl⟩ (by decide +kernel), rfl⟩

theorem witness_ReturnFromTrap :
    let t := slice 2 0 .none
    let u := { slice 4 1 .none with stopped := true }
    let g := { g0 with hm := true, hmSlices := 0x0C, exited := 0x08 }
    let s := { with1 g t with streams := [t, u] }
    Issues s t g ∧ g.hm = true ∧ (∀ k, k < 8 → (g.hmSlices.getLsbD k && !g.exited.getLsbD k) = (t.slotsOf g.idx).contains k) ∧
      u ∈ s.streamsOf t.launch g.idx ∧ u.sid ≠ t.sid ∧ s.stream? u.sid = some u :=
  ⟨issues_of rfl rfl rfl rfl ⟨rfl, rfl, rfl⟩ (by decide +kernel), rfl, by decide +kernel, by decide +kernel⟩

theorem witness_TrapEvents :
    let d : Deferred := { sid := 0, cause := 0x0D, info := 3 }
    let g := { g0 with deferred := [d] }
    let s := with1 g stream0
    let u : Unc := { seq := 7, pc := 0x300, load := true }
    let t := { stream0 with unc := [u] }
    let s2 := with1 g0 t
    (s.stream? 0 = some stream0 ∧ stream0.homes = [0] ∧ s.gang? 1 0 = some g ∧ g.place.isSome = true ∧ TrapReady s stream0 g launch1 ∧
        stream0.unc = [] ∧ stream0.wait = .none ∧ stream0.stopped = false ∧ g.deferred.find? (·.sid == 0) = some d) ∧
      (s2.stream? 0 = some t ∧ t.homes = [0] ∧ s2.gang? 1 0 = some g0 ∧ g0.core = some 0 ∧ TrapReady s2 t g0 launch1 ∧
        t.unc.head? = some u ∧ t.wait = .none ∧ t.stopped = false ∧ s2.streamsOf 1 0 = [t] ∧ vget s2.io.wdctl 0 0 ≠ 0) :=
  ⟨⟨rfl, by decide +kernel, rfl, rfl, ready_of rfl (by decide) rfl (by decide +kernel), rfl, rfl, rfl, rfl⟩,
    rfl, by decide +kernel, rfl, rfl, ready_of rfl (by decide) rfl (by decide +kernel), rfl, rfl, rfl, by decide +kernel, by decide +kernel⟩

/-- A spinner, with a write to its lines since and without one; and one that waits, a line of which has been written. -/
theorem witness_SpinnerWaits :
    let t := { stream0 with pc := 8, spin := { Spin.empty with count := 16, target := 8 } }
    let u := { t with due := true }
    (∀ v, v = t ∨ v = u → (with1 g0 v).stream? 0 = some v ∧ v.wait = .none ∧ v.stopped = false ∧ 16 ≤ v.spin.count ∧
      v.pc = v.spin.target ∧ (with1 g0 v).drained v = true) ∧
    let v := { t with wait := .spin t.spin.runLines, spin := { t.spin with count := 0 }, due := true }
    (with1 g0 v).stream? t.sid = some v := by
  refine ⟨?_, rfl⟩
  rintro v (rfl | rfl) <;> exact ⟨rfl, by decide +kernel⟩

theorem active_all : ∀ l, l < 32 → stream0.active.getLsbD l = true := by decide +kernel

/-- A lane form at every lane, the last byte of a naturally aligned unit included; LDS; SLD; and .128. -/
theorem witness_Loads :
    let f := mem 2 63 12 14 3 true
    let g := gang0 [(12, 0x40008)]
    let s := with1 g stream0
    let X := fun l => xlat s (laneAddress g f 8 l) .load
    let p := mem 2 0 12 14 4 false
    let h := gang0 [(12, 3584)]
    let sl := with1 h stream0
    (Issues s stream0 g ∧ Calm s ∧ loadWf f = true ∧ Held g [14] ∧
        (∀ l, l < 32 → stream0.active.getLsbD l = true → Reached s stream0 g 8 .load (laneAddress g f 8 l) (X l)) ∧
        Reached s stream0 g 8 .load (scalarAddress g f 8) (xlat s (scalarAddress g f 8) .load)) ∧
      (Issues sl stream0 h ∧ loadWf p = true ∧ sl.splice? 1 0 = some splice0 ∧ sl.locks = [] ∧ splice0.badBlocks = [] ∧
        ∀ l, l < 32 → stream0.active.getLsbD l = true →
          (laneAddress h p 16 l).toNat % 16 = 0 ∧ (laneAddress h p 16 l).toNat + 16 ≤ splice0.size) := by
  intro f g s X p h sl
  have hx : ∀ l, l < 32 → ((laneAddress g f 8 l).toNat % 8 = 0 ∧ canonical (laneAddress g f 8 l) = true ∧
      s.translate g.core (s.pasidOf 1) (vaOf (laneAddress g f 8 l)) .load = .ok (X l) ∧ (X l).kind < 2) := by decide +kernel
  exact ⟨⟨issues_of rfl rfl rfl rfl ⟨rfl, rfl, rfl⟩ (by decide +kernel), calm_of (by decide +kernel), rfl, .inl rfl, fun l hl _ => reached_of (hx l hl),
    reached_of (by decide +kernel)⟩, issues_of rfl rfl rfl rfl ⟨rfl, rfl, rfl⟩ (by decide +kernel), by decide, rfl, rfl, rfl, by decide +kernel⟩

theorem witness_Stores :
    let f := mem 2 0 12 14 0 true
    let g := gang0 [(12, 0x40FE0)]
    let s := with1 g stream0
    let X := fun l => xlat s (laneAddress g f 1 l) .store
    let h := gang0 [(12, 4064)]
    let sl := with1 h stream0
    (Issues s stream0 g ∧ s.Inv ∧ Calm s ∧ storeWf f = true ∧ g.sb = [] ∧ Held g [14] ∧
        (∀ l, l < 32 → stream0.active.getLsbD l = true →
          Reached s stream0 g 1 .store (laneAddress g f 1 l) (X l) ∧ s.plainPa (lineOf (X l).pa) = true) ∧
        Reached s stream0 g 1 .store (scalarAddress g f 1) (xlat s (scalarAddress g f 1) .store) ∧
        s.plainPa (lineOf (xlat s (scalarAddress g f 1) .store).pa) = true) ∧
      (Issues sl stream0 h ∧ sl.Inv ∧ Calm sl ∧ sl.splice? 1 0 = some splice0 ∧ sl.spliceOf 1 0 = 0 ∧ sl.locks = [] ∧
        splice0.scratch.wf = true ∧ ∀ l, l < 32 → stream0.active.getLsbD l = true →
          (laneAddress h f 1 l).toNat % 1 = 0 ∧ (laneAddress h f 1 l).toNat + 1 ≤ splice0.size) := by
  intro f g s X h sl
  have hx : ∀ l, l < 32 → ((laneAddress g f 1 l).toNat % 1 = 0 ∧ canonical (laneAddress g f 1 l) = true ∧
      s.translate g.core (s.pasidOf 1) (vaOf (laneAddress g f 1 l)) .store = .ok (X l) ∧ (X l).kind < 2) ∧ s.plainPa (lineOf (X l).pa) = true := by decide +kernel
  exact ⟨⟨issues_of rfl rfl rfl rfl ⟨rfl, rfl, rfl⟩ (by decide +kernel), by unfold State.Inv; decide +kernel, calm_of (by decide +kernel), rfl, rfl, .inl rfl,
    fun l hl _ => ⟨reached_of (hx l hl).1, (hx l hl).2⟩, reached_of (by decide +kernel), by decide +kernel⟩,
    issues_of rfl rfl rfl rfl ⟨rfl, rfl, rfl⟩ (by decide +kernel), by unfold State.Inv; decide +kernel, calm_of (by decide +kernel), rfl,
    by decide +kernel⟩

/-- Every lane at both widths, compare-and-swap among them, and the scalar form. -/
theorem witness_Atomics :
    let c := mem 2 0 12 14 7 false
    let g := gang0 [(12, 0x40000)]
    let s := with1 g stream0
    Issues s stream0 g ∧ Calm s ∧ atomWf (mem 2 0 12 14 0 false) = true ∧ atomWf c = true ∧ stream0.answers = [] ∧ Held g [14] ∧
      (∀ z, z = 4 ∨ z = 8 → ∀ l, l < 32 → stream0.active.getLsbD l = true →
        Reached s stream0 g z .atomic (laneAddress g c z l) (xlat s (laneAddress g c z l) .atomic)) ∧
      Reached s stream0 g 8 .atomic (scalarAddress g c 8) (xlat s (scalarAddress g c 8) .atomic) := by
  intro c g s
  have hx : ∀ z ∈ [4, 8], ∀ l, l < 32 → ((laneAddress g c z l).toNat % z = 0 ∧ canonical (laneAddress g c z l) = true ∧
      s.translate g.core (s.pasidOf 1) (vaOf (laneAddress g c z l)) .atomic = .ok (xlat s (laneAddress g c z l) .atomic) ∧
      (xlat s (laneAddress g c z l) .atomic).kind < 2) := by decide +kernel
  exact ⟨issues_of rfl rfl rfl rfl ⟨rfl, rfl, rfl⟩ (by decide +kernel), calm_of (by decide +kernel), by decide, by decide, rfl, .inl rfl,
    fun z hz l hl _ => reached_of (hx z (by rcases hz with rfl | rfl <;> decide) l hl), reached_of (by decide +kernel)⟩

/-- The largest extent. -/
theorem witness_ZeroBlocks :
    let f := mem 2 0 12 0 4 false
    let g := gang0 [(12, 0x40000)]
    let s := with1 g stream0
    let X := fun l => xlat s (laneAddress g f 1024 l) .zero
    Issues s stream0 g ∧ s.Inv ∧ Calm s ∧ extentWf f = true ∧ stream0.answers = [] ∧ Held g [] ∧
      ∀ l, l < 32 → stream0.active.getLsbD l = true → Reached s stream0 g 1024 .zero (laneAddress g f 1024 l) (X l) := by
  intro f g s X
  have hx : ∀ l, l < 32 → ((laneAddress g f 1024 l).toNat % 1024 = 0 ∧ canonical (laneAddress g f 1024 l) = true ∧
      s.translate g.core (s.pasidOf 1) (vaOf (laneAddress g f 1024 l)) .zero = .ok (X l) ∧ (X l).kind < 2) := by decide +kernel
  exact ⟨issues_of rfl rfl rfl rfl ⟨rfl, rfl, rfl⟩ (by decide +kernel), by unfold State.Inv; decide +kernel, calm_of (by decide +kernel), rfl, rfl,
    .inl rfl, fun l hl _ => reached_of (hx l hl)⟩

theorem witness_PrefAndCommit : Issues s0 stream0 g0 := issues0

/-- Lane 0 misaligned; lane 0 not canonical; a page that may not be written, I/O memory, and an alias range without a window; lane 31 of
an LDS past the scratchpad, the lanes below it inside, and one misaligned there. -/
theorem witness_AddressTraps :
    let f := mem 2 0 12 14 2 false
    let ready := fun (s : State) (g : Gang) => Issues s stream0 g ∧ TrapReady s stream0 g launch1 ∧ Held g [14]
    let g := gang0 [(12, 0x40001)]
    let h := gang0 [(12, 0x80000000000000)]
    let p := gang0 [(12, 0x40000)]
    let page := fun (w : Bool) (kind : Nat) => { with1 p stream0 with tlb := [{ tlb0 with w := w, kind := kind }] }
    let k := gang0 [(12, 3972)]
    let m := gang0 [(12, 1)]
    (stream0.active.getLsbD 0 = true ∧ loadWf f = true ∧ storeWf f = true ∧ atomWf f = true ∧ extentWf (mem 2 0 12 0 2 false) = true) ∧
      (ready (with1 g stream0) g ∧ ∀ z ∈ [4, 8, 256], (laneAddress g f z 0).toNat % z ≠ 0 ∧ (scalarAddress g f z).toNat % z ≠ 0) ∧
      (ready (with1 h stream0) h ∧ ∀ z ∈ [4, 8, 256], (laneAddress h f z 0).toNat % z = 0 ∧ canonical (laneAddress h f z 0) = false ∧
        (scalarAddress h f z).toNat % z = 0 ∧ canonical (scalarAddress h f z) = false) ∧
      (ready (page false 0) p ∧ ready (page true 3) p ∧ ready (page true 4) p ∧ canonical 0x40000 = true ∧
        (∀ z ∈ [4, 8, 256], laneAddress p f z 0 = 0x40000 ∧ scalarAddress p f z = 0x40000) ∧
        Forbidden (page false 0) stream0 p 4 .store 0x40000 ∧ Forbidden (page true 3) stream0 p 8 .atomic 0x40000 ∧
        Forbidden (page true 3) stream0 p 256 .zero 0x40000 ∧ Forbidden (page true 4) stream0 p 4 .load 0x40000) ∧
      (ready (with1 k stream0) k ∧ (with1 k stream0).splice? 1 0 = some splice0 ∧
        (∀ j, j < 31 → stream0.active.getLsbD j = true →
          (laneAddress k f 4 j).toNat % 4 = 0 ∧ (laneAddress k f 4 j).toNat + 4 ≤ splice0.size) ∧
        (laneAddress k f 4 31).toNat % 4 = 0 ∧ splice0.size < (laneAddress k f 4 31).toNat + 4) ∧
      (ready (with1 m stream0) m ∧ (laneAddress m f 4 0).toNat % 4 ≠ 0) := by
  intro f ready g h p page k m
  have r : ∀ (s : State) (g : Gang), s.cur = some 0 → s.streams = [stream0] → s.gangs = [g] → s.launches = [launch1] →
      s.drained stream0 = true → g.launch = 1 ∧
      g.idx = 0 ∧ g.xb = true ∧ g.pending = [] ∧ g.races = [] ∧ g.place.isSome = true ∧ g.hm = false ∧ g.sb = [] ∧ g.belay = [] → ready s g := by
    intro s g h1 h2 h3 h4 hd ⟨hl, hi, hx, hp, hr, hc, hm, hs, hb⟩
    have so : s.streamsOf stream0.launch g.idx = [stream0] := by rw [hi]; simp only [State.streamsOf, h2]; decide +kernel
    refine ⟨issues_of h1 (by rw [h2]; rfl) (by rw [h3]; rfl) hl ⟨hp, hr, hc⟩ ⟨by rw [hi]; decide +kernel, hd, ?_, ?_⟩,
      ready_of (by simp only [State.launch?, h4]; decide +kernel) (by decide) hm fun u hu => ?_, .inl hx⟩
    · simp [Gang.belayUsed, hb]
    · simp [Gang.storesUsed, hs]
    · rw [so, List.mem_singleton] at hu; subst hu
      exact ⟨by simp only [State.stream?, h2]; decide +kernel, .inl rfl⟩
  have c : ∀ rs, let g := gang0 rs
      g.launch = 1 ∧ g.idx = 0 ∧ g.xb = true ∧ g.pending = [] ∧ g.races = [] ∧ g.place.isSome = true ∧ g.hm = false ∧ g.sb = [] ∧ g.belay = [] :=
    fun _ => ⟨rfl, rfl, rfl, rfl, rfl, rfl, rfl, rfl, rfl⟩
  have e : ∀ w kind, (page w kind).tlbHit 0 ((page w kind).pasidOf 1) (vaOf 0x40000) .load = some { tlb0 with w := w, kind := kind } :=
    fun _ _ => rfl
  exact ⟨by decide +kernel, ⟨r _ _ rfl rfl rfl rfl rfl (c _), by decide +kernel⟩, ⟨r _ _ rfl rfl rfl rfl rfl (c _), by decide +kernel⟩,
    ⟨r _ _ rfl rfl rfl rfl rfl (c _), r _ _ rfl rfl rfl rfl rfl (c _), r _ _ rfl rfl rfl rfl rfl (c _), by decide +kernel, by decide +kernel,
      ⟨0, _, rfl, rfl, .inl ⟨rfl, rfl⟩⟩, ⟨0, _, rfl, rfl, .inr (.inl ⟨rfl, .inl rfl⟩)⟩, ⟨0, _, rfl, rfl, .inr (.inr (.inl ⟨rfl, rfl⟩))⟩,
      0, _, rfl, rfl, .inr (.inr (.inr (.inr ⟨rfl, by decide +kernel⟩)))⟩,
    ⟨r _ _ rfl rfl rfl rfl rfl (c _), rfl, by decide +kernel⟩, r _ _ rfl rfl rfl rfl rfl (c _), by decide +kernel⟩

/-- A walk that has failed, and a page of which no miss is outstanding. -/
theorem witness_TranslationFaultWaits :
    let f := mem 2 0 12 14 3 false
    let g := gang0 [(12, 0x400000000000)]
    let t := { stream0 with walkFails := [(0x40000000, .load, .fault 1)] }
    let s := with1 g t
    let s2 := with1 g stream0
    let a := scalarAddress g f 8
    (Issues s t g ∧ loadWf f = true ∧ a.toNat % 8 = 0 ∧ canonical a = true ∧ s.translate g.core (s.pasidOf 1) (vaOf a) .load = .error (.fault 1)) ∧
      (Issues s2 stream0 g ∧ g.core = some 0 ∧ s2.translate g.core (s2.pasidOf 1) (vaOf a) .load = .error .wait ∧
        (s2.misses.filter (·.die == 0 / 128)).length < 256) :=
  ⟨⟨issues_of rfl rfl rfl rfl ⟨rfl, rfl, rfl⟩ (by decide +kernel), by decide +kernel⟩,
    issues_of rfl rfl rfl rfl ⟨rfl, rfl, rfl⟩ (by decide +kernel), by decide +kernel⟩

theorem witness_CommitAndReturn :
    let u : Unc := { seq := 7, pc := 0x300, load := true }
    let v : Unc := { seq := 9, pc := 0x308, load := true }
    let e : StoreEntry := { sid := 0, seq := 7, committed := false, lane := 0, place := .mem 0x40000 0x40000, bytes := [(0, 5)], waiting := false }
    let t := { stream0 with unc := [u, v] }
    let g := { g0 with sb := [e], belay := [{ sid := 0, seq := 7, reg := .s 5, old := .s 3, flight := [] }]
                       pending := [{ sids := [0], reg := .s 5, old := .s 8, rows := allRows, width := 64, tag := 0, net := false, seq := 8, val := .s 7 }] }
    let h := { g with tagScalar := 1 }
    let s := with1 g t
    s.stream? 0 = some t ∧ t.homes = [0] ∧ s.gang? 1 0 = some g ∧ t.unc = u :: [v] ∧ (∀ e ∈ g.sb, e.sid = t.sid → u.seq ≤ e.seq) ∧
      (∀ p ∈ g.pending, p.tag = g.tagOf p.reg) ∧ (with1 h t).gang? 1 0 = some h ∧ (∀ p ∈ h.pending, p.tag ≠ h.tagOf p.reg) ∧ h.core = some 0 :=
  ⟨rfl, by decide +kernel, rfl, rfl, by decide, by decide +kernel, rfl, by decide +kernel, rfl⟩

theorem witness_RollbackRestores :
    let u : Unc := { seq := 7, pc := 0x300, load := true }
    let t := { stream0 with unc := [u] }
    let g := { g0 with belay := [{ sid := 0, seq := 9, reg := .s 5, old := .s 3, flight := [] }, { sid := 0, seq := 7, reg := .s 5, old := .s 4, flight := [] }] }
    let s := with1 g t
    s.stream? 0 = some t ∧ t.homes = [0] ∧ s.gang? 1 0 = some g ∧ s.streamsOf 1 0 = [t] ∧ t.unc.head? = some u ∧
      (∀ e ∈ g.belay, e.sid = t.sid) ∧ (∀ e ∈ g.belay, e.reg ≠ .s 63) ∧
      (∀ e ∈ g.belay, e.reg = .s 5 → e.old = .s 3 ∨ e.old = .s 4) ∧
      ((g.belay.filter (·.reg == .s 5)).getLast?.map (·.old)) = some (.s 4) :=
  ⟨rfl, by decide +kernel, rfl, by decide +kernel, rfl, by decide +kernel⟩

theorem witness_TranslationAndLines :
    let m : TlbMiss := { die := 0, pasid := 1, page := 0x12, waiters := [(0, .store)] }
    let t := { stream0 with wait := .walk }
    let s := { with1 g0 t with misses := [m], tlb := [] }
    let w := match s.walkFor (some 0) 1 (0x12 * 65536) with
      | .ok x => x
      | .error _ => xlat s0 0 .load
    let x := xlat s0 0x40000 .fetch
    (s.Inv ∧ Calm s ∧ s.stream? 0 = some t ∧ s.streamCore t = some 0 ∧ m.page = vaOf 0x123456 / 65536 ∧ m.waiters = [(t.sid, .store)] ∧
        s.misses = [m] ∧ s.walkFor (some m.die) m.pasid (m.page * 65536) = .ok w ∧ permits .store w.kind w.w w.x = true ∧
        w.leafPa % 8 = 0 ∧ w.leaf = s.mem.word w.leafPa) ∧
      (Calm s0 ∧ s0.stream? 0 = some stream0 ∧ s0.streamCore stream0 = some 0 ∧ stream0.wait = .none ∧ stream0.stopped = false ∧
        canonical stream0.pc = true ∧ s0.translate (some 0) (s0.pasidOf 1) 0x40000 .fetch = .ok x) :=
  ⟨⟨by unfold State.Inv; decide +kernel, calm_of (by decide +kernel), rfl, by decide +kernel⟩, calm0, rfl, by decide +kernel⟩

def knotRegs : List (Nat × Word) := [(8, 0x50000), (9, 0x100000005)]
abbrev knotGang : Gang := gang0 knotRegs
/-- No record; a record that expects 3 and has 1; one whose next arrival is the last. -/
def noKnot : State := with2 knotRegs tables
def knot3 : State := with2 knotRegs (knotAt 0x50000 3 1 7 1 0 1 tables)
def knot2 : State := with2 knotRegs (knotAt 0x50000 2 1 0xFFFFFFFF 1 0 1 tables)
/-- The gang with the knot in its last entry. -/
def knotMember : Gang := { knotGang with members := vset knotGang.members 15 { handle := 0x50000, av := true, agen := 7 } }
def knot3m : State := { with1 knotMember stream0 with mem := knotAt 0x50000 3 1 7 1 0 1 tables }

theorem handleAt_of {s : State} {t : Stream} {g : Gang} {n pa : Nat} {h : Word} (x : Xlat)
    (hx : h.toNat % n = 0 ∧ canonical h = true ∧ s.translate g.core (s.pasidOf t.launch) (vaOf h) .store = .ok x ∧ x.kind < 2)
    (hp : x.pa = pa) : HandleAt s t g h n pa := ⟨x, reached_of hx, hp⟩

/-- A free record; a live one with the gang outside and inside it; the last arrival; a wait of another generation. -/
theorem witness_KnotWords :
    let f := kw 9 8 20 false
    (Issues noKnot stream0 knotGang ∧ Calm noKnot ∧ handleOf knotGang f = 0x50000 ∧
        HandleAt noKnot stream0 knotGang 0x50000 32 0x50000 ∧ (noKnot.knot 0x50000).flags % 2 = 0 ∧
        (vget knotGang.s f.b.toNat 0).toNat < 2 ^ 33) ∧
      (Issues knot3 stream0 knotGang ∧ Calm knot3 ∧ KnotAt knot3 stream0 knotGang 0x50000 0x50000 ∧
        (∀ j, j < 16 → (knotGang.entry j).handle ≠ 0x50000) ∧ (knotGang.entry 0).handle = 0 ∧ (∀ j, j < 0 → (knotGang.entry j).handle ≠ 0) ∧ (knot3.knot 0x50000).exp = 3 ∧
        (knot3.knot 0x50000).arr = 1 ∧ (knot3.knot 0x50000).head = 0 ∧
        (knot3.knot 0x50000).gen ≠ (vget knotGang.s f.b.toNat 0).toNat % 2 ^ 32) ∧
      (Issues knot3m stream0 knotMember ∧ Calm knot3m ∧ KnotAt knot3m stream0 knotMember 0x50000 0x50000 ∧
        MemberAt knotMember 0x50000 15 ∧ 0 < (knot3m.knot 0x50000).exp ∧ (knot3m.knot 0x50000).head = 0 ∧
        0 < (knot3m.knot 0x50000).arr) ∧
      (Issues knot2 stream0 knotGang ∧ KnotAt knot2 stream0 knotGang 0x50000 0x50000 ∧ (knot2.knot 0x50000).head = 0 ∧
        (knot2.knot 0x50000).arr + 1 = (knot2.knot 0x50000).exp) :=
  ⟨⟨issues2 _ _, calm2 _ _, by decide +kernel, handleAt_of (xlatAt noKnot (some 0) 0x50000 .store) (by decide +kernel) (by decide +kernel),
      by decide +kernel⟩,
    ⟨issues2 _ _, calm2 _ _,
      ⟨handleAt_of (xlatAt knot3 (some 0) 0x50000 .store) (by decide +kernel) (by decide +kernel), by decide +kernel⟩, by decide +kernel⟩,
    ⟨issues_of rfl rfl rfl rfl ⟨rfl, rfl, rfl⟩ (by decide +kernel), calm_of (by decide +kernel),
      ⟨handleAt_of (xlatAt knot3m (some 0) 0x50000 .store) (by decide +kernel) (by decide +kernel), by decide +kernel⟩,
      by unfold MemberAt; decide +kernel, by decide +kernel⟩,
    issues2 _ _, ⟨handleAt_of (xlatAt knot2 (some 0) 0x50000 .store) (by decide +kernel) (by decide +kernel), by decide +kernel⟩,
    by decide +kernel⟩

def waitRegs : List (Nat × Word) := [(8, 0x50000), (9, 3)]
/-- A record in generation 3 with a waiter; records that fail with reasons 2 and 3; one that takes engines. -/
def knotLive : State := with2 waitRegs (knotAt 0x50000 4 1 3 1 0x60000 1 tables)
def knotOther : State := with2 waitRegs (knotAt 0x50000 4 1 3 1 0 2 tables)
def knotOver : State := with2 waitRegs (knotAt 0x50000 4 5 3 1 0 1 tables)
def knotEng : State := with2 waitRegs (knotAt 0x50000 2 1 3 3 0 1 tables)
/-- A core copy of its PASID is under way. -/
def knotBusy : State :=
  let w : PacketWork := { slot := 0, words := Vector.replicate 8 0, progress := 64, staged := [], out := [], before := [], done := false
                          stamped := false, lost := false, parked := false, rejected := none }
  { knotEng with coreCmds := [{ seq := 1, asked := false, core := 0, launch := 1, gang := 0, splice := 0, pasid := 1, work := w }] }
def knotNone : State := with2 waitRegs tables

theorem witness_KnotWaitsAndChecks :
    let g := gang0 waitRegs
    let f := kw 9 8 20 false
    let x := xlatAt knotLive none 0x100180 .store
    (Issues knotLive stream0 g ∧ Calm knotLive ∧ knotLive.Inv ∧ KnotAt knotLive stream0 g 0x50000 0x50000 ∧ handleOf g f = 0x50000 ∧
        (knotLive.knot 0x50000).gen = (vget g.s f.b.toNat 0).toNat % 2 ^ 32 ∧
        (knotLive.context 1).gpool + BitVec.ofNat 64 (0x15000 * g.record + 0x180 + 16 * (stream0.slotsOf g.idx).headD 0) = 0x100180 ∧
        knotLive.engineAccess 1 0x100180 .store = .ok (knotLive, x) ∧ (x.pa + 12 ≤ 0x50000 ∨ 0x50000 + 32 ≤ x.pa)) ∧
      (Issues knotNone stream0 g ∧ Issues knotOther stream0 g ∧ Issues knotOver stream0 g ∧ Calm knotNone ∧ Calm knotOther ∧ Calm knotOver ∧
        TrapReady knotNone stream0 g launch1 ∧ TrapReady knotOther stream0 g launch1 ∧ TrapReady knotOver stream0 g launch1 ∧
        HandleAt knotNone stream0 g 0x50000 32 0x50000 ∧ (knotNone.knot 0x50000).refusal 0x50000 1 = some 1 ∧
        HandleAt knotOther stream0 g 0x50000 32 0x50000 ∧ (knotOther.knot 0x50000).refusal 0x50000 1 = some 2 ∧
        HandleAt knotOver stream0 g 0x50000 32 0x50000 ∧ (knotOver.knot 0x50000).refusal 0x50000 1 = some 9) ∧
      (Calm knotEng ∧ knotEng.payloadsDone .bulkCopy 1 = true ∧ knotBusy.payloadsDone .coreCopy 1 = false ∧
        Calm knotBusy ∧ knotBusy.handleAccess none 1 0x50000 32 = .ok (knotBusy, 0x50000) ∧ knotEng.handleAccess none 1 0x50000 32 = .ok (knotEng, 0x50000) ∧ (knotEng.knot 0x50000).refusal 0x50000 1 = none ∧
        (knotEng.knot 0x50000).flags / 2 % 2 = 1 ∧ 0 < (knotEng.knot 0x50000).exp ∧ (knotEng.knot 0x50000).head = 0) ∧
      (Calm knotLive ∧ knotLive.handleAccess none 1 0x50000 32 = .ok (knotLive, 0x50000) ∧ (knotLive.knot 0x50000).flags / 2 % 2 = 0) :=
  ⟨⟨issues2 _ _, calm2 _ _, by unfold State.Inv; decide +kernel,
      ⟨handleAt_of (xlatAt knotLive (some 0) 0x50000 .store) (by decide +kernel) (by decide +kernel), by decide +kernel⟩, by decide +kernel,
      by decide +kernel, by decide +kernel, engine_of (by decide +kernel), by decide +kernel⟩,
    ⟨issues2 _ _, issues2 _ _, issues2 _ _, calm2 _ _, calm2 _ _, calm2 _ _, ready2 _ _, ready2 _ _, ready2 _ _,
      handleAt_of (xlatAt knotNone (some 0) 0x50000 .store) (by decide +kernel) (by decide +kernel), by decide +kernel,
      handleAt_of (xlatAt knotOther (some 0) 0x50000 .store) (by decide +kernel) (by decide +kernel), by decide +kernel,
      handleAt_of (xlatAt knotOver (some 0) 0x50000 .store) (by decide +kernel) (by decide +kernel), by decide +kernel⟩,
    ⟨calm2 _ _, by decide +kernel, by decide +kernel, calm_of (by decide +kernel),
      handle_of (x := xlatAt knotBusy none 0x50000 .store) (by decide +kernel) (by decide +kernel) rfl,
      handle_of (x := xlatAt knotEng none 0x50000 .store) (by decide +kernel) (by decide +kernel) rfl, by decide +kernel⟩,
    calm2 _ _, handle_of (x := xlatAt knotLive none 0x50000 .store) (by decide +kernel) (by decide +kernel) rfl, by decide +kernel⟩

/-- Words that differ, that are equal, and that are less; an answer; and a wait whose word has changed or grown. -/
theorem witness_Watches :
    let g := gang0 [(8, 0x40000), (9, 5)]
    let h := gang0 [(8, 0x40000), (9, 0)]
    let s := with2 [(8, 0x40000), (9, 5)] tables
    let f := kw 9 8 20 false
    let a := { stream0 with answers := [(0, some (leBytes 8 7))] }
    let t := { stream0 with wait := .watch true 0x40000 0, due := true }
    let u := { stream0 with wait := .watch false 0x40000 1, due := true }
    (Issues s stream0 g ∧ Calm s ∧ stream0.answers = [] ∧ Reached s stream0 g 8 .load (vget g.s f.a.toNat 0) (xlat s 0x40000 .load) ∧
        s.mem.word (xlat s 0x40000 .load).pa ≠ vget g.s f.b.toNat 0 ∧ s.mem.word (xlat s 0x40000 .load).pa < vget g.s f.b.toNat 0) ∧
      (Issues (with1 h stream0) stream0 h ∧ Calm (with1 h stream0) ∧
        Reached (with1 h stream0) stream0 h 8 .load (vget h.s f.a.toNat 0) (xlat s 0x40000 .load) ∧
        s.mem.word (xlat s 0x40000 .load).pa = vget h.s f.b.toNat 0) ∧
      (Issues (with1 g a) a g ∧ Calm (with1 g a) ∧ Reached (with1 g a) a g 8 .load (vget g.s f.a.toNat 0) (xlat s 0x40000 .load) ∧
        a.answers = [(4 * (a.slotsOf g.idx).headD 0, some (leBytes 8 (7 : Word).toNat))]) ∧
      ((with1 g0 t).stream? 0 = some t ∧ t.wait = .watch true 0x40000 0 ∧ (with1 g0 t).guest.owned = [] ∧
        0 ≤ (with1 g0 t).mem.word 0x40000 ∧ t.due = true) ∧
      ((with1 g0 u).stream? 0 = some u ∧ u.wait = .watch false 0x40000 1 ∧ (with1 g0 u).guest.owned = [] ∧
        (with1 g0 u).mem.word 0x40000 ≠ 1 ∧ u.due = true) :=
  ⟨⟨issues2 _ _, calm2 _ _, rfl, reached_of (by decide +kernel), by decide +kernel⟩,
    ⟨issues2 _ tables, calm2 _ tables, reached_of (by decide +kernel), by decide +kernel⟩,
    ⟨issues_of rfl rfl rfl rfl ⟨rfl, rfl, rfl⟩ (by decide +kernel), calm_of (by decide +kernel), reached_of (by decide +kernel), by decide +kernel⟩,
    ⟨rfl, rfl, rfl, by decide +kernel, rfl⟩, rfl, rfl, rfl, by decide +kernel, rfl⟩

/-- A gang with a block and without one, at RACQ and waiting there; and words of each kind that name v32, the lowest, or v63. -/
theorem witness_ExtendedBlocks :
    let g := { g0 with xb := false }
    let t := { stream0 with wait := .racq }
    let s := with1 g t
    let s1 := with1 g stream0
    let first := fun (r : Nat) (regs : List Nat) => r ∈ regs ∧ 32 ≤ r ∧ ∀ r' ∈ regs, 32 ≤ r' → r ≤ r'
    (Issues s0 stream0 g0 ∧ g0.core = some 0 ∧ g0.xb = true) ∧
      (Issues s1 stream0 g ∧ g.xb = false ∧
        (s1.gangs.filter fun h => h.core == some 0 && h.xb || h.place.isNone && h.blockCore == some 0).length < 8 ∧
        ∀ u ∈ s1.streams, u.wait ≠ .racq) ∧
      (t ∈ s.streams ∧ t.homes = [g.idx] ∧ t.wait = .racq ∧ s.gang? t.launch g.idx = some g ∧ g.xb = false ∧ g.core = some 0 ∧
        (s.gangs.filter fun h => h.core == some 0 && h.xb || h.place.isNone && h.blockCore == some 0).length < 8 ∧
        ∀ u ∈ s.streams, u.wait = .racq → u = t) ∧
      (Issues s1 stream0 g ∧ TrapReady s1 stream0 g launch1 ∧ g.xb = false ∧
        VRForm (.iadd (vr 0 63 32 5 1 false)) .iadd Prefix.none (vr 0 63 32 5 1 false) 4 false ∧
        first 32 (vectorRegs .iadd Prefix.none (vr 0 63 32 5 1 false)) ∧ first 63 (memoryRegs (mem 0 63 2 5 2 false) false) ∧
        first 32 (memoryRegs (mem 2 0 2 31 4 false) true) ∧ first 40 [(kw 40 8 20 false).b.toNat] ∧
        first 32 [(kw 40 31 20 false).a.toNat, (kw 40 31 20 false).a.toNat + 1, (kw 40 31 20 false).b.toNat] ∧
        Whole stream0 g ∧ first 35 [(mat false false 35 0 0 0 0 false).aux.toNat]) := by
  refine ⟨⟨issues0, rfl, rfl⟩, ⟨issues_of rfl rfl rfl rfl ⟨rfl, rfl, rfl⟩ (by decide +kernel), by decide +kernel⟩,
    ⟨by simp [with1], by decide +kernel, rfl, rfl, rfl, rfl, by decide +kernel, fun u h _ => by simpa [with1] using h⟩,
    issues_of rfl rfl rfl rfl ⟨rfl, rfl, rfl⟩ (by decide +kernel), ready_of rfl (by decide) rfl (by decide +kernel), rfl, .word .iadd _,
    by decide, by decide, by decide, by decide, by decide, by unfold Whole; decide +kernel, by decide⟩

/-- The largest size that fits, and one byte more. -/
theorem witness_ResizeScratchpad :
    let ok := fun (n : Word) =>
      let s := with2 [(8, n)] tables
      Issues s stream0 (gang0 [(8, n)]) ∧ Calm s ∧ (gang0 [(8, n)]).core = some 0 ∧
        s.splice? 1 (s.spliceOf 1 0) = some splice0 ∧ splice0.core = some 0 ∧ s.coreCmds = [] ∧ s.locks = [] ∧
        (∀ h ∈ s.gangs, h.sb = []) ∧ splice0.scratch.wf = true ∧ splice0.badBlocks = []
    let n := fun (n : Word) => (n.toNat + 255) / 256 * 256
    let used := ((s0.splices.filter fun x => x.core == some 0).map (·.size)).sum
    ok 737280 ∧ ok 737281 ∧ n 737280 ≤ 737280 ∧ used - 4096 + n 737280 ≤ 737280 ∧ 737280 < n 737281 ∧
      ∀ a, splice0.size ≤ a → splice0.scratch.get a = 0 :=
  ⟨⟨issues2 _ _, calm2 _ _, by decide +kernel⟩, ⟨issues2 _ _, calm2 _ _, by decide +kernel⟩, by decide +kernel, by decide +kernel,
    by decide +kernel, fun _ _ => rfl⟩

/-- An alias window of 2 blocks of i8 at 0x60000, decoded as f32. -/
def aliased (g : Gang) : State :=
  let w : FormatWindow := { enc := 0x60000, scale := 0x70000, aliasBase := 0x200000000000, ctl := 0x8000010C00000002 }
  { with1 g stream0 with io := { State.reset.io with fw := vset State.reset.io.fw 1 w } }

theorem witness_AliasLines :
    let w : Win := { n := 1, enc := 0x60000, scale := 0x70000, base := 0x200000000000, bits := 8, bytes := 4, efmt := .i8, dfmt := .f32, blocks := 2 }
    let e : StoreEntry := { sid := 0, seq := 7, committed := true, lane := 0, place := .mem 0x200000000040 0x200000000040
                            bytes := [(2, 0x20), (3, 0x41)], waiting := false }
    let g := { g0 with sb := [e] }
    let s := aliased g
    (s.aliasAt 0x200000000047 = some (w, 0) ∧ (∀ x ∈ s.aliasLines, x.1 ≠ 0x200000000047 / 64 * 64) ∧ s.guest.owned = []) ∧
      (s.Inv ∧ (∀ h ∈ s.gangs, h.sig = []) ∧ (∀ x ∈ s.launches, ∀ i, i < 16 → (x.region i).state = .unmarked) ∧ s.guest.owned = [] ∧
        s.stream? 0 = some stream0 ∧
        stream0.homes = [0] ∧ s.gang? 1 0 = some g ∧ g.sb = [e] ∧ e.sid = 0 ∧ e.committed = true ∧ e.waiting = false ∧ paRange s.memMap 0x200000000040 = .aliases ∧
        s.aliasAt 0x200000000040 = some (w, 0) ∧ w.efmt.scaled = false) :=
  ⟨⟨by decide +kernel, by decide +kernel, rfl⟩, by unfold State.Inv; decide +kernel, by decide +kernel, by decide +kernel, rfl, rfl,
    by decide +kernel, rfl, rfl,
    by decide +kernel⟩

def queueMem : Memory :=
  tables.write 0x50000 (leBytes 8 (hwqCheck 0x50000).toNat ++ leBytes 4 0 ++ leBytes 4 1 ++ leBytes 4 1 ++ leBytes 4 0 ++ leBytes 4 1 ++
    leBytes 12 0 ++ leBytes 8 0x70000 ++ leBytes 16 0)
def record (k o : Nat) : HwRecord := { key := BitVec.ofNat 64 k, pay := (1, 2, 3), order := o }
/-- A queue of two places with some records. -/
def queue2 (rs : List HwRecord) : HwQueue :=
  { pasid := 1, desc := 0x50000, descPa := 0x50000, home := 0, logcap := 1, spill := 0x70000, records := rs, mapped := true, lastUse := 0 }
def withQueue (rs : List HwRecord) : State := { with2 [(8, 0x50000)] queueMem with hwqs := [queue2 rs] }
def emptyQ : State := withQueue []
def oneQ : State := withQueue [record 5 9]
def fullQ : State := withQueue [record 5 9, record 5 7]
def waiter : Stream := slice 0 5 (.qpop 0x50000 6)
def waiterQ : State := { emptyQ with streams := [stream0, waiter] }
/-- The stream has been given a record. -/
def given : Stream := { stream0 with popped := some (record 5 9) }
def givenQ : State := { oneQ with streams := [given] }

/-- A full queue whose second record is the older of two equal keys; an empty one; one with a waiter; a record given; one with a record
to spill; one that is unmapped. -/
theorem witness_HardwareQueues :
    let f := kw 30 8 20 false
    let g := gang0 [(8, 0x50000)]
    let x := xlatAt oneQ none 0x70000 .store
    let waitsHere := fun (s : State) (q : HwQueue) (u : Stream) (n : Nat) =>
      u ∈ s.streams ∧ s.pasidOf u.launch = q.pasid ∧ u.wait = .qpop q.desc n
    (f.d.toNat % 4 = 0 ∧ handleOf g f = 0x50000 ∧ Issues fullQ stream0 g ∧ Calm fullQ ∧
        QueueAt fullQ stream0 g 0x50000 0x50000 (queue2 [record 5 9, record 5 7]) ∧ Foremost (queue2 [record 5 9, record 5 7]) (record 5 7) ∧
        2 ^ 1 ≤ [record 5 9, record 5 7].length ∧ TrapReady fullQ stream0 g launch1 ∧ stream0.popped = none ∧
        (∀ u n, ¬ waitsHere fullQ (queue2 [record 5 9, record 5 7]) u n) ∧ ∀ k, k < 4 → f.b.toNat ≠ 20 + k) ∧
      (Issues emptyQ stream0 g ∧ Calm emptyQ ∧ QueueAt emptyQ stream0 g 0x50000 0x50000 (queue2 []) ∧
        (∀ u n, ¬ waitsHere emptyQ (queue2 []) u n) ∧ (queue2 []).records.length < 2 ^ 1) ∧
      (Issues waiterQ stream0 g ∧ Calm waiterQ ∧ QueueAt waiterQ stream0 g 0x50000 0x50000 (queue2 []) ∧
        waitsHere waiterQ (queue2 []) waiter 6 ∧ waiterQ.stream? 5 = some waiter ∧
        ∀ u n, waitsHere waiterQ (queue2 []) u n → u ≠ waiter → 6 < n) ∧
      (Issues givenQ given g ∧ Calm givenQ ∧ QueueAt givenQ given g 0x50000 0x50000 (queue2 [record 5 9]) ∧ given.popped = some (record 5 9)) ∧
      (let q := queue2 [record 5 9]
       oneQ.hwq? 1 0x50000 = some q ∧ q.mapped = true ∧ Calm oneQ ∧ (vget oneQ.io.hqctl 0 0).getLsbD 63 = true ∧ q.spill % 64 = 0 ∧
         q.spill < 2 ^ 64 ∧ oneQ.engineAccess 1 0x70000 .store = .ok (oneQ, x) ∧ x.kind < 2) ∧
      (let q := { queue2 [] with mapped := false }
       let s := { s0 with hwqs := [q], io := { s0.io with hqctl := Vector.replicate 2 0 } }
       s.hwqs = [q] ∧ q.mapped = false ∧ q.home < 2 ∧ (vget s.io.hqctl q.home 0).getLsbD 63 = false ∧
         vget s.fw.runLists q.home [] = [] ∧ ∀ c ∈ s.counters, c.control.getLsbD 60 = false) := by
  have hx : ∀ s ∈ [fullQ, emptyQ, waiterQ, givenQ], (0x50000 : Word).toNat % 64 = 0 ∧ canonical 0x50000 = true ∧
      s.translate (some 0) (s.pasidOf 1) (vaOf 0x50000) .store = .ok (xlatAt s (some 0) 0x50000 .store) ∧
      (xlatAt s (some 0) 0x50000 .store).kind < 2 ∧ (xlatAt s (some 0) 0x50000 .store).pa = 0x50000 := by decide +kernel
  have ha : ∀ s ∈ [fullQ, emptyQ, waiterQ, givenQ], ∀ t : Stream, t.launch = 1 → HandleAt s t (gang0 [(8, 0x50000)]) 0x50000 64 0x50000 :=
    fun s h t ht => by
      obtain ⟨h1, h2, h3, h4, h5⟩ := hx s h
      exact handleAt_of _ ⟨h1, h2, by rw [ht]; exact h3, h4⟩ h5
  have hn : ∀ (s : State) (q : HwQueue), s.streams = [stream0] → ∀ u n, ¬ (u ∈ s.streams ∧ s.pasidOf u.launch = q.pasid ∧ u.wait = .qpop q.desc n) := by
    rintro s q h u n ⟨hu, -, hw⟩
    rw [h, List.mem_singleton] at hu; subst hu; simp [stream0] at hw
  refine ⟨⟨by decide, by decide +kernel, issues_of rfl rfl rfl rfl ⟨rfl, rfl, rfl⟩ (by decide +kernel), calm_of (by decide +kernel),
      ⟨ha _ (by simp) _ rfl, by decide +kernel, by decide +kernel, by decide +kernel, rfl⟩, by unfold Foremost; decide +kernel, by decide,
      ready_of rfl (by decide) rfl (by decide +kernel), rfl, ?_, by decide +kernel⟩,
    ⟨issues_of rfl rfl rfl rfl ⟨rfl, rfl, rfl⟩ (by decide +kernel), calm_of (by decide +kernel),
      ⟨ha _ (by simp) _ rfl, by decide +kernel, by decide +kernel, by decide +kernel, rfl⟩, ?_, by decide⟩,
    ⟨issues_of rfl rfl rfl rfl ⟨rfl, rfl, rfl⟩ (by decide +kernel), calm_of (by decide +kernel),
      ⟨ha _ (by simp) _ rfl, by decide +kernel, by decide +kernel, by decide +kernel, rfl⟩, ⟨by simp [waiterQ], by decide +kernel, rfl⟩,
      by decide +kernel, ?_⟩,
    ⟨issues_of rfl rfl rfl rfl ⟨rfl, rfl, rfl⟩ (by decide +kernel), calm_of (by decide +kernel),
      ⟨ha _ (by simp) _ rfl, by decide +kernel, by decide +kernel, by decide +kernel, rfl⟩, rfl⟩,
    ⟨by decide +kernel, rfl, calm_of (by decide +kernel), by decide +kernel, by decide +kernel, by decide +kernel, engine_of (by decide +kernel),
      by decide +kernel⟩,
    rfl, rfl, by decide +kernel, by decide +kernel, rfl, by decide +kernel⟩
  · exact hn _ _ rfl
  · exact hn _ _ rfl
  · rintro u n ⟨hu, -, hw⟩ hne
    simp only [waiterQ, List.mem_cons, List.not_mem_nil, or_false] at hu
    rcases hu with rfl | rfl
    · simp [stream0] at hw
    · exact absurd rfl hne

def laneReg (f : Nat → Word) : VReg := vtab 32 f
/-- A gang with scalar registers and vector registers. -/
def gangV (rs : List (Nat × Word)) (vs : List (Nat × VReg)) : Gang :=
  { gang0 rs with v := vs.foldl (fun v r => vset v r.1 r.2) (Vector.replicate 64 zeroV) }

/-- A fill of 64 bytes, as a packet in the first lanes; and the header of a memory queue of two slots with room. -/
def fillReg : VReg := laneReg fun l =>
  if l = 0 then 0x4000000005 else if l = 3 then 0x77 else if l = 4 then 0x40000 else if l = 5 then 1 else 0
def headerMem : Memory :=
  tables.write 0x50000 (leBytes 8 0 ++ leBytes 8 0 ++ leBytes 4 1 ++ leBytes 4 0x1F ++ leBytes 8 0x1000 ++ leBytes 32 0)
def coreGang : Gang := gangV [] [(10, fillReg)]
def coreState : State := with1 coreGang stream0
def slotGang : Gang := gangV [(8, 0x50000)] [(10, fillReg)]
/-- The queue of that header, registered with a bulk engine. -/
def memQueue : MemQueue :=
  { pasid := 1, hdr := 0x50000, hdrPa := 0x50000, engine := .bulk 0 0, log := 1, cmask := 0x1F, dboff := 0x1000, db := 0, bound := true
    next := 0, idx := 0, err := false, errDue := false, badSlot := none, begun := [] }
def slotState : State := { with1 slotGang stream0 with mem := headerMem, queues := [memQueue] }

/-- SPAWN of 65536 gangs, of none, and of one more than the launch may have; a packet for the core's queue and for a memory queue. -/
theorem witness_SpawnAndSubmit :
    let f := kw 9 8 20 false
    let p := kw 10 8 20 false
    let pkt := submitted (some 5) fillReg
    let full := { launch1 with gangs := 0xFFFFFFFF }
    (Issues (with2 [(8, 65536)] tables) stream0 (gang0 [(8, 65536)]) ∧ (with2 [(8, 65536)] tables).launch? 1 = some launch1 ∧ 0 < launch1.spl ∧
        65536 % launch1.spl = 0 ∧ (vget (gang0 [(8, 65536)]).s f.a.toNat 0).toNat = 65536 ∧ launch1.gangs + 65536 < 2 ^ 32 ∧
        launch1.aborting = false) ∧
      (Issues s0 stream0 g0 ∧ TrapReady s0 stream0 g0 launch1 ∧ (vget g0.s f.a.toNat 0).toNat = 0) ∧
      (let s := { with2 [(8, 1)] tables with launches := [full] }
       Issues s stream0 (gang0 [(8, 1)]) ∧ TrapReady s stream0 (gang0 [(8, 1)]) full ∧ 2 ^ 32 ≤ full.gangs + 1) ∧
      (Issues coreState stream0 coreGang ∧ Held coreGang [10] ∧ coreGang.core = some 0 ∧ stream0.claim = none ∧ stream0.operands = [] ∧ handleOf coreGang p = 0 ∧
        vget coreGang.v p.b.toNat zeroV = fillReg ∧ 1 ≤ pktClass pkt ∧ pktClass pkt ≤ 5 ∧ copyReason true pkt = none ∧
        scratchRangeBad (((coreState.splice? 1 (coreState.spliceOf 1 0)).map (·.size)).getD 0) pkt = none ∧ EntryFree coreState stream0 coreGang .copy) ∧
      (Issues slotState stream0 slotGang ∧ Calm slotState ∧ Held slotGang [10] ∧ slotGang.core = some 0 ∧ handleOf slotGang p = 0x50000 ∧
        slotState.handleAccess (some 0) 1 0x50000 64 = .ok (slotState, 0x50000) ∧ slotState.headerReason 1 5 0x50000 = none ∧
        slotState.mem.nat 0x50010 4 = 1 ∧ slotState.mem.word 0x50000 = 0 ∧
        slotState.handleAccess (some 0) 1 0x50040 64 = .ok (slotState, 0x50040) ∧
        (0x50040 + 64 ≤ 0x50000 ∨ 0x50000 + 64 ≤ 0x50040) ∧ 0 < (slotState.mem.word 0x50008).toNat % 2 ^ 63 + 2 ^ 1) :=
  ⟨⟨issues2 _ _, rfl, by decide, by decide, by decide +kernel, by decide, rfl⟩, ⟨issues0, ready0, by decide +kernel⟩,
    ⟨issues_of rfl rfl rfl rfl ⟨rfl, rfl, rfl⟩ (by decide +kernel), ready_of rfl (by decide) rfl (by decide +kernel), by decide⟩,
    ⟨issues_of rfl rfl rfl rfl ⟨rfl, rfl, rfl⟩ (by decide +kernel), .inl rfl, rfl, rfl, rfl, by decide +kernel, by decide +kernel, by decide +kernel,
      by decide +kernel, by decide +kernel, by decide +kernel, 0, rfl, .inr (by decide +kernel)⟩,
    issues_of rfl rfl rfl rfl ⟨rfl, rfl, rfl⟩ (by decide +kernel), calm_of (by decide +kernel), .inl rfl, rfl, by decide +kernel,
    handle_of (x := xlatAt slotState (some 0) 0x50000 .store) (by decide +kernel) (by decide +kernel) rfl, by decide +kernel, by decide +kernel,
    by decide +kernel, handle_of (x := xlatAt slotState (some 0) 0x50040 .store) (by decide +kernel) (by decide +kernel) rfl, by decide +kernel⟩

theorem cellsOf_length (bs : List Byte) : ∀ a, (cellsOf a bs).length = bs.length := by
  induction bs with
  | nil => intro a; rfl
  | cons b bs h => intro a; simp [cellsOf, h]

/-- The n zeros of one line, as byLine gives them. -/
def lineCells (va n : Nat) : List Host.Cell := cellsOf va (List.replicate n 0)

/-- The cells of one line, before cells of other lines, are one group. -/
theorem byLine_append {L : Nat} {cs : List Host.Cell} (hcs : ∀ g ∈ byLine cs, ∀ y ∈ g.head?, lineOf y.1 ≠ L) :
    ∀ (c : Host.Cell) (tl : List Host.Cell), (∀ y ∈ c :: tl, lineOf y.1 = L) → byLine ((c :: tl) ++ cs) = (c :: tl) :: byLine cs := by
  intro c tl
  induction tl generalizing c with
  | nil =>
    intro h
    show byLine (c :: cs) = _
    simp only [byLine]
    split
    · next g hg =>
      have m := List.mem_of_find?_eq_some hg
      have k := List.find?_some hg
      cases g with
      | nil => simp at k
      | cons y t => exact absurd (by simpa [h c (by simp)] using k) (hcs _ m y (by simp))
    · rfl
  | cons d tl ih =>
    intro h
    have i := ih d fun y hy => h y (List.mem_cons_of_mem _ hy)
    have e : lineOf d.1 = lineOf c.1 := (h d (by simp)).trans (h c (by simp)).symm
    show byLine (c :: ((d :: tl) ++ cs)) = _
    simp only [byLine, i]
    have k : (byLine cs).filter (· != d :: tl) = byLine cs := by
      refine List.filter_eq_self.mpr fun g hg => ?_
      simp only [bne_iff_ne, ne_eq]; rintro rfl
      exact hcs _ hg d (by simp) (h d (by simp))
    simp [e, k]

/-- A read of one line, and of two. -/
theorem engine_line_of {s : State} {p pa va : Nat} {x : Xlat}
    (e : canonical (toWord va) = true ∧ s.walkFor none p (vaOf (toWord va)) = .ok x ∧ x.leaf ||| 0x200#64 = x.leaf ∧ x.leaf.getLsbD 5 = false ∧
      x.kind < 2 ∧ x.pa = pa) (g : s.guest.owned = []) : s.engineLine none p (toWord va) .load = .ok s pa := by
  have f : s.engineAccess p (toWord va) .load = .ok (s, x) := engine_of ⟨e.1, e.2.1, rfl, e.2.2.1, e.2.2.2.1⟩
  have w : Access.load.writes = false := rfl
  simp [State.engineLine, f, w, Nat.not_le.mpr e.2.2.2.2.1, g, e.2.2.2.2.2]

theorem engine_read_of {s : State} {p n pa : Nat} {a : Word} {x : Xlat} (va : Nat)
    (h : byLine (cellsOf a.toNat (List.replicate (n + 1) 0)) = [lineCells va (n + 1)])
    (e : canonical (toWord va) = true ∧ s.walkFor none p (vaOf (toWord va)) = .ok x ∧ x.leaf ||| 0x200#64 = x.leaf ∧ x.leaf.getLsbD 5 = false ∧
      x.kind < 2 ∧ x.pa = pa) (g : s.guest.owned = [] ∧ s.badLines = []) : s.engineRead p a (n + 1) = .ok s (s.mem.read pa (n + 1)) := by
  have f := engine_line_of e g.1
  have l : lineCells va (n + 1) = (va, 0) :: lineCells (va + 1) n := rfl
  simp only [State.engineRead]; rw [h, l]
  simp [f, EngineRes.bind, g.2, lineCells, cellsOf_length]

theorem engine_read_of2 {s : State} {p n m pa pb : Nat} {a : Word} {x y : Xlat} (va vb : Nat)
    (h : byLine (cellsOf a.toNat (List.replicate (n + m + 2) 0)) = [lineCells va (n + 1), lineCells vb (m + 1)])
    (e : canonical (toWord va) = true ∧ s.walkFor none p (vaOf (toWord va)) = .ok x ∧ x.leaf ||| 0x200#64 = x.leaf ∧ x.leaf.getLsbD 5 = false ∧
      x.kind < 2 ∧ x.pa = pa)
    (f : canonical (toWord vb) = true ∧ s.walkFor none p (vaOf (toWord vb)) = .ok y ∧ y.leaf ||| 0x200#64 = y.leaf ∧ y.leaf.getLsbD 5 = false ∧
      y.kind < 2 ∧ y.pa = pb) (g : s.guest.owned = [] ∧ s.badLines = []) :
    s.engineRead p a (n + m + 2) = .ok s (s.mem.read pa (n + 1) ++ s.mem.read pb (m + 1)) := by
  have e1 := engine_line_of e g.1
  have f1 := engine_line_of f g.1
  have l : lineCells va (n + 1) = (va, 0) :: lineCells (va + 1) n := rfl
  have k : lineCells vb (m + 1) = (vb, 0) :: lineCells (vb + 1) m := rfl
  simp only [State.engineRead]; rw [h, l, k]
  simp [e1, f1, EngineRes.bind, g.2, lineCells, cellsOf_length]

def buf7 : HalyardBuffer := { pasid := 1, n := 7, fmt := 1, len := 16, slices := (List.range 8).map fun i => 0x40000 + 0x100 * i }

/-- A plan of broadcasts in which this device is rank 0 and rank 1 is the root, with one bucket; and the state in which s8 is a. -/
def plan1 (b : Bucket) (err : Bool) : Plan :=
  { gen := 1, index := 3, pasid := 1, coll := 3, alg := 0, opr := 0, root := 1, deadline := 0, knot := 0, recVa := 0x50000, maskVa := 0
    ranks := [Config.deviceId.toNat, 5], bufs := [7], reserve := 4096, err := err, freed := false, done := 0, buckets := [b] }
def bucket1 : Bucket :=
  { n := 0, fires := 0, inFlight := false, order := 0, intr := false, own := false, owed := 0, contribs := [], held := [], late := 0
    reason := 0, parked := false, expired := [], written := [], recorded := false, lateDue := 0 }
def fireState (b : Bucket) (err : Bool) (a : Word) : State :=
  { with2 [(8, a)] tables with plans := [plan1 b err], buffers := [buf7] }
def peers (w : Word) : Gang := gangV [] [(12, laneReg fun l => BitVec.ofNat 64 (0x40000 + 64 * l)), (30, laneReg fun _ => w)]

/-- The state in which s8 names bucket 0 of that plan, for a trigger with an interrupt. -/
def triggerState : State := fireState bucket1 false 0x1000300000001

/-- The slices of that buffer read by an engine, each of one line. -/
theorem trigger_read (j : Nat) (h : j < 8) : triggerState.engineRead 1 (BitVec.ofNat 64 (buf7.slices.getD j 0)) (buf7.len * (buf7.format.width / 8)) =
    .ok triggerState (triggerState.mem.read (0x40000 + 0x100 * j) 64) := by
  have w : ∀ j, j < 8 → buf7.slices.getD j 0 = 0x40000 + 0x100 * j ∧
      byLine (cellsOf (BitVec.ofNat 64 (0x40000 + 0x100 * j)).toNat (List.replicate (63 + 1) 0)) = [lineCells (0x40000 + 0x100 * j) (63 + 1)] := by
    decide +kernel
  have e : ∀ j, j < 8 → canonical (toWord (0x40000 + 0x100 * j)) = true ∧
      triggerState.walkFor none 1 (vaOf (toWord (0x40000 + 0x100 * j))) = .ok (xlatAt triggerState none (toWord (0x40000 + 0x100 * j)) .load) ∧
      (xlatAt triggerState none (toWord (0x40000 + 0x100 * j)) .load).leaf ||| 0x200#64 =
        (xlatAt triggerState none (toWord (0x40000 + 0x100 * j)) .load).leaf ∧
      (xlatAt triggerState none (toWord (0x40000 + 0x100 * j)) .load).leaf.getLsbD 5 = false ∧
      (xlatAt triggerState none (toWord (0x40000 + 0x100 * j)) .load).kind < 2 ∧
      (xlatAt triggerState none (toWord (0x40000 + 0x100 * j)) .load).pa = 0x40000 + 0x100 * j := by decide +kernel
  have k : buf7.len * (buf7.format.width / 8) = 63 + 1 := by decide
  rw [(w j h).1, k]
  exact engine_read_of (n := 63) (pa := 0x40000 + 0x100 * j) (0x40000 + 0x100 * j) (w j h).2 (e j h) ⟨rfl, rfl⟩

/-- The commands with lanes of one peer, XATOM's for a return; HFIRE without a plan, without a bucket, with reserved bits, with the bucket
in each state, its data read; and HSTAT. -/
theorem witness_NetworkWords :
    let h := (plan1 bucket1 false).handle
    let a := fun (n i : Nat) => BitVec.ofNat 64 (h * 2 ^ 32 + n * 2 ^ 16 + i)
    let live := fun b err x => (fireState b err x).livePlan 1 h = some (plan1 b err)
    (Issues (with1 (peers 0x500000007) stream0) stream0 (peers 0x500000007) ∧ Held (peers 0x500000007) [12, 13, 30] ∧
        (with1 (peers 0x500000007) stream0).stampCheck (some 0) 1 0 = .ok (with1 (peers 0x500000007) stream0, 0) ∧
        ∀ op ∈ [0, 1], ∀ l ∈ lanesIn stream0, laneWordBad op 0 (lane (vget (peers 0x500000007).v 30 zeroV) l) = false) ∧
      (Issues (with1 (peers 0x8007) stream0) stream0 (peers 0x8007) ∧
        ∀ l ∈ lanesIn stream0, laneWordBad 2 0 (lane (vget (peers 0x8007).v 30 zeroV) l) = false) ∧
      (∀ b err x, Issues (fireState b err x) stream0 (gang0 [(8, x)]) ∧ TrapReady (fireState b err x) stream0 (gang0 [(8, x)]) launch1) ∧
      (h = 0x10003 ∧ (fireState bucket1 false 0).livePlan 1 0 = none ∧ live bucket1 false 0 ∧ live bucket1 true 0 ∧
        live { bucket1 with inFlight := true } false 0 ∧ live { bucket1 with inFlight := true, owed := 1 } false 0 ∧ Calm (fireState { bucket1 with inFlight := true, owed := 1 } false 0)) ∧
      ((plan1 bucket1 false).bucket? 1 = none ∧ (plan1 bucket1 false).bucket? 0 = some bucket1 ∧ (a 0 2).toNat / 2 % 2 ^ 15 ≠ 0 ∧
        (a 0 1).toNat / 2 % 2 ^ 15 = 0 ∧ (a 0 1).toNat / 2 ^ 16 % 2 ^ 16 = 0) ∧
      (Issues triggerState stream0 (gang0 [(8, 0x1000300000001)]) ∧ triggerState.livePlan 1 h = some (plan1 bucket1 false) ∧
        bucket1.inFlight = false ∧ bucket1.owed = 0 ∧ (0x1000300000001 : Word).toNat / 2 ^ 32 = h ∧ Calm triggerState ∧ bucket1.held = [] ∧
        triggerState.bufferOf (plan1 bucket1 false) 0 = some buf7 ∧
        ∀ j, j < 8 → triggerState.engineRead 1 (BitVec.ofNat 64 (buf7.slices.getD j 0)) (buf7.len * (buf7.format.width / 8)) =
          .ok triggerState (triggerState.mem.read (0x40000 + 0x100 * j) 64)) :=
  ⟨⟨issues_of rfl rfl rfl rfl ⟨rfl, rfl, rfl⟩ (by decide +kernel), .inl rfl, rfl, by decide +kernel⟩,
    ⟨issues_of rfl rfl rfl rfl ⟨rfl, rfl, rfl⟩ (by decide +kernel), by decide +kernel⟩,
    fun _ _ x => ⟨issues_of rfl rfl rfl rfl ⟨rfl, rfl, rfl⟩ ⟨(by decide +kernel : stream0.homes = [0]), rfl, (by decide +kernel : g0.belayUsed ≤ 8),
      (by decide +kernel : g0.storesUsed ≤ 32)⟩, ready_of rfl (by decide) rfl (ready2 [(8, x)] tables).others⟩,
    ⟨rfl, rfl, rfl, rfl, rfl, rfl, calm_of (by decide +kernel)⟩, ⟨rfl, rfl, by decide, by decide, by decide⟩,
    issues_of rfl rfl rfl rfl ⟨rfl, rfl, rfl⟩ (by decide +kernel), rfl, rfl, rfl, by decide, calm_of (by decide +kernel), rfl, rfl, trigger_read⟩


/-- A marked region 3 of one page, its log another page. -/
def region3 (st : RegionState) (stale : Bool) (count : Nat) : Region :=
  { Region.unmarked with state := st, base := 0x50000, len := 0x40, log := 0x60000, logLen := 192, cap := 1, epoch := 4, stale := stale
                         count := count, pages := [(5, 5), (6, 6)] }
def regionLaunch (r : Region) : Launch := { launch1 with regions := vset launch1.regions 3 r }
def regionState (rs : List (Nat × Word)) (x : Launch) : State := { with2 rs tables with launches := [x] }
/-- CKMARK's operands at their smallest: a range of one line, a log of one entry. -/
def markRegs : List (Nat × Word) := [(20, 3), (8, 0x50000), (9, 0x40), (10, 0x60000), (11, 192)]

theorem region_issues (rs : List (Nat × Word)) (x : Launch) : Issues (regionState rs x) stream0 (gang0 rs) :=
  issues_of rfl rfl rfl rfl ⟨rfl, rfl, rfl⟩ ⟨(by decide +kernel : stream0.homes = [0]), rfl, (by decide +kernel : g0.belayUsed ≤ 8),
    (by decide +kernel : g0.storesUsed ≤ 32)⟩

/-- CKMARK of an entry that does not exist, of an unmarked one with a range and with none, of one in each other state; the other words on
each state; and a rolling region that logged nothing. -/
theorem witness_RegionWords :
    let s := regionState markRegs launch1
    let S := fun r => (vget (gang0 markRegs).s r 0).toNat
    let xs := match s.regionPages 1 (pagesOf (S 8) (S 9)) with
      | .ok y => y
      | .error _ => []
    let ys := match s.regionPages 1 (pagesOf (S 10) (S 11)) with
      | .ok y => y
      | .error _ => []
    (∀ rs x, Issues (regionState rs x) stream0 (gang0 rs) ∧ (regionState rs x).launches = [x] ∧ (regionState rs x).guest.owned = []) ∧
      (16 ≤ (vget (gang0 [(20, 16)]).s 20 0).toNat ∧ 16 ≤ (vget (gang0 [(8, 16)]).s 8 0).toNat) ∧
      (S 20 = 3 ∧ (launch1.region 3).state = .unmarked ∧ (vget (gang0 [(20, 3)]).s 9 0).toNat = 0 ∧ (∀ h ∈ s.gangs, h.sig = []) ∧
        0 < S 9 ∧ S 8 % 64 = 0 ∧ S 9 % 64 = 0 ∧ S 9 ≤ 2 ^ 30 ∧ S 10 % 64 = 0 ∧ 192 ≤ S 11 ∧ (S 11 - 64) % 128 = 0 ∧ S 11 ≤ 2 ^ 26 ∧
        launch1.rangesBad 3 (S 8) (S 9) (S 10) (S 11) = false ∧ ∀ y ∈ xs ++ ys, y.2.leaf ||| 0x600 = y.2.leaf) ∧
      s.regionPages 1 (pagesOf (S 8) (S 9)) = .ok xs ∧ s.regionPages 1 (pagesOf (S 10) (S 11)) = .ok ys ∧
      (∀ st stale n, ((regionLaunch (region3 st stale n)).region 3) = region3 st stale n) ∧
      (let r := { region3 .rolling false 0 with restored := false, parked := false, stampVa := 0 }
       (r.state = .rolling ∧ r.count = 0) ∧ (regionLaunch r).ended = false ∧ (regionLaunch r).aborting = false) :=
  ⟨fun rs x => ⟨region_issues rs x, rfl, rfl⟩, by decide +kernel, by decide +kernel, ok_of (by decide +kernel), ok_of (by decide +kernel),
    fun _ _ _ => rfl, by decide +kernel, rfl, rfl⟩

/-- Maps 1 and 2 of format a and b, without INC and with it, over a splice of 64 KiB. -/
def mapGang (a b : Nat) (inc : Bool) : Gang :=
  let map := fun (f base : Nat) =>
    { isSet := true, low := BitVec.ofNat 64 (base + 256 * 2 ^ 20 + f * 2 ^ 36 + if inc then 2 ^ 44 else 0)
      high := BitVec.ofNat 64 (0x8000 + 8 * 2 ^ 20), cursor := 0 : OMap }
  { gang0 [(20, BitVec.ofNat 64 (0x100 + 64 * 2 ^ 20 + 7 * 2 ^ 36)), (21, 0)] with om := vset (vset g0.om 1 (map a 0)) 2 (map b 0x4000) }
def matSplice : Splice := { splice0 with size := 65536 }
def matState (g : Gang) : State := { with1 g stream0 with splices := [matSplice] }
def matWord (sub c am bm aux : Nat) (sg : Bool) : XFields :=
  mat sg false (BitVec.ofNat 6 aux) (BitVec.ofNat 3 bm) (BitVec.ofNat 3 am) (BitVec.ofNat 6 c) (BitVec.ofNat 3 sub) false

/-- A product of bf16 and of i8 maps, the last tile of the launch; MMAT; a load and a store; OMSET; a tile and a map that fail. -/
theorem witness_MatrixWords :
    let g := mapGang 12 12 true
    let h := mapGang 15 12 false
    let f := matWord 0 7 1 2 20 true
    let a := mapOperand g 1
    let b := mapOperand g 2
    let q := fun (g : Gang) (bytes : List Nat) => Queueable (matState g) stream0 g 0 matSplice bytes
    (Issues (matState g) stream0 g ∧ (matState g).launch? 1 = some launch1 ∧ f.c.toNat < launch1.tiles ∧ MapOk g 1 mmaFormat ∧
        MapOk g 2 mmaFormat ∧ sgFormat a.fmt = true ∧ q g (a.reach a.cursor (kOf a.fmt b.fmt) ++ b.reach b.cursor (2 * kOf a.fmt b.fmt)) ∧
        kOf a.fmt b.fmt ≠ 128 ∧ Held g [20]) ∧
      (Issues (matState h) stream0 h ∧ MapOk h 1 (· == .tern) ∧ MapOk h 2 (fun y => y == .i8 || y == .u8) ∧
        q h ((mapOperand h 1).reach 0 256 ++ (mapOperand h 2).reach 0 256)) ∧
      (MapOk g 1 (fun y => y != .cb4 && y != .tern) ∧ q g (a.reach a.cursor 32) ∧ q g a.storeReach ∧ q g [] ∧
        omsetReason (vget g.s 20 0) (vget g.s 21 0) = none) ∧
      (Whole stream0 g ∧ (matState g).matCmds = [] ∧ TrapReady (matState g) stream0 g launch1 ∧ launch1.tiles ≤ (matWord 0 8 1 2 20 true).c.toNat ∧
        (vget g.om 3 { isSet := false, low := 0, high := 0, cursor := 0 }).isSet = false) := by
  intro g h f a b q
  have qs : ∀ g : Gang, g.core = some 0 → (∀ bs : List Nat, (matState g).spliceOf 1 g.idx = 0 → (matState g).poolFree 0 .matrix = true →
      (matState g).poolRequests 0 = [] → Whole stream0 g → (bs.all fun x => decide (x < 65536)) = true → Queueable (matState g) stream0 g 0 matSplice bs) :=
    fun g hc bs h1 h2 h3 h4 h5 => ⟨h4, hc, by show (matState g).splice? 1 ((matState g).spliceOf 1 g.idx) = some matSplice; rw [h1]; rfl,
      fun x hx => of_decide_eq_true (List.all_eq_true.mp h5 x hx), rfl,
      0, hc, .inr ⟨h2, by simp [h3]⟩⟩
  have wg : Whole stream0 g := by unfold Whole; decide +kernel
  have wh : Whole stream0 h := by unfold Whole; decide +kernel
  refine ⟨⟨issues_of rfl rfl rfl rfl ⟨rfl, rfl, rfl⟩ (by decide +kernel), rfl, by decide, by unfold MapOk; decide +kernel, by unfold MapOk; decide +kernel,
      by decide +kernel, qs g rfl _ (by decide +kernel) (by decide +kernel) (by decide +kernel) wg (by decide +kernel), by decide +kernel, .inl rfl⟩,
    ⟨issues_of rfl rfl rfl rfl ⟨rfl, rfl, rfl⟩ (by decide +kernel), by unfold MapOk; decide +kernel, by unfold MapOk; decide +kernel,
      qs h rfl _ (by decide +kernel) (by decide +kernel) (by decide +kernel) wh (by decide +kernel)⟩,
    ⟨by unfold MapOk; decide +kernel, qs g rfl _ (by decide +kernel) (by decide +kernel) (by decide +kernel) wg (by decide +kernel),
      qs g rfl _ (by decide +kernel) (by decide +kernel) (by decide +kernel) wg (by decide +kernel),
      qs g rfl _ (by decide +kernel) (by decide +kernel) (by decide +kernel) wg (by decide +kernel), by decide +kernel⟩,
    wg, rfl, ready_of rfl (by decide) rfl (by decide +kernel), by decide, rfl⟩

/-- A command alone in its queue, to start; each kind that has started, its maps plain, of bf16, i8, tern and f32. -/
theorem witness_MatrixCommands :
    let o := fun (f : Nat) => { low := BitVec.ofNat 64 (256 * 2 ^ 20 + f * 2 ^ 36), high := 0, cursor := 0 : Operand }
    let c := fun op st => { seq := 30, core := 0, launch := 1, gang := 0, splice := 0, batch := 6, op := op, started := st : MatCmd }
    let s := fun op st => { s0 with matCmds := [c op st], locks := [{ launch := 1, splice := 0, row := 3, excl := true, seq := 30 }] }
    (∀ op st, (s op st).matCmds = [c op st] ∧ (s op st).gang? 1 0 = some g0 ∧ (s op st).splice? 1 0 = some splice0 ∧
        ∀ g ∈ (s op st).gangs, g.sig = []) ∧
      (s .mfence false).locks.all (fun k => (c .mfence false).seq ≤ k.seq) = true ∧ (c .mfence true).started = true ∧
      ((∀ f ∈ [1, 2, 12, 15], Plain (o f)) ∧ (o 2).fmt = .bf16 ∧ (o 12).fmt = .i8 ∧ (o 15).fmt = .tern ∧ (o 1).fmt = .f32) ∧
      (∀ f ∈ [1, 2, 12], (o f).fmt.width % 8 = 0 ∧ 4 * (o f).fmt.width ≤ (o f).pitch) :=
  ⟨fun _ _ => ⟨rfl, rfl, rfl, fun g h => by simp only [with1, List.mem_singleton] at h; subst h; rfl⟩, by decide, rfl,
    ⟨fun f h => by
      simp only [List.mem_cons, List.not_mem_nil, or_false] at h
      rcases h with rfl | rfl | rfl | rfl <;> exact ⟨by decide +kernel, by decide +kernel, by decide +kernel⟩,
      by decide +kernel⟩, by decide +kernel⟩


/-- A command record at 0x90000 of PASID 1, its values from byte 16 on. -/
def box : Mailbox := { recPA := 0x90000, vf := none, dirty := false, go := false }
def mailRecord (op : Nat) (args : List Nat) : List Byte :=
  leBytes 2 op ++ leBytes 2 0 ++ leBytes 4 1 ++ leBytes 8 0 ++ args.flatMap (leBytes 8)
def mail (op : Nat) (args : List Nat) (at_ : Nat) (bs : List Byte) : State :=
  { State.reset with mem := (tables.write 0x90000 (mailRecord op args)).write at_ bs }

theorem submitted_of {s : State} {op : Nat} (h : s.fw.serving = true ∧ s.fw.reduced = false ∧ s.fw.current = none ∧ s.fw.waiting = [] ∧
    s.mem.nat 0x90000 2 = op ∧ s.mem.nat 0x90004 4 < 2 ^ 20 ∧ s.mem.nat 0x90002 2 = 0) (c : Calm s) : Submitted s box op :=
  ⟨h.1, h.2.1, by decide, ⟨h.2.2.1, h.2.2.2.1⟩, h.2.2.2.2.1, h.2.2.2.2.2, rfl, ⟨rfl, rfl⟩, c⟩

theorem windows_reset {s : State} (h : s.io.fw = State.reset.io.fw) : s.windows = [] := by
  have : s.windows = State.reset.windows := by unfold State.windows; rw [h]
  rw [this]; decide +kernel

theorem calm_mail (op : Nat) (args : List Nat) (a : Nat) (bs : List Byte) : Calm (mail op args a bs) :=
  ⟨by simp [mail, State.reset], windows_reset rfl, by simp [mail, State.reset], rfl, rfl⟩

theorem lines_of_two :
    byLine (cellsOf (0x50000 : Word).toNat (List.replicate (63 + 63 + 2) 0)) = [lineCells 0x50000 (63 + 1), lineCells 0x50040 (63 + 1)] := by
  have e : cellsOf (0x50000 : Word).toNat (List.replicate (63 + 63 + 2) 0) = (0x50000, 0) :: lineCells 0x50001 63 ++ lineCells 0x50040 64 := by
    decide +kernel
  have f : lineCells 0x50000 (63 + 1) = (0x50000, 0) :: lineCells 0x50001 63 := rfl
  have b : byLine (lineCells 0x50040 64) = [lineCells 0x50040 64] := by decide +kernel
  rw [e, f, byLine_append (L := 0x50000) (by rw [b]; decide +kernel) (0x50000, 0) (lineCells 0x50001 63) (by decide +kernel), b]

/-- A queue header: RIDX, IDX 7, LOG, CMASK, DBOFF. -/
def header (log cmask : Nat) : List Byte := leBytes 8 0 ++ leBytes 8 7 ++ leBytes 4 log ++ leBytes 4 cmask ++ leBytes 8 0x1000 ++ leBytes 32 0
def queue0 : MemQueue :=
  { pasid := 1, hdr := 0x50000, hdrPa := 0x50000, engine := .bulk 0 0, log := 2, cmask := 0x1F, dboff := 0x1000, db := 5, bound := true
    next := 5, idx := 3, err := true, errDue := false, badSlot := some 3, begun := [] }
def work0 : PacketWork :=
  { slot := 3, words := Vector.replicate 8 0, progress := 0, staged := [], out := [], before := [], done := false, stamped := false, lost := false, parked := false, rejected := none }

def queued (op : Nat) (q : MemQueue) : State := { mail op [0x50000] 0 [] with queues := [q] }
theorem calm_queued (op : Nat) (q : MemQueue) : Calm (queued op q) :=
  let c := calm_mail op [0x50000] 0 []
  ⟨c.1, windows_reset rfl, c.3, c.4, c.5⟩
abbrev Framed (op : Nat) (s : State) : Prop := s.fw.serving = true ∧ s.fw.reduced = false ∧ s.fw.current = none ∧ s.fw.waiting = [] ∧
  s.mem.nat 0x90000 2 = op ∧ s.mem.nat 0x90004 4 < 2 ^ 20 ∧ s.mem.nat 0x90002 2 = 0
/-- A clear's two writes: the slot's valid byte, where a slot was rejected, and the index. -/
def clearA (q : MemQueue) : State :=
  match q.badSlot with
  | some k => ((queued 3 q).queueWrite q (q.slotVa k + 1#64) [0]).state
  | none => queued 3 q
def clearB (q : MemQueue) : State := ((clearA q).queueWrite q q.ridxVa (wordBytes (ridxOf false ((q.badSlot.map (· + 1)).getD q.idx)))).state
theorem done_of {r : EngineRes Unit} (h : (match r with
    | .ok _ _ => true
    | _ => false) = true) : r = .ok r.state () := by
  cases r <;> first | rfl | simp at h
theorem fw2 : Framed 2 (mail 2 [0x50000] 0 []) := by decide +kernel
theorem fw3 : Framed 3 (mail 3 [0x50000] 0 []) := by decide +kernel
theorem arg2 : (mail 2 [0x50000] 0 []).arg box 0 = 0x50000 := by decide +kernel
theorem arg3 : (mail 3 [0x50000] 0 []).arg box 0 = 0x50000 := by decide +kernel

/-- Unlisted commands at both ends of their range; a registration with each engine but the guest; a deregistration of an idle and of a
busy queue; a clear with a rejected slot and without one, and its writes. -/
theorem witness_MailboxCommands_queues :
    (∀ op ∈ [0x14, 0xFFFF], Submitted (mail op [1] 0 []) box op) ∧
      (∀ e ∈ [(5, QueueEngine.bulk 0 5, 2, 0x1F), (31, .bulk 1 15, 1, 1), (33, .launch, 12, 0x10000)],
        let s := mail 1 [0x50000, e.1] 0x50000 (header e.2.2.1 e.2.2.2)
        Submitted s box 1 ∧ (s.context 1).valid = true ∧ s.argBad 1 0x50000 64 64 .load = false ∧ s.arg box 0 = 0x50000 ∧
          engineOf (s.arg box 1) = some e.2.1 ∧ s.headerBad (s.paAt 1 0x50000) (some e.2.1) = false ∧
          s.ringBad 1 0x50000 (s.mem.nat (s.paAt 1 0x50000 + 16) 4) = false ∧ s.queues = []) ∧
      (∀ q, Submitted (queued 2 q) box 2 ∧ Submitted (queued 3 q) box 3) ∧
      (∀ q ∈ [queue0, { queue0 with begun := [work0] }, { queue0 with badSlot := none }],
        ((queued 2 q).context 1).valid = true ∧ ((queued 3 q).context 1).valid = true ∧ (queued 2 q).argBad 1 0x50000 64 64 .load = false ∧
          (queued 3 q).argBad 1 0x50000 64 64 .load = false ∧ (queued 2 q).arg box 0 = 0x50000 ∧ (queued 3 q).arg box 0 = 0x50000 ∧
          (queued 2 q).queue? 1 0x50000 = some q ∧ (queued 3 q).queue? 1 0x50000 = some q ∧ q.err = true ∧ q.errDue = false ∧
          (match q.badSlot with
            | some k => (queued 3 q).queueWrite q (q.slotVa k + 1#64) [0] = .ok (clearA q) ()
            | none => clearA q = queued 3 q) ∧
          (clearA q).queueWrite q q.ridxVa (wordBytes (ridxOf false ((q.badSlot.map (· + 1)).getD q.idx))) = .ok (clearB q) ()) := by
  refine ⟨?_, ?_, fun q => ⟨submitted_of fw2 (calm_queued 2 q), submitted_of fw3 (calm_queued 3 q)⟩, ?_⟩
  · intro op h; rcases List.mem_cons.mp h with rfl | h
    · exact submitted_of (by decide +kernel) (calm_mail _ _ _ _)
    · rcases List.mem_singleton.mp h with rfl; exact submitted_of (by decide +kernel) (calm_mail _ _ _ _)
  · intro e h; simp only [List.mem_cons, List.not_mem_nil, or_false] at h
    rcases h with rfl | rfl | rfl <;> exact ⟨submitted_of (by decide +kernel) (calm_mail _ _ _ _), by decide +kernel⟩
  · intro q h; simp only [List.mem_cons, List.not_mem_nil, or_false] at h
    rcases h with rfl | rfl | rfl
    · exact ⟨by decide +kernel, by decide +kernel, by decide +kernel, by decide +kernel, arg2, arg3, rfl, rfl, rfl, rfl,
        done_of (by decide +kernel), done_of (by decide +kernel)⟩
    · exact ⟨by decide +kernel, by decide +kernel, by decide +kernel, by decide +kernel, arg2, arg3, rfl, rfl, rfl, rfl,
        done_of (by decide +kernel), done_of (by decide +kernel)⟩
    · exact ⟨by decide +kernel, by decide +kernel, by decide +kernel, by decide +kernel, arg2, arg3, rfl, rfl, rfl, rfl,
        rfl, done_of (by decide +kernel)⟩


theorem calm_bare {s : State} (h : s.gangs = [] ∧ s.launches = [] ∧ s.guest.owned = [] ∧ s.badLines = []) (w : s.io.fw = State.reset.io.fw) :
    Calm s := ⟨by simp [h.1], windows_reset w, by simp [h.2.1], h.2.2.1, h.2.2.2⟩

/-- A descriptor of a hardware queue, its check right. -/
def hwDesc : List Byte :=
  leBytes 8 (hwqCheck 0x50000).toNat ++ leBytes 4 0 ++ leBytes 4 1 ++ leBytes 4 4 ++ leBytes 4 0 ++ leBytes 4 1 ++ leBytes 12 0 ++
    leBytes 8 0x70000 ++ leBytes 16 0
def tlb1 (pasid : Nat) : TlbEntry :=
  { core := 0, pasid := pasid, vpage := 5, pages := 1, pa := 0, w := true, x := true, kind := 0, dirty := true }
def mail4 : State := { mail 4 [0x50000, 64] 0 [] with tlb := [tlb1 1, tlb1 2] }
def mail5 : State := mail 5 [0x50000, 0] 0x50000 hwDesc

/-- An invalidation of part of a page, and a descriptor of a hardware queue. -/
theorem witness_MailboxCommands_tables :
    (Submitted mail4 box 4 ∧ (mail4.context 1).valid = true ∧ canonical (BitVec.ofNat 64 (mail4.arg box 0)) = true ∧ mail4.guestOn = false ∧
        mail4.guest.invalidation = none ∧ mail4.out = [] ∧ mail4.storesIn 1 0x50000 (mail4.arg box 1) true = false ∧ mail4.streams = [] ∧ mail4.misses = []) ∧
      (Submitted mail5 box 5 ∧ (mail5.context 1).valid = true ∧ mail5.arg box 1 = 0 ∧ mail5.argBad 1 0x50000 64 64 .load = false ∧
        mail5.descriptorRules 1 (mail5.paAt 1 0x50000) 0x50000 = false ∧ mail5.hwq? 1 (mail5.arg box 0) = none) :=
  ⟨⟨submitted_of (by decide +kernel) (calm_bare (by decide +kernel) rfl), by decide +kernel⟩,
    submitted_of (by decide +kernel) (calm_bare (by decide +kernel) rfl), by decide +kernel⟩

/-- A plan of one bucket over the devices 10 and 9; a buffer table's entry whose slices lie in pinned pages, one in each stack; import
entries of each type. -/
def plan6 : List Byte :=
  [0, 0, 2, 0] ++ leBytes 2 2 ++ leBytes 2 1 ++ leBytes 2 0 ++ leBytes 2 0 ++ leBytes 4 55 ++ leBytes 8 0x61000 ++ leBytes 8 0x62000 ++
    leBytes 8 0x60000 ++ leBytes 8 0x63000 ++ leBytes 8 0 ++ leBytes 8 0
def mail6 : State :=
  let s := mail 6 [0x50000] 0x50000 plan6
  { s with mem := knotAt 0x60000 4 0 3 3 0 1 ((s.mem.write 0x61000 (leBytes 2 10 ++ leBytes 2 9)).write 0x62000 (leBytes 2 7)), buffers := [buf7] }
def mail7 : State := { mail 7 [0x10003] 0 [] with plans := [plan1 bucket1 false] }
def entry8 (len : Nat) : List Byte :=
  (List.range 8).flatMap (fun i => leBytes 8 ((8 + i) * 2 ^ 29 + 64 * i)) ++ [1, 1] ++ leBytes 6 0 ++ leBytes 4 len ++ leBytes 52 0
def mail8 (len : Nat) : State :=
  let s := mail 8 [4095, 0x50000] 0x50000 (entry8 len)
  { s with
    mem := s.mem.write 0x30040 ((List.range 8).flatMap fun i => leBytes 8 (0x8000000000 + i * 2 ^ 36 + 0x61F))
    io := { s.io with memcarve := 4 } }
def mail9 (ctl : Nat) : State :=
  mail 9 [1023, 0x50000] 0x50000 (leBytes 4 ctl ++ [7, 0] ++ leBytes 2 9 ++ leBytes 4 1 ++ leBytes 4 1 ++ leBytes 8 0x1000 ++ leBytes 8 0x2000)
theorem read6 : mail6.engineRead 1 0x50000 64 = .ok mail6 (mail6.mem.read 0x50000 64) :=
  engine_read_of (n := 63) (x := xlatAt mail6 none 0x50000 .load) (pa := 0x50000) 0x50000 (by decide +kernel) (by decide +kernel) ⟨rfl, rfl⟩
/-- The two lines of an entry of the buffer table. -/
theorem line8 {len va : Nat} (h : (len = 1 ∨ len = 16) ∧ (va = 0x50000 ∨ va = 0x50040)) :
    canonical (toWord va) = true ∧ (mail8 len).walkFor none 1 (vaOf (toWord va)) = .ok (xlatAt (mail8 len) none (toWord va) .load) ∧
      (xlatAt (mail8 len) none (toWord va) .load).leaf ||| 0x200#64 = (xlatAt (mail8 len) none (toWord va) .load).leaf ∧
      (xlatAt (mail8 len) none (toWord va) .load).leaf.getLsbD 5 = false ∧
      (xlatAt (mail8 len) none (toWord va) .load).kind < 2 ∧ (xlatAt (mail8 len) none (toWord va) .load).pa = va := by
  rcases h with ⟨rfl | rfl, rfl | rfl⟩ <;> decide +kernel
theorem read8 {len : Nat} (h : len = 1 ∨ len = 16) :
    (mail8 len).engineRead 1 0x50000 128 = .ok (mail8 len) ((mail8 len).mem.read 0x50000 64 ++ (mail8 len).mem.read 0x50040 64) :=
  engine_read_of2 (n := 63) (m := 63) 0x50000 0x50040 lines_of_two (line8 ⟨h, .inl rfl⟩) (line8 ⟨h, .inr rfl⟩) ⟨rfl, rfl⟩
theorem read9 {ctl : Nat} (h : ctl = 1 ∨ ctl = 3 ∨ ctl = 5) :
    (mail9 ctl).engineRead 1 0x50000 32 = .ok (mail9 ctl) ((mail9 ctl).mem.read 0x50000 32) := by
  rcases h with rfl | rfl | rfl <;>
    exact engine_read_of (n := 31) (pa := 0x50000) (x := xlatAt (mail9 1) none 0x50000 .load) 0x50000 (by decide +kernel) (by decide +kernel) ⟨rfl, rfl⟩

/-- For a device numbered 9 with bandwidth to reserve: CREATE plan; and, of any device, the other commands of plans, buffers and
imports. -/
theorem witness_MailboxCommands_plans :
    (Config.deviceId.toNat = 9 → Config.switchPlaneFree 0 = true →
      let bs := mail6.mem.read 0x50000 64
      let ds := planDesc bs
      let bufs := mail6.readHalves 1 ds.bktVa (min ds.nbkt 256)
      Submitted mail6 box 6 ∧ mail6.Inv ∧ (mail6.context 1).valid = true ∧ mail6.argBad 1 0x50000 1 64 .load = false ∧
        mail6.engineRead 1 0x50000 64 = .ok mail6 bs ∧ mail6.planBad 1 ds (mail6.readHalves 1 ds.rankVa (min ds.ndev 9216)) bufs = false ∧
        mail6.plans = [] ∧ mail6.pages = [] ∧ mail6.reserved + mail6.reserveOf 1 (bufs.getD []) ≤ 8 * 2 ^ 20 ∧
        Config.switchPlaneFree mail6.planCount = true) ∧
      (Submitted mail7 box 7 ∧ (mail7.context 1).valid = true ∧
        mail7.livePlan 1 (mail7.arg box 0 % 2 ^ 32) = some (plan1 bucket1 false)) ∧
      (∀ len ∈ [1, 16], let s := mail8 len; let bs := s.mem.read 0x50000 64 ++ s.mem.read 0x50040 64
        Submitted s box 8 ∧ (s.context 1).valid = true ∧ s.argBad 1 0x50000 1 128 .load = false ∧ s.engineRead 1 0x50000 128 = .ok s bs ∧
        s.arg box 0 < 4096 ∧ s.plans = [] ∧ numAt bs 65 1 = 1 ∧ numAt bs 66 6 = 0 ∧ numAt bs 76 52 = 0 ∧ numAt bs 64 1 ∈ [1, 2, 3, 4, 10] ∧
        1 ≤ numAt bs 72 4 ∧ numAt bs 72 4 ≤ 2 ^ 26 ∧ ∀ i, i < 8 → s.sliceBad 1 i (numAt bs (8 * i) 8) (4 * len) = false) ∧
      (∀ ctl ∈ [1, 3, 5], let s := mail9 ctl; let bs := s.mem.read 0x50000 32
        Submitted s box 9 ∧ (s.context 1).valid = true ∧ s.argBad 1 0x50000 1 32 .load = false ∧ s.engineRead 1 0x50000 32 = .ok s bs ∧
        s.arg box 0 < 1024 ∧ numAt bs 0 4 ∈ [1, 3, 5] ∧ numAt bs 4 1 < 16 ∧ numAt bs 5 1 = 0 ∧ numAt bs 6 2 < 2 ^ 14 ∧
        numAt bs 8 4 < 2 ^ 20 ∧ numAt bs 12 4 < 2 ^ 20 ∧ numAt bs 16 8 < numAt bs 24 8 ∧ s.imports = []) := by
  refine ⟨fun hd hp => ⟨submitted_of (by decide +kernel) (calm_bare (by decide +kernel) rfl), by unfold State.Inv; decide +kernel,
      by decide +kernel, by decide +kernel,
      read6,
      by unfold State.planBad; rw [hd]; decide +kernel, rfl, rfl, by decide +kernel, hp⟩,
    ⟨submitted_of (by decide +kernel) (calm_bare ⟨rfl, rfl, rfl, rfl⟩ rfl), by decide +kernel, ?_⟩, ?_, ?_⟩
  · have h : mail7.arg box 0 % 2 ^ 32 = 0x10003 := by decide +kernel
    rw [h]; rfl
  · intro len h; simp only [List.mem_cons, List.not_mem_nil, or_false] at h
    rcases h with rfl | rfl <;>
      exact ⟨submitted_of (by decide +kernel) (calm_bare (by decide +kernel) rfl), by decide +kernel, by decide +kernel,
        read8 (by decide), by decide +kernel⟩
  · intro ctl h; simp only [List.mem_cons, List.not_mem_nil, or_false] at h
    rcases h with rfl | rfl | rfl <;>
      exact ⟨submitted_of (by decide +kernel) (calm_bare (by decide +kernel) rfl), by decide +kernel, by decide +kernel,
        read9 (by decide), by decide +kernel⟩


def mailA : State := mail 0xA [15, 0x1040, 0x2040, 0x200000010000, 0x1000000001] 0 []
def mailB (p : Nat) : State := mail 0xB [p, 0x50000] 0x50000 (leBytes 8 1 ++ leBytes 8 0x30000 ++ leBytes 8 15)
def mailC (pa : Nat) : State := mail 0xC [pa, 64] 0 []
def mailD : State := let s := mail 0xD [3] 0 []; { s with fw := { s.fw with svn := 3, fuse := 3 } }
/-- The guest is on, and PASID 1 of it stopped. -/
def mailGuest (op : Nat) : State :=
  let s := mail op [1, 0x50000, 4096] 0 []
  { s with io := { s.io with gsEn := true }, guest := { s.guest with paused := [1] } }
def mail10 : State := mail 0x10 [0x100000000000] 0 []
def fault11 : FaultRecord := { addr := 0x40000, src := 1, pasid := 1, reason := 2, acc := 0, skind := .gang, cls := 1 }
def open11 : OpenFault := { seq := 9, serial := 4, record := fault11, target := .stream 0 0 }
def mail11 : State := { mail 0x11 [9] 0 [] with openFaults := [open11] }
def mail12 (bank n x : Nat) : State := mail 0x12 [bank + 2 ^ 16 * n, x, 0x60000] 0 []
def mail13 : State := mail 0x13 [15, 2 ^ 63 + 2 ^ 48 + 2 ^ 32 + 1] 0 []

theorem mail_of {s : State} {op : Nat} (h : Framed op s ∧ s.gangs = [] ∧ s.launches = [] ∧ s.guest.owned = [] ∧ s.badLines = [])
    (w : s.io.fw = State.reset.io.fw) : Submitted s box op := submitted_of h.1 (calm_bare h.2 w)

/-- Each command's values at the ends of their ranges: the last window, the first and last PASID, an image in memory and one outside it,
the version that stands, the largest counter of each bank. -/
theorem witness_MailboxCommands_firmware :
    (Submitted mailA box 0xA ∧ (mailA.context 1).valid = true ∧ mailA.arg box 0 = 15 ∧ (BitVec.ofNat 64 (mailA.arg box 4)).getLsbD 63 = false ∧
        (vget mailA.io.fw 15 FormatWindow.zero).ctl.getLsbD 63 = false) ∧
      (∀ p ∈ [0, 2 ^ 20 - 1], let s := mailB p; let v := s.arg box; let bs := s.mem.read (v 1) 64
        Submitted s box 0xB ∧ v 0 < 2 ^ 20 ∧ v 1 % 64 = 0 ∧ v 1 < 2 ^ 56 ∧ paRange s.memMap (v 1) ≠ .unassigned ∧ numAt bs 0 1 < 2 ∧
          numAt bs 1 7 = 0 ∧ numAt bs 16 1 < 16 ∧ numAt bs 17 7 = 0 ∧ numAt bs 48 16 = 0) ∧
      (∀ y ∈ [(0x50000, true, true), (2 ^ 39 - 1, true, false), (2 ^ 56 - 1, false, false)], let s := mailC y.1
        Submitted s box 0xC ∧ (s.context 1).valid = true ∧ s.arg box 0 = y.1 ∧ y.1 < 2 ^ 56 ∧ s.inMemory y.1 = y.2.1 ∧
          s.inMemory (y.1 + (s.arg box 1 - 1)) = y.2.2) ∧
      (Submitted mailD box 0xD ∧ (mailD.context 1).valid = true ∧ mailD.fw.fuse ≤ mailD.arg box 0 ∧ mailD.arg box 0 ≤ mailD.fw.svn) :=
  ⟨⟨mail_of (by decide +kernel) rfl, by decide +kernel⟩,
    fun p h => by
      simp only [List.mem_cons, List.not_mem_nil, or_false] at h
      rcases h with rfl | rfl <;> exact ⟨mail_of (by decide +kernel) rfl, by decide +kernel⟩,
    fun y h => by
      simp only [List.mem_cons, List.not_mem_nil, or_false] at h
      rcases h with rfl | rfl | rfl <;> exact ⟨mail_of (by decide +kernel) rfl, by decide +kernel⟩,
    mail_of (by decide +kernel) rfl, by decide +kernel⟩

/-- A guest's stop and reload; an identity's buffer at both ends in host memory; an open fault; counters of each bank, of an owner that
stays and of another; a partition that nothing uses. -/
theorem witness_MailboxCommands_rest :
    (let s := mailGuest 0xE
     Submitted s box 0xE ∧ (s.context (s.arg box 0)).valid = true ∧ s.inDevice (s.arg box 1) (s.arg box 2) = true ∧ s.guestOn = true) ∧
      (let s := mailGuest 0xF
       Submitted s box 0xF ∧ (s.context (s.arg box 0)).valid = true ∧ s.guestOn = true ∧ s.arg box 0 ∈ s.guest.paused) ∧
      (Submitted mail10 box 0x10 ∧ (mail10.context 1).valid = true ∧ paRange mail10.memMap (mail10.arg box 0) = .host ∧ paRange mail10.memMap (mail10.arg box 0 + 16383) = .host) ∧
      (Submitted mail11 box 0x11 ∧ (mail11.context 1).valid = true ∧ mail11.mem.nat (box.recPA + 4) 4 = 1 ∧
        mail11.openFaults.find? (fun o => o.seq.toNat == mail11.mem.nat (box.recPA + 16) 4) = some open11 ∧ open11.record.pasid = 1 ∧
        mail11.mem.nat (box.recPA + 20) 4 = 0 ∧ mail11.mem.nat (box.recPA + 24) 8 = 0 ∧ mail11.mem.nat (box.recPA + 40) 24 = 0) ∧
      (∀ y ∈ [(255, 7, 0x1), (383, 3, 0x30), (391, 7, 0x10), (392, 15, 0x700000021)], let s := mail12 y.1 y.2.1 y.2.2
        Submitted s box 0x12 ∧ (s.context 1).valid = true ∧ s.mem.nat (box.recPA + 18) 1 < bankSize (s.mem.nat (box.recPA + 16) 2) ∧
          s.arg box 1 % 2 ^ 16 ∈ [0x1, 0x2, 0x3, 0x4, 0x5, 0x10, 0x11, 0x20, 0x21, 0x30]) ∧
      (Submitted mail13 box 0x13 ∧ (mail13.context 1).valid = true ∧ mail13.arg box 0 = 15 ∧ mail13.partBad 15 (BitVec.ofNat 64 (mail13.arg box 1)) = false ∧
        mail13.partUsed 15 = false) :=
  ⟨⟨mail_of (by decide +kernel) rfl, by decide +kernel⟩, ⟨mail_of (by decide +kernel) rfl, by decide +kernel⟩,
    ⟨mail_of (by decide +kernel) rfl, by decide +kernel⟩, ⟨mail_of (by decide +kernel) rfl, by decide +kernel⟩,
    fun y h => by
      simp only [List.mem_cons, List.not_mem_nil, or_false] at h
      rcases h with rfl | rfl | rfl | rfl <;> exact ⟨mail_of (by decide +kernel) rfl, by decide +kernel⟩,
    mail_of (by decide +kernel) rfl, by decide +kernel⟩


/-- A window of bf16 from i8 in the pinned range of stack 0, of which 4 GiB are set apart. -/
def pinned (n : Nat) (ctl : Word) : State :=
  let w : FormatWindow := { enc := 0x8000000000, scale := 0, aliasBase := 0x200000000000, ctl := ctl }
  { State.reset with io := { State.reset.io with memcarve := 4, fw := vset State.reset.io.fw n w } }
def window15 : FormatWindow := { enc := 0x8000000000, scale := 0, aliasBase := 0x200000000000, ctl := 0x20C00000002 }

/-- Registers at both ends of their arrays: a window that may be enabled and one that may not, one that is on; PASIDs that match and
do not. -/
theorem witness_RegisterWrites :
    (IoAgent.gang 0 ≠ .firmware ∧ IoAgent.guest ≠ .firmware) ∧ (0x300000006028 % 8 = 0 ∧ ioPlace 0x300000006028 = .reg .ctxbase) ∧
      (ioPlace 0x300000200000 = .reg (.control 0 0) ∧ ioPlace 0x3000003880F8 = .reg (.value 392 15) ∧
        ioPlace 0x300000388878 = .reg (.snapshot 392 15) ∧ ioPlace 0x300000009178 = .reg (.partcfg 15) ∧
        ∀ pa ∈ [0x300000200000, 0x3000003880F8, 0x300000388878, 0x300000009178], pa % 8 = 0) ∧
      (∀ n ∈ [0, 15], ((vget (pinned n 0).io.fw n FormatWindow.zero).ctl.getLsbD 63 = false ∧
        (pinned n 0).windowBad n { vget (pinned n 0).io.fw n FormatWindow.zero with ctl := keep 0x8000020C00000002 [(44, 40), (36, 32), (31, 0)] } = false ∧
        (pinned n 0).windowBad n { vget (pinned n 0).io.fw n FormatWindow.zero with ctl := keep 0x8000020C00000000 [(44, 40), (36, 32), (31, 0)] } = true)) ∧
      (let s := pinned 15 0x8000020C00000002
       (vget s.io.fw 15 FormatWindow.zero).ctl.getLsbD 63 = true ∧ (s.windows.find? (·.n == 15)).isSome = true ∧ s.gangs = []) ∧
      ((0x8000000000000000 : Word).getLsbD 63 = true ∧ State.reset.io.gsFenced = false ∧ mailD.guest.identityOk = false ∧
        { Guest.reset with identityOk := true }.identityOk = true ∧ (0 : Word).getLsbD 63 = false) ∧
      ((0x8000000200000000 : Word).toNat / 2 ^ 32 % 2 ^ 2 < 3 ∧ (0x8000000200000000 : Word).toNat % 2 = 0) ∧
      (let s := State.reset.setCounter { bank := 392, n := 15, control := 7 * 2 ^ 32, value := 0, snap := 0, saveVa := 0 }
       (s.counter 392 15).control.toNat / 2 ^ 32 % 2 ^ 20 = 7 ∧ (s.counter 392 15).control.toNat / 2 ^ 32 % 2 ^ 20 ≠ 8 ∧ 15 < bankSize 392) :=
  ⟨by decide, by decide +kernel, by decide +kernel, by decide +kernel, by decide +kernel, by decide +kernel, by decide, by decide +kernel⟩

/-- A queue bound to a doorbell. -/
def bellState (q : MemQueue) : State := { s0 with queues := [q] }
def ringState (ctl : Word) (ws : List WaitingRecord) (os : List OpenFault) : State :=
  { with1 g0 { stream0 with wait := .fault 4 } with io := { s0.io with fqbase := 0x70000, fqctl := ctl }, waitingRecords := ws, openFaults := os }
def faulted : Stream := { stream0 with wait := .fault 4 }

/-- A hole; an access of one byte at the end of stack memory and one past the end, and one while firmware does not serve; a counter's value
and a doorbell in the I/O range; doorbells past a range, that no queue has, of each engine, that move ahead and that do not; Halyard pages
bound and not; the guest on and off; a ring with room and none; a fault that is not open and one that is. -/
theorem witness_IoEvents :
    let w : WaitingRecord := { serial := 4, record := fault11, target := .stream 0 0 }
    let on : State := { s0 with io := { s0.io with gsEn := true } }
    let fire := fireState bucket1 false 0
    (ioPlace 0x300000000000 = .hole ∧ ioPlace 0x300000000FFF = .hole) ∧
      (let inside := fun (pa n : Nat) => pa + n ≤ 2 ^ 40 ∧ ∀ i, i < n → (dramHome s0.memMap (pa + i)).isSome = true
       inside 0x7FFFFFFFFF 1 ∧ ¬ inside 0x7FFFFFFFFF 2 ∧ Calm s0 ∧ s0.fw.serving = true ∧
         ({ s0 with fw := { s0.fw with serving := false } } : State).fw.serving = false) ∧
      (ioPlace 0x300000200008 = .reg (.value 0 0) ∧ ioPlace 0x30007FFFFFF8 = .doorbell 0x3FFFFFF8 ∧ 0x3FFFFFF8 % 8 = 0 ∧
        0x300000200008 % 8 = 0 ∧ 0x30007FFFFFF8 % 8 = 0) ∧
      (let at' := fun (a : DoorbellOffset) => 2 ^ 26 * a.vf.getD 0 + a.off
       at' { vf := none, off := 0x1000 } = 0x1000 ∧ at' { vf := some 15, off := 2 ^ 26 - 8 } = 2 ^ 30 - 8 ∧
       ¬ ((⟨none, 2 ^ 30⟩ : DoorbellOffset).off < 2 ^ 30) ∧ ¬ ((⟨some 0, 2 ^ 26⟩ : DoorbellOffset).off < 2 ^ 26) ∧
       (s0.context 0).valid = false ∧ (s0.context ((some 1).getD (Config.defaultPasid 0 % 2 ^ 20))).valid = true ∧
         s0.doorbellQueue 0x1000 = none ∧
         (∀ e ∈ [QueueEngine.bulk 1 15, .guest, .launch], (bellState { queue0 with engine := e }).doorbellQueue 0x1000 =
           some { queue0 with engine := e }) ∧ (4 : Word) ≠ queue0.db ∧ ¬ ((4 - queue0.db : Word).toNat < 2 ^ 31) ∧
        (queue0.db + 0x7FFFFFFF ≠ queue0.db ∧ (queue0.db + 0x7FFFFFFF - queue0.db).toNat < 2 ^ 31)) ∧
      ((0, 1) ∈ { fire with pages := [(0, 1)] }.pages ∧ (∃ u, { fire with pages := [(0, 1)] }.fireBucket 1 0x1000300000000 = .ok u) ∧
        fire.pages = [] ∧ { fire with pages := [(0, 1)] }.fireBucket 1 0 = .error 16) ∧
      (ioPlace 0x300080000000 = .guest ∧ ioPlace 0x30008FFFFFFF = .guest ∧ on.guestOn = true ∧ s0.guestOn = false) ∧
      ((ringState 0 [w] []).fqRoom 1 = false ∧ (ringState 0x8000000400000000 [w] []).fqRoom 1 = true ∧
        Calm (ringState 0x8000000400000000 [w] []) ∧ (ringState 0x8000000400000000 [w] []).io.snapArm = false) ∧
      (∀ o ∈ (ringState 0 [] []).openFaults, o.seq ≠ 9) ∧
      (let s := ringState 0 [] [open11]
       s.openFaults.find? (·.seq == 9) = some open11 ∧ s.stream? 0 = some faulted ∧ faulted.wait = .fault open11.serial ∧
         s.streams.filter (·.wait == .fault open11.serial) = [faulted] ∧ faulted.homes = [0] ∧ s.gang? 1 0 = some g0 ∧ g0.place.isSome = true ∧
         open11.record.acc ≠ 3 ∧ open11.record.src.toNat / 2 ^ 32 = 0 ∧ TrapReady s faulted g0 launch1) :=
  ⟨by decide +kernel, ⟨by decide +kernel, by decide +kernel, calm0, rfl, rfl⟩, by decide +kernel, by decide +kernel, ⟨by decide +kernel, ⟨_, rfl⟩, rfl, rfl⟩, by decide +kernel,
    ⟨by decide +kernel, by decide +kernel, calm_of (by decide +kernel), rfl⟩, by simp [ringState],
    rfl, rfl, rfl, by decide +kernel, by decide +kernel, rfl, rfl, by decide, by decide, ready_of rfl (by decide) rfl (by decide +kernel)⟩


theorem engine_die0 {s : State} {a : Word} {acc : Access}
    (h : (canonical a = true ∧ s.walkFor (some 0) 1 (vaOf a) = .ok (xlatAt s none a acc) ∧
        permits acc (xlatAt s none a acc).kind (xlatAt s none a acc).w (xlatAt s none a acc).x = true ∧
        (xlatAt s none a acc).leaf ||| (if acc.writes then 0x600#64 else 0x200#64) = (xlatAt s none a acc).leaf ∧
        (xlatAt s none a acc).leaf.getLsbD 5 = false) ∧
      (s.missing 0 1 (vaOf a / 65536) = false ∧ s.walkerFree 0 = true) ∧ s.walkHit (some 0) 1 1 (vaOf a) = some 0x30001 ∧
      s.walkRead (some 0) 2 1 (vaOf a) (pteAddr 0x30001 + 8 * field (vaOf a) 41 29) = some 0x60F) :
    s.engineAccess 1 a acc (some 0) = .ok (s, xlatAt s none a acc) :=
  engine_at h.1 h.2.1 h.2.2.1 h.2.2.2 (by decide)

/-- A packet: class, flags, LEN, then SADR and SVAL, SRC, DST, and the word of ROWS, formats and OPB. -/
def pkt0 (cls flags len rowWord : Nat) : Packet :=
  let w := [cls + 2 ^ 8 * flags + 2 ^ 32 * len, 0x60000, 77, 0x40000, 0x70000, rowWord, 0, 0]
  vtab 8 fun i => BitVec.ofNat 64 (w.getD i 0)
def work1 (p : Packet) (done : Bool) : PacketWork :=
  { slot := 3, words := p, progress := 0, staged := [], out := [], before := [], done := done, stamped := false, lost := false
    parked := false, rejected := none }
def busyQueue (ws : List PacketWork) : MemQueue := { memQueue with begun := ws, db := 5, next := 4, idx := 3 }
def busy (ws : List PacketWork) (m : Memory) : State := { s0 with mem := m, queues := [busyQueue ws] }
/-- One packet of each class on a line of f32, i8 or plain bytes. -/
def onePacket (cls : Nat) : Packet :=
  match cls with
  | 2 => pkt0 2 0 16 (1 + 2 ^ 32 * 12 + 2 ^ 40)
  | 3 => pkt0 3 0 16 (1 + 2 ^ 32 + 2 ^ 32 * 11 + 2 ^ 40)
  | 4 => pkt0 4 0 16 (1 + 2 ^ 32 + 2 ^ 48)
  | c => pkt0 c 0 64 1

def stateOf (r : EngineRes Unit) : State := r.state

/-- A packet of a queue is done: the states after its stamp, its slot's valid byte and its index. -/
def doneState : State := busy [work1 (pkt0 5 3 64 1) true] headerMem
def doneA : State := stateOf (doneState.stampWrite (some 0) 1 0x60000 77)
def doneB : State :=
  { doneA.updQueue 1 0x50000 (fun q => { q with begun := updFirst (·.slot == 3) (fun _ => { work1 (pkt0 5 3 64 1) true with stamped := true }) q.begun }) with
    signals := doneA.signals ++ [.irq (doneA.vectorOf 1) (.packet 1 0x50000 3)] }
def doneC : State := stateOf (doneB.queueWrite (busyQueue [work1 (pkt0 5 3 64 1) true]) 0x50081 [0])
def doneD : State := stateOf (doneC.queueWrite (busyQueue [work1 (pkt0 5 3 64 1) true]) 0x50008 (leBytes 8 4))

theorem doneA_eq : doneState.stampWrite (some 0) 1 0x60000 77 = .ok doneA () := done_of (by decide +kernel)
theorem doneC_eq {a : Word} (h : a = 0x50081) :
    doneB.queueWrite (busyQueue [work1 (pkt0 5 3 64 1) true]) a [0] = .ok doneC () := by
  subst h; exact done_of (by decide +kernel)
theorem doneD_eq {a : Word} {bs : List Byte} (h : a = 0x50008) (k : bs = leBytes 8 4) :
    doneC.queueWrite (busyQueue [work1 (pkt0 5 3 64 1) true]) a bs = .ok doneD () := by
  subst h k; exact done_of (by decide +kernel)

/-- A packet of a launch of one gang; with ASP set; with SPL 0; and with a stamp that is not canonical. -/
def launchWords (asp flags spl : Nat) (sadr : Word) : Packet :=
  let w := [2 ^ 8 * flags + 2 ^ 16 * asp + 2 ^ 32, 0, 0, 0x100000, 0, 2 ^ 32 * spl + 2 ^ 56 * 63 + 2 ^ 48 * 16, 2 ^ 32 * 737280 + 1, 0x9000]
  vset (vtab 8 fun i => BitVec.ofNat 64 (w.getD i 0)) 1 sadr
def launchQueue (p : Packet) (pasid : Nat) : MemQueue := { busyQueue [work1 p false] with engine := .launch, pasid := pasid }

/-- A write of one byte at the end of a line and of eight; a slot with room for another; a packet of each class; the end of one with a stamp
and an interrupt; a core's copy; the launch packets; a stream that waits for an entry. -/
theorem witness_EngineEvents :
    let q := busyQueue []
    let s := busy [] headerMem
    let t : Stream := { stream0 with wait := .pool .copy 7 }
    let x := xlatAt s none 0x6003F .store
    let y := xlatAt s none 0x60000 .store
    (Calm s ∧ q.pasid = 1 ∧ q.engine.die = some 0 ∧ x.kind < 2 ∧ s.engineAccess 1 0x6003F .store (some 0) = .ok (s, x) ∧
        (0x6003F : Word).toNat % 64 + [(7 : Byte)].length ≤ 64 ∧ y.kind < 2 ∧ s.engineAccess 1 0x60000 .store (some 0) = .ok (s, y) ∧
        (0x60000 : Word).toNat % 8 = 0) ∧
      (s.queue? 1 0x50000 = some q ∧ q.err = false ∧ q.bound = true ∧ q.begun.length < 8 ∧ q.db ≠ BitVec.ofNat 64 q.next ∧
        (q.db - BitVec.ofNat 64 q.next).toNat ≤ 2 ^ 31 ∧
        s.engineAccess 1 (BitVec.ofNat 64 (q.hdr + 64 + 64 * (q.next % 2 ^ q.log))) .load (some 0) = .ok (s, xlatAt s none 0x50040 .load) ∧
        (xlatAt s none 0x50040 .load).kind < 2) ∧
      (∀ cls ∈ [1, 2, 3, 4, 5], let p := onePacket cls
        let s := busy [work1 p false] headerMem
        Calm s ∧ pktClass p = cls ∧ copyReason false p = none ∧ pktRows p = 1 ∧ 0 < pktLen p ∧
        (∀ f ∈ [(pktFormats p).1, (pktFormats p).2], f.width % 8 = 0 ∧ f.scaled = false) ∧ (pktDst p).toNat % 64 + dstRowBytes p ≤ 64 ∧
        s.engineAccess 1 (pktDst p) .store (some 0) = .ok (s, xlatAt s none (pktDst p) .store) ∧ (xlatAt s none (pktDst p) .store).kind < 2 ∧
        (cls = 5 ∨ (pktSrc p).toNat % 64 + srcRowBytes p ≤ 64 ∧
          s.engineAccess 1 (pktSrc p) .load (some 0) = .ok (s, xlatAt s none (pktSrc p) .load) ∧ (xlatAt s none (pktSrc p) .load).kind < 2)) ∧
      (let q := busyQueue [work1 (pkt0 5 3 64 1) true]
       doneState.queue? 1 0x50000 = some q ∧ q.err = false ∧ q.errDue = false ∧
         doneState.stampWrite q.engine.die 1 (pktSadr (pkt0 5 3 64 1)) (pktSval (pkt0 5 3 64 1)) = .ok doneA () ∧
         doneB.queueWrite q (BitVec.ofNat 64 (q.hdr + 64 + 64 * (3 % 2 ^ q.log)) + 1#64) [0] = .ok doneC () ∧
         doneC.queueWrite q (BitVec.ofNat 64 q.hdr + 8#64) (leBytes 8 ((3 + 1) % 2 ^ 63)) = .ok doneD ()) ∧
      (let c : CoreCmd := { seq := 9, asked := false, core := 0, launch := 1, gang := 0, splice := 0, pasid := 1, work := work1 (pkt0 5 0 64 1) true }
       ({ s0 with coreCmds := [c] } : State).coreCmds.find? (·.core == 0) = some c ∧ (s0.launch? c.launch).any (!·.aborting) = true ∧ pktFlags c.work.words % 4 = 0) ∧
      (∀ p n, ({ s0 with queues := [launchQueue p n] } : State).queue? n 0x50000 = some (launchQueue p n)) ∧
      (pktAsp (launchWords 1 0 1 0) ≠ 0 ∧ launchBad (launchWords 0 0 0 0) = true ∧
        (let p := launchWords 0 1 1 0x0100000000000000
         launchBad p = false ∧ pktFlags p % 2 = 1 ∧ canonical (pktSadr p) = false) ∧
        (let p := launchWords 0 0 1 0
         pktAsp p = 0 ∧ launchBad p = false ∧ pktFlags p % 2 = 0 ∧ (s0.context 2).valid = false ∧ (s0.context 1).valid = true)) ∧
      ((with1 g0 t).stream? 0 = some t ∧ (with1 g0 t).waitCore t = some 0 ∧ (with1 g0 t).poolFree 0 .copy = true ∧
        ∀ y ∈ (with1 g0 t).poolRequests 0, y = (0, .copy, 7)) := by
  refine ⟨⟨calm_of (by decide +kernel), rfl, rfl, by decide +kernel, engine_die0 (by decide +kernel), by decide, by decide +kernel,
      engine_die0 (by decide +kernel), by decide⟩,
    ⟨rfl, rfl, rfl, by decide, by decide, by decide, engine_die0 (a := 0x50040) (by decide +kernel), by decide +kernel⟩, ?_,
    ⟨rfl, rfl, rfl, doneA_eq, doneC_eq (by decide +kernel), doneD_eq (by decide +kernel) (by decide +kernel)⟩, ⟨rfl, rfl, by decide +kernel⟩,
    fun _ n => by simp [State.queue?, launchQueue, busyQueue, memQueue], by decide +kernel, rfl, rfl, by decide +kernel, by decide +kernel⟩
  intro cls h
  simp only [List.mem_cons, List.not_mem_nil, or_false] at h
  rcases h with rfl | rfl | rfl | rfl | rfl
  all_goals exact ⟨calm_of (by decide +kernel), by decide +kernel, by decide +kernel, by decide +kernel, by decide +kernel, by decide +kernel,
    by decide +kernel, engine_die0 (by decide +kernel), by decide +kernel,
    by first | exact .inl rfl | exact .inr ⟨by decide +kernel, engine_die0 (by decide +kernel), by decide +kernel⟩⟩


/-! A save of a whole record, line by line: the pages of `tables` map every low address to itself. -/

theorem read_congr {m n : Memory} : ∀ {k a : Nat}, (∀ x, a ≤ x → x < a + k → m.get x = n.get x) → m.read a k = n.read a k
  | 0, _, _ => rfl
  | k + 1, a, h => by
    simp only [Memory.read]
    rw [h a (by omega) (by omega), read_congr fun x h1 h2 => h x (by omega) (by omega)]

/-- The leaf of the tables for an address. -/
def leafOf (va : Nat) : Xlat :=
  { pa := va, kind := 0, w := true, x := true, leafPa := 0x30000, leaf := 0x60F, vpage := 0, pages := 8192, base := 0 }

/-- A state whose low 256 KiB hold the tables, reached from a calm one by writes elsewhere. -/
structure Mapped (s s' : State) : Prop where
  calm : Calm s'
  low : ∀ a, a < 0x40000 → s'.mem.get a = tables.get a
  wf : s'.mem.wf = true
  io : s'.io = State.reset.io
  fw : s'.fw = Firmware.reset
  same : CachedWith s s'.mem s'

theorem context_mapped {s s' : State} (h : Mapped s s') : s'.context 1 = s0.context 1 := by
  have hw : ∀ a, a + 8 ≤ 0x40000 → s'.mem.word a = tables.word a := fun a ha => by
    unfold Memory.word Memory.nat; rw [read_congr fun x h1 h2 => h.low x (by omega)]
  have hr : ∀ a n, a + n ≤ 0x40000 → s'.mem.nat a n = tables.nat a n := fun a n ha => by
    unfold Memory.nat; rw [read_congr fun x h1 h2 => h.low x (by omega)]
  have hc : s'.contextPa 1 = 64 := by unfold State.contextPa; rw [h.io]; decide +kernel
  have c0 : s0.contextPa 1 = 64 := by decide +kernel
  have sm : s0.mem = tables := rfl
  simp only [State.context, hc, c0, sm, Nat.reduceAdd]
  rw [h.low 64 (by decide), h.low 80 (by decide), hr 72 8 (by decide), hr 88 4 (by decide), hr 92 4 (by decide), hw 96 (by decide),
    hw 104 (by decide)]

theorem walk_mapped {s s' : State} (h : Mapped s s') {va : Nat} (hv : va < 2 ^ 29) : s'.walkFor none 1 va = .ok (leafOf va) := by
  have hw : ∀ a, a + 8 ≤ 0x40000 → s'.mem.word a = tables.word a := fun a ha => by
    unfold Memory.word Memory.nat; rw [read_congr fun x h1 h2 => h.low x (by omega)]
  have hx : s'.context 1 = s0.context 1 := context_mapped h
  have hm : s'.memMap = { carve := 0, pair := none } := by unfold State.memMap; rw [h.io, h.fw]; decide +kernel
  have ho : s'.guest.owned = [] := h.calm.guest
  have hh : ∀ l p v, s'.walkHit none l p v = none := fun l p v => by simp [State.walkHit]
  have hs : s'.strictBad (s0.context 1).part va = false := by
    have : s'.isStrict (s0.context 1).part = false := by unfold State.isStrict State.partcfg; rw [h.io]; decide +kernel
    simp [State.strictBad, this]
  have f1 : field va 54 42 = 0 := by unfold field; omega
  have f2 : field va 41 29 = 0 := by unfold field; omega
  have f3 : field va 28 0 = va := by unfold field; omega
  have f4 : va / 65536 / 8192 * 8192 = 0 := by omega
  have r1 : ∀ a, a + 8 ≤ 0x40000 → ∀ l p v, s'.walkRead none l p v a = some (tables.word a) := fun a ha l p v => by
    simp [State.walkRead, hh, ho, hw a ha]
  have p : paRange { carve := 0, pair := none } va = .dram := by
    unfold paRange
    rw [if_neg (by omega), if_pos (by simp; omega)]
  have w1 : tables.word 0x20000 = 0x30001#64 := by decide +kernel
  have w2 : tables.word 0x30000 = 0x60F#64 := by decide +kernel
  have a1 : pteAddr 0x30001#64 = 0x30000 := by decide
  have a2 : pteAddr 0x60F#64 = 0 := by decide
  have root : (s0.context 1).root = 0x20000 := by decide +kernel
  have valid : (s0.context 1).valid = true := by decide +kernel
  have lb : leafBad { carve := 0, pair := none } 0x60F#64 va = false := by unfold leafBad; rw [p]; decide
  have e : s'.walk none 1 0x20000 va = .ok (leafOf va) := by
    unfold State.walk
    rw [hm, f1, f2, f3, f4, r1 _ (by decide), w1]
    simp only [a1]
    rw [r1 _ (by decide), w2]
    have b1 : (0x30001#64).getLsbD 0 = true ∧ (0x30001#64).getLsbD 1 = false ∧ tableBad 0x30001#64 = false := by decide
    have b2 : (0x60F#64).getLsbD 0 = true ∧ (0x60F#64).getLsbD 1 = true ∧ bits 0x60F#64 28 16 = 0 ∧ (0x60F#64).getLsbD 5 = false ∧
      bits 0x60F#64 8 6 = 0 ∧ (0x60F#64).getLsbD 2 = true ∧ (0x60F#64).getLsbD 3 = true := by decide
    simp [b1, b2, a2, lb, leafOf]
  unfold State.walkFor
  simp only [hx, valid, root, e, leafOf, hs]
  rfl

theorem line_mapped {s s' : State} (h : Mapped s s') {va : Nat} {b : Byte} {g : List Host.Cell} (h1 : 0x40000 ≤ va) (h2 : va < 2 ^ 29) :
    ∃ t, s'.engineWriteLine none 1 ((va, b) :: g) = .ok t () ∧ Mapped s t := by
  have hv : vaOf (toWord va) = va := by
    unfold vaOf bits field toWord; rw [BitVec.toNat_ofNat]; omega
  have hc : canonical (toWord va) = true := by
    have : bits (toWord va) 63 54 = 0 := by unfold bits field toWord; rw [BitVec.toNat_ofNat]; omega
    simp [canonical, this]
  have he : s'.engineAccess 1 (toWord va) .store none = .ok (s', leafOf va) :=
    engine_of ⟨hc, by rw [hv]; exact walk_mapped h h2, rfl, by show 0x60F#64 ||| 0x600#64 = 0x60F#64 ∧ (0x60F#64).getLsbD 5 = false; decide⟩
  obtain ⟨t, ht, k⟩ := s'.engineWriteLine_calm h.calm (b := b) (g := g) he (Nat.zero_lt_succ 1)
  refine ⟨t, ht, k.calm h.calm, fun a ha => ?_, by rw [k.mem]; exact Memory.wf_write _ _ h.wf, ?_, ?_, ?_⟩
  · rw [k.mem, Memory.get_write_other _ h.wf (by show a < va ∨ _; omega)]; exact h.low a ha
  · exact (Cached.io k).trans h.io
  · exact (Cached.fw k).trans h.fw
  · rw [k.mem]; exact h.same.trans k

theorem write_mapped {s s' : State} (h : Mapped s s') {a : Nat} {bs : List Byte} (h1 : 0x40000 ≤ a) (h2 : a + bs.length ≤ 2 ^ 29) :
    ∃ t, s'.engineWrite 1 (toWord a) bs = .ok t () ∧ Mapped s t := by
  have fold : ∀ (gs : List (List Host.Cell)) (s' : State), Mapped s s' →
      (∀ g ∈ gs, ∃ c l, g = c :: l ∧ 0x40000 ≤ c.1 ∧ c.1 < 2 ^ 29) →
      ∃ t, gs.foldl (fun acc g => acc.bind fun s () => s.engineWriteLine none 1 g) (EngineRes.ok s' ()) = .ok t () ∧ Mapped s t := by
    intro gs
    induction gs with
    | nil => exact fun s' h _ => ⟨s', rfl, h⟩
    | cons g gs ih =>
      intro s' h hg
      obtain ⟨⟨va, b⟩, l, rfl, h1, h2⟩ := hg g (by simp)
      obtain ⟨t, ht, k⟩ := line_mapped h (b := b) (g := l) h1 h2
      obtain ⟨u, hu, ku⟩ := ih t k fun g h => hg g (by simp [h])
      exact ⟨u, by simp only [List.foldl_cons, EngineRes.bind, ht]; exact hu, ku⟩
  have e : (toWord a).toNat = a := by unfold toWord; rw [BitVec.toNat_ofNat]; omega
  unfold State.engineWrite
  rw [e]
  refine fold _ s' h fun g hg => ?_
  match g, byLine_ne_nil bs a g hg with
  | c :: l, _ =>
    have m : c ∈ cellsOf a bs := by
      rw [← byLine_flatten bs a]; exact List.mem_flatten.mpr ⟨_, hg, by simp⟩
    have := cellsOf_range bs a c m
    exact ⟨c, l, rfl, by omega, by omega⟩

theorem pieces_mapped {s : State} {a : Nat} (h1 : 0x40000 ≤ a) : ∀ (l : List (Nat × List Byte)) (s' : State), Mapped s s' →
    (∀ p ∈ l, a + p.1 + p.2.length ≤ 2 ^ 29) → ∃ t, s'.writePieces 1 (toWord a) l = .ok t () ∧ Mapped s t
  | [], s', h, _ => ⟨s', rfl, h⟩
  | p :: l, s', h, hp => by
    have k := hp p (by simp)
    have e : toWord a + toWord p.1 = toWord (a + p.1) := by unfold toWord; rw [BitVec.ofNat_add]
    obtain ⟨t, ht, kt⟩ := write_mapped h (a := a + p.1) (bs := p.2) (by omega) (by omega)
    obtain ⟨u, hu, ku⟩ := pieces_mapped h1 l t kt fun q hq => hp q (by simp [hq])
    refine ⟨u, ?_, ku⟩
    simp only [State.writePieces, List.foldl_cons, EngineRes.bind, e, ht]
    exact hu

theorem read_length (m : Memory) : ∀ n a, (m.read a n).length = n
  | 0, _ => rfl
  | n + 1, a => by simp [Memory.read, read_length m n (a + 1)]

/-- A launch without tiles, so that a save writes less. -/
def bareLaunch : Launch := { launch1 with tiles := 0 }

/-- A gang of that launch on core 0 is saved whole, with its splice. -/
theorem save_mapped {s : State} (h : Mapped s s) {g : Gang} (hl : s.launches = [bareLaunch]) (hs : s.splices = [splice0])
    (hg : g.launch = 1 ∧ g.idx = 0 ∧ g.record = 0) (ho : s.gangs = [g]) (hr : ∀ p ∈ gangRecord g (s.streamsOf 1 0) 0, p.1 + p.2.length ≤ 0x15000) :
    ∃ u, s.saveBytes g = .ok u () := by
  have hp : ∀ u : State, u.launches = [bareLaunch] → u.pasidOf 1 = 1 ∧ u.spliceOf 1 0 = 0 ∧ u.tilesOf 1 = 0 := fun u hu => by
    simp [State.pasidOf, State.spliceOf, State.tilesOf, State.launch?, hu, bareLaunch, launch1]
  have v1 : gangRecordVa (s0.context 1) 0 = toWord 0x100000 := by decide +kernel
  have v2 : spliceRecordVa (s0.context 1) 0 = toWord 0x1000000 := by decide +kernel
  obtain ⟨p1, -, p3⟩ := hp s hl
  obtain ⟨t, ht, kt⟩ := pieces_mapped (a := 0x100000) (by decide) (gangRecord g (s.streamsOf 1 0) 0) s h fun p q => by
    have := hr p q; omega
  have tl : t.launches = [bareLaunch] := (Cached.launches kt.same).trans hl
  have ts : t.splices = [splice0] := (Cached.splices kt.same).trans hs
  have tg : t.gangs = [g] := (Cached.gangs kt.same).trans ho
  obtain ⟨q1, q2, -⟩ := hp t tl
  obtain ⟨u, hu, -⟩ := pieces_mapped (a := 0x1000000) (by decide) (scratchPieces splice0) t kt fun p q => by
    simp only [scratchPieces, splice0, Nat.reduceAdd, Nat.reduceDiv, List.range_one, List.map_cons, List.map_nil, List.mem_singleton] at q
    subst q; simp [read_length]
  refine ⟨u, ?_⟩
  have last : t.lastOfSplice g = true := by
    simp [State.lastOfSplice, State.membersOf, tg, hg]
  have sp : t.splice? 1 0 = some splice0 := by simp [State.splice?, ts, splice0]
  simp only [State.saveBytes, hg, p1, p3, context_mapped h, v1, ht, EngineRes.bind, last, if_true, State.saveScratch, q1, q2, sp,
    context_mapped kt]
  simp only [splice0, v2]
  exact hu


/-! Placements, evictions and ends. -/

/-- A launch that nothing has been placed of; one with a gang resident and another to come; an absent splice's priority above a resident's.
-/
def freshLaunch : Launch := { launch1 with nextSplice := 0 }
def freshState : State := { State.reset with mem := tables, launches := [freshLaunch] }
def nextLaunch1 : Launch := { launch1 with gangs := 2 }
def agedState : State := { s0 with launches := [nextLaunch1] }

/-- In a strict partition of one cluster: launch 1 of low priority holds core 0, launch 2 of high priority the other seven cores, with
all of their scratchpad; launch 3 waits. -/
def lowGang : Gang := { g0 with launch := 1 }
def fullSplice (l i c : Nat) : Splice := { splice0 with launch := l, idx := i, size := 737280, core := some c, record := none }
def strictState : State :=
  { s0 with
    io := { s0.io with partcfg := vset s0.io.partcfg 0 0x80FF000100000001 }
    launches := [{ launch1 with prio := 5 }, { launch1 with id := 2, prio := 60, gangs := 7, nextSplice := 7, rlim := 0 },
      { launch1 with id := 3, prio := 30, nextSplice := 0 }]
    gangs := lowGang :: (List.range 7).map fun i => { g0 with launch := 2, idx := i, place := some (i + 1, 0) }
    splices := fullSplice 1 0 0 :: (List.range 7).map fun i => fullSplice 2 i (i + 1)
    matCmds := [{ seq := 30, core := 0, launch := 1, gang := 0, splice := 0, batch := 6, op := .mfence, started := false }] }

theorem all_below {n : Nat} {p : Nat → Bool} (h : (List.range n).all p = true) : ∀ k, k < n → p k = true :=
  fun k hk => List.all_eq_true.mp h k (List.mem_range.mpr hk)

theorem witness_Placements :
    (let x := freshLaunch
     let s := freshState
     s.launches = [x] ∧ s.gangs = [] ∧ s.streams = [] ∧ s.splices = [] ∧ s.marks = [] ∧ x.aborting = false ∧ x.ended = false ∧ x.spl = 1 ∧
       x.gangs = 1 ∧ x.nextSplice = 0 ∧ x.scr ≤ 737280 ∧ x.tiles ≤ 16 ∧ s.fw.reduced = false ∧ s.fw.dieOk = 3 ∧
       (∀ p, p < 16 → s.isStrict p = false) ∧ 0 < (s.context x.pasid).gcnt ∧ 0 < (s.context x.pasid).scnt) ∧
      (let x := nextLaunch1
       let s := agedState
       s.launches = [x] ∧ s.gangs = [g0] ∧ s.splices = [splice0] ∧ s.marks = [] ∧ x.aborting = false ∧ x.ended = false ∧ x.spl = 1 ∧
         x.gangs = 2 ∧ x.nextSplice = 1 ∧ x.rlim = 1 ∧ s.fw.reduced = false ∧ s.fw.dieOk = 3 ∧ (∀ p, p < 16 → s.isStrict p = false) ∧
         g0.launch = x.id ∧ g0.idx = 0 ∧ splice0.launch = x.id ∧ splice0.idx = 0 ∧ g0.place = some (0, 0) ∧ splice0.core = some 0 ∧ 1 < 2) ∧
      (let x := { launch1 with id := 3, prio := 30, nextSplice := 0 }
       let s := strictState
       let v := lowGang
       s.launch? x.id = some x ∧ x.aborting = false ∧ x.ended = false ∧ x.nextSplice < x.spliceCount ∧
         (s.mark? x.id x.nextSplice).bind (·.preempt) = none ∧ (1 : BitVec 2).getLsbD (dieOf 0) = true ∧
         s.mayPreempt x.id x.nextSplice 0 = true ∧ (∀ k, k < 256 → s.coreAllowed x.id k = true → s.room k x.id x.need = false) ∧
         (∀ k, k < 256 → k ≠ 0 → s.coreAllowed x.id k = true → s.victims x.id k = []) ∧ s.gang? v.launch v.idx = some v ∧
         s.victims x.id 0 = [v] ∧ s.room 0 x.id x.need [v] = true ∧ v.evict = false ∧ s.evictable v = false ∧
         ∀ g ∈ s.residents 0, s.rollbackGang g.launch g.idx = s) := by
  refine ⟨⟨rfl, rfl, rfl, rfl, rfl, by decide +kernel⟩, ⟨rfl, rfl, rfl, rfl, by decide +kernel⟩,
    ⟨by decide +kernel, by decide +kernel, by decide +kernel, by decide +kernel, by decide +kernel, by decide +kernel, by decide +kernel, ?_, ?_,
      rfl, ?_, by decide +kernel, rfl, by decide +kernel, ?_⟩⟩
  · have h := all_below (n := 256) (p := fun k => !strictState.coreAllowed 3 k ||
      !strictState.room k 3 ({ launch1 with id := 3, prio := 30, nextSplice := 0 } : Launch).need) (by decide +kernel)
    intro k hk ha
    have := h k hk
    simpa [ha] using this
  · have h := all_below (n := 256) (p := fun k => !strictState.coreAllowed 3 k || decide (k = 0) || (strictState.victims 3 k).isEmpty)
      (by decide +kernel)
    intro k hk hn ha
    have := h k hk
    simpa [ha, hn] using this
  · have e : (strictState.residents 0).filter (fun g => decide (strictState.prioOf g.launch < strictState.prioOf 3)) = [lowGang] := rfl
    simp only [State.victims, e]; rfl
  · have e : strictState.residents 0 = [lowGang] := rfl
    rw [e]; intro g hg; rw [List.mem_singleton] at hg; subst hg; rfl


/-- A gang that waits, whose matrix commands hold it on its core, while another gang of its launch waits for the place; and two gangs that
run, the second of them to make room. -/
def heldCmd (k : Nat) : MatCmd := { seq := 30, core := 0, launch := 1, gang := k, splice := k, batch := 6, op := .mfence, started := false }
def offerState : State :=
  { with1 g0 { stream0 with wait := .racq } with launches := [nextLaunch1], matCmds := [heldCmd 0] }
def runsGang : Gang := { g0 with idx := 1, place := some (0, 1), record := 1 }
def rotateState : State :=
  { s0 with
    launches := [{ launch1 with gangs := 3, nextSplice := 2, rlim := 2 }], gangs := [g0, runsGang], matCmds := [heldCmd 1]
    streams := [stream0, { stream0 with sid := 1, splice := 1, slots := Vector.replicate 8 (some 1) }]
    splices := [splice0, { splice0 with idx := 1, record := some 1 }] }



def absent1 (k : Nat) : Absent :=
  { launch := 1, idx := k, prio := 5, since := 0, need := { slots := 1, ext := 1, tiles := 8, scratch := 4096 }, home := none, fresh := true }

/-- A gang chosen to leave, with nothing outstanding; and one with a result in flight, to leave by its partition's reset. -/
def leavesGang : Gang := { g0 with evict := true }
def resetGang : Gang :=
  { g0 with pending := [{ sids := [0], reg := .s 5, old := .s 7, rows := allRows, width := 64, tag := 0, net := false, seq := 8, val := .s 7 }] }
def saveState (g : Gang) : State := { s0 with launches := [bareLaunch], gangs := [g] }

theorem mapped_of {s : State} (h : Calm s ∧ s.mem = tables ∧ s.io = State.reset.io ∧ s.fw = Firmware.reset) : Mapped s s :=
  ⟨h.1, fun _ _ => by rw [h.2.1], by rw [h.2.1]; decide +kernel, h.2.2.1, h.2.2.2, ⟨rfl, rfl⟩⟩

theorem calm_save {g : Gang} (h : g.sig = []) : Calm (saveState g) :=
  ⟨by simp [saveState, h], (by decide +kernel : s0.windows = []), (by decide +kernel : ∀ x ∈ [bareLaunch], ∀ i, i < 16 → (x.region i).state = .unmarked),
    rfl, rfl⟩

theorem witness_Evictions :
    (s0.preempting 0 = false ∧ s0.blocksUsed 0 < 8 ∧ s0.eligible 0 = []) ∧
      (let s := offerState
       let a := absent1 1
       s.preempting 0 = false ∧ s.blocksUsed 0 < 8 ∧ s.eligible 0 = [a] ∧ s.swapsBefore 0 a = false ∧ s.room 0 1 a.need = false ∧
         s.candidateFor 0 a = some g0 ∧ s.gang? 1 0 = some g0 ∧ g0.place.isSome = true ∧ s.evictable g0 = false) ∧
      (let s := rotateState
       let a := absent1 2
       let v := runsGang
       s.preempting 0 = false ∧ s.eligible 0 = [a] ∧ s.candidateFor 0 a = none ∧
         (v ∈ s.gangs ∧ v.core = some 0 ∧ v.launch = a.launch ∧ v.evict = false ∧ (s.launch? v.launch).bind s.lowestGang ≠ some v.idx) ∧
         (∀ h ∈ s.gangs, (s.launch? h.launch).bind s.lowestGang ≠ some h.idx → h = v) ∧ s.gang? 1 1 = some v ∧ s.evictable v = false) ∧
      (∀ g ∈ [leavesGang, resetGang], let s := saveState g
        s.gangs = [g] ∧ s.streams = [stream0] ∧ (s.launch? 1).any (·.aborting) = false ∧ s.atExit g = false ∧ s.preempting 0 = false ∧ Calm s ∧
          stream0.unc = [] ∧ stream0.wait = .none ∧ stream0.spin = Spin.empty ∧ stream0.grant = none ∧ g.place = some (0, 0) ∧ g.sb = [] ∧ s.matCmds = [] ∧
          s.coreCmds = []) ∧
      (leavesGang.evictFor = none ∧ ∃ u, (saveState leavesGang).saveBytes leavesGang = .ok u ()) ∧
      (let g := resetGang
       let back := { g with s := vset g.s 5 7, pending := [], sig := [], tagBase := 1, tagExt := 1, tagScalar := 1, evict := true }
       ((saveState g).context 1).part = 0 ∧ ∃ u, ((saveState back).countCore (some 0) 4 1 1).saveBytes back = .ok u ()) := by
  refine ⟨by decide +kernel, ⟨rfl, by decide +kernel, by decide +kernel, by decide +kernel, by decide +kernel, rfl, rfl, rfl, by decide +kernel⟩,
    ⟨rfl, by decide +kernel, rfl, ⟨by simp [rotateState], rfl, rfl, rfl, by decide +kernel⟩, ?_, rfl, by decide +kernel⟩, ?_,
    ⟨rfl, save_mapped (mapped_of ⟨calm_save rfl, rfl, rfl, rfl⟩) rfl rfl ⟨rfl, rfl, rfl⟩ rfl (by decide +kernel)⟩, by decide +kernel,
    save_mapped (mapped_of ⟨(State.count_cached ..).calm (calm_save rfl), rfl, rfl, rfl⟩) rfl rfl ⟨rfl, rfl, rfl⟩ rfl (by decide +kernel)⟩
  · intro h hh hn
    simp only [rotateState, List.mem_cons, List.not_mem_nil, or_false] at hh
    rcases hh with rfl | rfl
    · exact absurd (by decide +kernel) hn
    · rfl
  · intro g hg
    simp only [List.mem_cons, List.not_mem_nil, or_false] at hg
    rcases hg with rfl | rfl <;>
      exact ⟨rfl, rfl, by decide +kernel, by decide +kernel, rfl, calm_save rfl, rfl, rfl, rfl, rfl, rfl, rfl, rfl, rfl⟩

/-- A launch whose only gang has exited; a launch packet behind another; one that is killed. -/
theorem witness_Ends :
    (let s := { s0 with streams := [] }
     s.gang? 1 0 = some g0 ∧ (s.launch? 1).any (·.aborting) = false ∧ s.streamsOf 1 0 = [] ∧ s.matCmds = [] ∧ g0.sb = [] ∧ g0.pending = [] ∧
       s.preempting 0 = false ∧ (∀ h ∈ s.gangs, h.launch = 1 → s.spliceOf 1 h.idx = s.spliceOf 1 0 → h.idx = 0) ∧
       (∀ m ∈ g0.members.toList, m.handle = 0) ∧ g0.evictFor = none) ∧
      (let q := { memQueue with hdr := 0x5000, engine := .launch, begun := [{ work1 (pkt0 0 0 1 0) false with slot := 4 }, work1 (pkt0 0 0 1 0) false] }
       let x := { launch1 with slot := 3, finished := 1 }
       let y := { launch1 with slot := 3, aborting := true }
       ∀ z ∈ [x, y], let s := { s0 with launches := [z], queues := [q], gangs := [] }
         s.launches.filter (·.id == z.id) = [z] ∧ z.ended = false ∧
           (z.aborting = false ∧ z.gangs ≤ z.finished ∨ z.aborting = true ∧ ∀ h ∈ s.gangs, h.launch ≠ z.id) ∧
           (∀ i, i < 16 → (z.region i).state ≠ .rolling) ∧ s.queue? z.pasid z.queue = some q ∧ z.slot = 3) ∧
      (s0.launch? 1 = some launch1 ∧ launch1.aborting = false ∧ launch1.ended = false ∧
        (∀ g ∈ s0.gangs, g.launch = 1 → g.sb = [] ∧ ∀ m ∈ g.members.toList, m.handle = 0) ∧
        ∀ t ∈ s0.streams, t.launch = 1 → ∀ h n, t.wait ≠ .knot h n) := by
  refine ⟨⟨rfl, by decide +kernel, rfl, rfl, rfl, rfl, rfl, by decide +kernel, by decide +kernel, rfl⟩, ?_, rfl, rfl, rfl, by decide +kernel,
    fun t h _ => by simp only [with1, List.mem_singleton] at h; subst h; simp [stream0]⟩
  intro q x y z hz
  simp only [List.mem_cons, List.not_mem_nil, or_false] at hz
  rcases hz with rfl | rfl
  · exact ⟨rfl, rfl, .inl ⟨rfl, by decide⟩, by decide +kernel, rfl, rfl⟩
  · exact ⟨rfl, rfl, .inr ⟨rfl, by simp⟩, by decide +kernel, rfl, rfl⟩


/-- An import of coherent memory from device 9, reads and writes allowed; a read and a write of one line's end, an atomic that the entry
does not allow. -/
def import9 : ImportEntry := { n := 3, dev := 9, spasid := 4, tpasid := 1, type := .virtual, perm := 3, base := 0x40000, limit := 0x41000 }
def fabricState : State := { s0 with imports := [import9] }
def asks (a : Nat) (op : FabricOp) : FabricRequest := { dev := 9, pasid := 4, type := .virtual, addr := a, op := op, tag := 7 }
/-- A request of a gang's lane, and commands whose lanes are done and whose lane is ready. -/
def laneRequest : OutRequest := { tag := 20, peer := 9, pasid := 1, type := .virtual, addr := 0x40000, op := .read 8, src := .lane 0 3 0x40000, guest := false }
def xlane (peer : Nat) (ph : XPhase) : XLane :=
  { lane := 5, peer := peer, len := 64, laddr := 0x60000, taddr := 0x40000, db := false, ret := false, opa := 0, phase := ph, parked := false }
def xcmd (peer : Nat) (ph : XPhase) (sa : Word) : XCmd :=
  { seq := 30, sid := 0, sids := [0], launch := 1, gang := 0, pasid := 1, op := 1, lanes := [xlane peer ph], sa := sa, sv := 8, err := false, parked := false }
def xstate (c : XCmd) : State := { s0 with xcmds := [c] }

/-- A request without an entry and two with one; an answer to a lane; commands done, with and without a stamp, and one with a lane to send.
-/
theorem witness_FabricEvents :
    (s0.admitting (asks 0x40FFF (.read 1)) = none ∧ fabricState.admitting (asks 0x40FF8 (.atomic 0 8 1 0)) = none) ∧
      (∀ r ∈ [asks 0x40FFF (.read 1), asks 0x40038 (.write [1, 2, 3, 4, 5, 6, 7, 8])], let acc := if r.op = .read 1 then .load else .store
        let x := xlatAt fabricState none (BitVec.ofNat 64 r.addr) acc
        fabricState.admitting r = some import9 ∧ r.type = .virtual ∧ Calm fabricState ∧ x.kind < 2 ∧ r.addr < 2 ^ 64 ∧
          r.addr % 64 + fabricLen r.op ≤ 64 ∧
          fabricState.engineAccess import9.tpasid (BitVec.ofNat 64 r.addr) acc = .ok (fabricState, x)) ∧
      (let s : State := { s0 with out := [laneRequest] }
       s.out.find? (fun r => r.tag == laneRequest.tag && !r.guest) = some laneRequest ∧ laneRequest.src = .lane 0 3 0x40000) ∧
      (∀ peer sa, let c := xcmd peer .finished sa
        (xstate c).xcmds.find? (·.seq == c.seq) = some c ∧ c.parked = false ∧ (∀ l ∈ c.lanes, l.phase = .finished ∧ l.parked = false) ∧ (xstate c).out = [] ∧
          (∀ d ∈ (xstate c).xcmds, d.launch = c.launch → c.sid ∈ d.sids → c.seq ≤ d.seq)) ∧
      (let s := xstate (xcmd 0 .finished 0x60000)
       let x := xlatAt s none 0x60000 .store
       (0x60000 : Word) ≠ 0 ∧ (0x60000 : Word).toNat % 8 = 0 ∧ Calm s ∧ s.engineAccess 1 0x60000 .store = .ok (s, x) ∧ x.kind < 2) ∧
      (let c := xcmd (Config.deviceId.toNat + 1) .ready 0
       (xstate c).xcmds.find? (·.seq == c.seq) = some c ∧ c.lanes = [xlane (Config.deviceId.toNat + 1) .ready] ∧
         (∀ y ∈ c.lanes, y.parked = false ∧ y.db = false) ∧ Config.deviceId.toNat + 1 ≠ Config.deviceId.toNat) := by
  refine ⟨by decide +kernel, ?_, ⟨rfl, rfl⟩, fun peer sa => ⟨rfl, rfl, by simp [xcmd, xlane], rfl, by simp [xstate]⟩,
    ⟨by decide, by decide, calm_of (by decide +kernel), engine_of (by decide +kernel), by decide +kernel⟩,
    rfl, rfl, by simp [xcmd, xlane], by simp⟩
  intro r h
  simp only [List.mem_cons, List.not_mem_nil, or_false] at h
  rcases h with rfl | rfl
  all_goals exact ⟨by decide +kernel, rfl, calm_of (by decide +kernel), by decide +kernel, by decide, by decide +kernel, engine_of (by decide +kernel)⟩


/-- A packet of rank 1 for bucket 0, of a round and a format. -/
def packet1 (round fmt : Nat) : HalyardPacket :=
  { handle := 0x10003, bucket := 0, round := round, rank := 1, slice := 2, fmt := fmt, len := 16, elems := some [7] }
def part1 : Contribution := { rank := 1, slice := 2, elems := some [7] }
def flying1 (cs : List Contribution) : Bucket := { bucket1 with fires := 3, inFlight := true, contribs := cs }
def sum1 : Plan := { plan1 bucket1 false with coll := 0 }

/-- A failed bucket in flight of a plan whose knot takes engines' arrivals, freed or not; the states after its record and after its
arrival. -/
def failed1 (reason : Nat) : Bucket := { bucket1 with fires := 3, inFlight := true, reason := reason }
def planK (reason : Nat) (freed : Bool) : Plan := { plan1 (failed1 reason) false with knot := 0x60000, freed := freed }
def knotState (reason : Nat) (freed : Bool) : State :=
  { s0 with mem := knotAt 0x60000 4 0 3 3 0 1 tables, plans := [planK reason freed] }
def record1 (reason : Nat) : List Byte :=
  leBytes 2 0 ++ leBytes 2 0 ++ leBytes 2 8 ++ leBytes 2 reason ++ leBytes 8 3 ++ leBytes 8 0 ++ leBytes 4 0 ++ leBytes 4 0 ++ leBytes 32 0
def toldOf (reason : Nat) (freed : Bool) : State := stateOf ((knotState reason freed).engineWrite 1 0x50000 (record1 reason))
def markedOf (reason : Nat) (freed : Bool) : State := (toldOf reason freed).updBucket 0x10003 0 fun b => { b with recorded := true }
def arrivalState : Arrival → State
  | .done s => s
  | .refused s => s
  | _ => State.reset
theorem arrived_of {r : Arrival} (h : (match r with
    | .done _ => true
    | _ => false) = true) : r = .done (arrivalState r) := by
  cases r <;> first | rfl | simp at h

theorem told_of {reason : Nat} {freed : Bool} (h : (reason = 5 ∧ freed = false) ∨ (reason = 16 ∧ freed = true)) :
    (knotState reason freed).engineWrite 1 0x50000 (record1 reason) = .ok (toldOf reason freed) () := by
  rcases h with ⟨rfl, rfl⟩ | ⟨rfl, rfl⟩ <;> exact done_of (by decide +kernel)
theorem arrived {reason : Nat} {freed : Bool} (h : (reason = 5 ∧ freed = false) ∨ (reason = 16 ∧ freed = true)) :
    (markedOf reason freed).engineArrive 1 0x60000 = .done (arrivalState ((markedOf reason freed).engineArrive 1 0x60000)) := by
  rcases h with ⟨rfl, rfl⟩ | ⟨rfl, rfl⟩ <;> exact arrived_of (by decide +kernel)

/-- A bucket that waits for a round of which a packet is held, in a plan with a deadline; and the plan freed. -/
def waits1 : Bucket := { bucket1 with fires := 255, held := [packet1 0 1] }
def planD : Plan := { plan1 waits1 false with deadline := 9 }
def deadlineState : State := { fireState bucket1 false 0 with plans := [planD] }
def freedPlan : Plan := { plan1 bucket1 false with freed := true }

theorem plan_of {s : State} {p : Plan} {h : Nat} (e : s.plans = [p]) (k : p.handle = h) : s.plan? h = some p := by simp [State.plan?, e, k]

/-- A sum of one contribution; packets of the round under way, known, new and unlike, of the next round, of the last that is ahead and of
the first that is late; the end of a failed bucket and of one of a freed plan; a deadline; a freed plan without buckets in flight. -/
theorem witness_HalyardEvents :
    (sum1.coll = 0 ∧ sum1.alg = 0 ∧ sum1.opr = 0 ∧ ∃ r, r < sum1.ranks.length ∧ ((fun r => if r = 1 then some 7 else none) r : Option Nat).isSome = true) ∧
      (∀ b ∈ [bucket1, flying1 [], flying1 [part1]], ∀ r f, let s := fireState b false 0
        s.plan? (packet1 r f).handle = some (plan1 b false) ∧ (plan1 b false).bucket? (packet1 r f).bucket = some b ∧
          ∃ buf, s.bufferOf (plan1 b false) 0 = some buf ∧ buf.fmt = 1 ∧ buf.len = (packet1 r f).len) ∧
      (let ahead := fun (q : HalyardPacket) (b : Bucket) => (q.round + 256 - b.fires % 256) % 256
       ahead (packet1 3 1) (flying1 []) = 0 ∧ (flying1 []).inFlight = true ∧ (flying1 []).reason = 0 ∧ (packet1 3 2).fmt ≠ 1 ∧
         (∃ c ∈ (flying1 [part1]).contribs, c.rank = (packet1 3 1).rank ∧ c.slice = (packet1 3 1).slice) ∧
         (¬ ∃ c ∈ (flying1 []).contribs, c.rank = (packet1 3 1).rank ∧ c.slice = (packet1 3 1).slice) ∧
         ahead (packet1 4 1) (flying1 []) = 1 ∧ ahead (packet1 130 1) (flying1 []) = 127 ∧ ahead (packet1 131 1) (flying1 []) = 128 ∧
         ahead (packet1 0 1) bucket1 = 0 ∧ bucket1.inFlight = false) ∧
      (∀ reason freed, (reason = 5 ∧ freed = false) ∨ (reason = 16 ∧ freed = true) → let s := knotState reason freed
        let x := xlatAt s none 0x50000 .store
        Calm s ∧ (0x50000 : Word).toNat % 64 = 0 ∧ s.engineAccess 1 0x50000 .store = .ok (s, x) ∧ x.kind < 2 ∧
          s.engineWrite 1 0x50000 (record1 reason) = .ok (toldOf reason freed) () ∧
          ((toldOf reason freed).updBucket 0x10003 0 fun b => { b with recorded := true }).engineArrive 1 0x60000 =
            .done (arrivalState ((markedOf reason freed).engineArrive 1 0x60000))) ∧
      (let p := planK 5 false
       let s := knotState 5 false
       s.plan? p.handle = some p ∧ p.bucket? 0 = some (failed1 5) ∧ (failed1 5).inFlight = true ∧ (failed1 5).parked = false ∧ (failed1 5).reason ≠ 0 ∧
         (failed1 5).recorded = false ∧ (failed1 5).lateDue = 0 ∧ (∀ k ∈ p.buckets, k.inFlight = true → (failed1 5).order ≤ k.order) ∧ p.maskVa = 0) ∧
      (let p := planK 0 true
       let s := knotState 0 true
       s.plan? p.handle = some p ∧ p.freed = true ∧ p.bucket? 0 = some (failed1 0) ∧ p.buckets.filter (·.inFlight) = [failed1 0] ∧ (failed1 0).reason = 0 ∧
         (failed1 0).recorded = false ∧ p.maskVa = 0 ∧ Calm s ∧ s.updBucket p.handle 0 (fun _ => failed1 16) = knotState 16 true) ∧
      (deadlineState.plan? planD.handle = some planD ∧ planD.bucket? 0 = some waits1 ∧ planD.deadline ≠ 0 ∧ planD.freed = false ∧
        waits1.inFlight = false ∧ (deadlineState.bufferOf planD 0).isSome = true ∧
        ∃ q ∈ waits1.held, q.round = (waits1.fires + 1) % 256 ∧ q.slice = 2) ∧
      (let s : State := { s0 with plans := [freedPlan] }
       freedPlan ∈ s.plans ∧ freedPlan.freed = true ∧ (∀ b ∈ freedPlan.buckets, b.inFlight = false) ∧ s.plan? freedPlan.handle = some freedPlan ∧
         freedPlan.buckets.filter (·.inFlight) = [] ∧ ∀ q ∈ s.plans, q.index = freedPlan.index → q = freedPlan) ∧
      (plan1 (flying1 [part1]) false).coll = 3 := by
  refine ⟨⟨rfl, rfl, rfl, 1, by simp [sum1, plan1], rfl⟩, ?_, ?_, ?_, ?_, ?_, ?_, ?_, rfl⟩
  · intro b h; simp only [List.mem_cons, List.not_mem_nil, or_false] at h
    rcases h with rfl | rfl | rfl <;> exact fun _ _ => ⟨plan_of rfl (by simp [Plan.handle, plan1, packet1]), rfl, _, rfl, rfl, rfl⟩
  · exact ⟨rfl, rfl, rfl, by decide, ⟨part1, by simp [flying1], rfl, rfl⟩, by simp [flying1], rfl, rfl, rfl, rfl, rfl⟩
  · intro reason freed h
    refine ⟨?_, by decide, ?_, ?_, told_of h, arrived h⟩ <;> rcases h with ⟨rfl, rfl⟩ | ⟨rfl, rfl⟩
    all_goals first | exact calm_of (by decide +kernel) | exact engine_of (by decide +kernel) | decide +kernel
  · exact ⟨plan_of rfl rfl, rfl, rfl, rfl, by decide, rfl, rfl, fun k h _ => by simp only [planK, plan1, List.mem_singleton] at h; subst h; exact Nat.le_refl _, rfl⟩
  · exact ⟨plan_of rfl rfl, rfl, rfl, rfl, rfl, rfl, rfl, calm_of (by decide +kernel),
      by simp [State.updBucket, State.updPlan, updFirst, knotState, planK, plan1, Plan.handle, failed1, bucket1]⟩
  · exact ⟨plan_of rfl rfl, rfl, by decide, rfl, rfl, rfl, packet1 0 1, by simp [waits1], rfl, rfl⟩
  · exact ⟨by simp, rfl, by simp [freedPlan, plan1, bucket1], plan_of rfl rfl, rfl, by simp⟩


/-- An image of version 7 with an empty body, signed with a key made for this test (its signature and digests come from outside the
model): the modulus and the signature in pieces of 512 bits, the highest first. -/
def ofPieces (ps : List Nat) : Nat := ps.foldl (fun n p => n * 2 ^ 512 + p) 0
def testModulus : Nat := ofPieces
  [0xacf844948e8076bf8c936b6d2c9402e11d2711133bb03986cd4fb8a3c1bba8b474fea8e22c5da5ba6507237de9854f039390518346e3492468941b509bbd64b9,
    0x6bc34b76ef2c74e19f861d4447891da401a96c518010884747985f1695c96005c533bde4ab7e06d794598994aff1c3b21bdeb6b79a8ff5ba3e3b4caa404e6306,
    0xd6c7c79b272de1fcf9c6aa83f91c420e358bd2c3b7c63057521121686112db5f6ac9d614c4e35009fdfb3ad9b2efdd00eaf276794d9cf25c0b6cb63091dbb513,
    0x25a9bf05dc81e0698aa95e28369bb40772bdd4386946424a15212b9a9a891e49932ce2517cfdccd6939128a2956f23a44796aa10c927a9f6e927557c79f5049b,
    0x687a0e50bf41c855ccadac26c7202aff628fa2f40e6f5a563b9e3d104b6cb2b5e2673ea1553d38c75cbaf0eaa6afc798ae7e43973090a595b552c30f7df68f80,
    0xb9d9943eec935ad95dd38a46b6c64f29181d9e59baf57c9588d4a91b1525fdca776544b1ce4aded1e50b3da7f456779c7a50c46837aa64087d357971946c55af]
def testSignature : Nat := ofPieces
  [0x7a6673a7b72d1643d3ca988929627c908437e63711cb0eca1a62f48db5a953e391cd544924f01026a680a6d7f4ebbcecf4f1e7cd722639931e40bf1b3087792a,
    0xb005ab91ee6aca2fb033bb182efbe1f93b48e744a8caed879cdb72079a478fb828b89b8b20c1257cafd9f7a666023603c93b6f269ed7fc164cbe4c6cf59c42d8,
    0x0dd9b262495a48857ef0fd9b4ebb8a67ed39be76aaca5d4413f32ae0c0d3c4b1245f3e9b0010c412dc2bb6eb496be8ea5ff358b141aa2a96994a70582c9b9b47,
    0xf94859e49d53c4781a0dc7c9e47cd1aacf6f2dc0cfe0cd47d017b1e4d9c075956917fb4dc2d7aad09bf67fed42644a475555bb22d87973aa851b1979ac132568,
    0x71bf1cd8e168c40efb45e659156aafd8069ea1e1dfb35338baa048bbe987c0bd0fb86db33e239922a1f9ea34a1920c8cb8d3fe44b58739137fa9c470567dbe71,
    0x0660b96edf0bc194a7eff6013c6fc54da15768f15c1b1ae4cb6cde8bf05a1dbaa5f828f1ff40e59d1377e7e205957c416b6bf4fdbb3af767ac42edb478e4c14a]
def testKeyHash : Nat := 0x43a0ecfcde27670092b7ae0a9f2a2705223dd0db7247069350414fe5d9d7464de344f36ee450261d2e52c87c1b81a5f3
def emptyDigest : Nat := 0x38b060a751ac96384cd9327eb1b1e36a21fdb71114be07434c0cc7bf63f6e1da274edebfe76f65fbd51ad2f14898b95b
def testImage : List Byte :=
  leBytes 4 0x4855454D ++ leBytes 4 0 ++ leBytes 8 7 ++ leBytes 16 0 ++ beBytes 48 emptyDigest ++ beBytes 48 testKeyHash ++
    leBytes 384 testSignature ++ leBytes 384 testModulus

theorem image_accepted (h : Config.fuseKeyHash.toNat = testKeyHash) : imageAccepted testImage 0 = true := by
  unfold imageAccepted; rw [h]; decide +kernel

/-- A certificate of that key, its own root; 48 bytes as a measurement, and their signature by the key (from outside the model). -/
def testCert : GuestCert := { key := leBytes 384 testModulus, body := [], sig := [] }
def measuredSignature : Nat := ofPieces
  [0x1a70b375450f685a41f55e575fba04e2a28942ace7ef695486559ad9e6d39d559e9f23a2d548c60f8fb4f15028931fb85ce4321c5d69ef20e5772243492630bb,
    0xb00014aa5ce9e1d44d265801f286a953af4b034d607ed5f121d3c2d68cf677d2652b58268e7577ba3cb6f5f35575141b930cb5bb7389eed807322a8319c9af6c,
    0x51dddcd79b1b85f9d33f9ae4913f7c0d62b4ed0192c5fea7494fb8ef77ca32a5aa7ae65b55d45d4248019c13f3fe543cfe97855b263ec7533665d9e511150b03,
    0xda83d5525f5f58a48b6c697b94dbe35c8ce5a0f066cf568bfa1d11aa51f27c9189f67bc1008026ae74206b22b99978109ee7c288223dd319b75a7659608fbefe,
    0xe8229d4a3f377cb28c212dc24db7237d6b2b92f165497845b487861dd85f16299dcbdd31fc175a1516e9158469613fd2a9ec0e7c1018a5728f28d70d40a76535,
    0x9688102466e324d5d68cd94db7ec5a89505efbbe77abdfb901ba6fc8b52a62c89f7ac6a558ffe62026067ef75006869c031b9f573a068fb1397abd926662fc87]
def testIdentity : GuestIdentity :=
  { chain := [testCert], measurement := List.replicate 48 0, sig := leBytes 384 measuredSignature }

theorem identity_accepted {svn : Nat} (h : Config.guestTrusts svn (BitVec.ofNat 384 testKeyHash) = true) :
    identityAccepted testIdentity svn = true := by
  have k : beNat (sha384 testCert.key) = testKeyHash := by decide +kernel
  have c : certSigns testCert (List.replicate 48 0) (leBytes 384 measuredSignature) = true := by decide +kernel
  show (true && true && (Config.guestTrusts svn (BitVec.ofNat 384 (beNat (sha384 testCert.key))) && true &&
    certSigns testCert (List.replicate 48 0) (leBytes 384 measuredSignature))) = true
  rw [k, h, c]; rfl

def tested (dies : BitVec 2) (pairs : BitVec 8) (flash : List Byte) : SelfTest := { dieOk := dies, stackOk := pairs, guestOk := true, flash := flash }
def hostLine1 : HostLine := { pa := 0x100000000040, die := 1, old := List.replicate 64 3 }

/-- No image; and, in a module whose fuses hold the test key's hash, an image, with all in order and with one die and a whole pair of
stacks; host lines of a die, one and none; a die that is idle. -/
theorem witness_ModuleEvents :
    bootImage s0.fw.staged [] s0.fw.fuse = none ∧
      (Config.fuseKeyHash.toNat = testKeyHash → bootImage s0.fw.staged testImage s0.fw.fuse = some (imageHeader testImage) ∧
        (imageHeader testImage).flags % 2 = 0 ∧ (tested 3 0xFF testImage).dieOk = 3 ∧ (tested 3 0xFF testImage).stackOk = 0xFF ∧
        (tested 1 0x0C testImage).dieOk = 1 ∧ servicePairOf 0 0x0C = some 2) ∧
      ((∀ x ∈ s0.hostLines, x.die ≠ 1) ∧ ({ s0 with hostLines := [hostLine1] } : State).hostLines = [hostLine1] ∧ hostLine1.die = 1 ∧
        s0.lostLog.length < 256 ∧ State.reset.dieBusy 1 = false) :=
  ⟨by decide +kernel,
    fun h => ⟨by
        have e : s0.fw.staged = none := rfl
        have f : s0.fw.fuse = 0 := rfl
        rw [e, f]; simp [bootImage, image_accepted h], by decide +kernel, rfl, rfl, rfl, by decide⟩,
    by simp [with1, State.reset], rfl, rfl, by decide, by decide +kernel⟩


/-- The guest is on, PASID 1 assigned to it, with a translation of page 4, and lines it owns; the state without gangs. -/
def xlat4 : GuestXlat := { pasid := 1, page := 4, pfn := 4, w := true }
def guestState (owned : List Nat) : State :=
  { State.reset with
    mem := knotAt 0x60000 4 0 3 3 0 1 tables
    io := { State.reset.io with gsEn := true, gpas := vset State.reset.io.gpas 63 (BitVec.ofNat 64 (2 ^ 63 + 1)), fqctl := BitVec.ofNat 64 (2 ^ 63 + 12 * 2 ^ 32) }
    guest := { State.reset.guest with atc := [xlat4], owned := owned } }
def recordG : FaultRecord := { addr := 0x40000, src := 0, pasid := 1, reason := 2, acc := 0, skind := .guest, cls := 1 }
def guestRequest : OutRequest :=
  { tag := 20, peer := 0, pasid := 1, type := .physical, addr := 64, op := .read 8, src := .bus 5, guest := true }

theorem calmG : Calm (guestState []) :=
  ⟨by simp [guestState, State.reset], by rw [State.windows_congr (s := guestState []) rfl]; exact windows_reset rfl,
    by simp [guestState, State.reset], rfl, rfl⟩

/-- Translations, a read, an ownership and a write of the last byte of a line by the guest; its arrival; its record; the answers it owes;
each cause of a fence; and its reset. -/
theorem witness_GuestEvents :
    let s := guestState []
    let w := guestState [0x4FFC0]
    let x := xlatAt s none 0x40000 .load
    let k := s.knot 0x60000
    (s.guestOn = true ∧ w.guestOn = true ∧ s.io.gsFenced = false ∧ s.assigned 1 = true ∧ canonical 0x40000 = true ∧ (s.context 1).valid = true ∧
        s.walkFor none 1 (vaOf 0x40000) = .ok x ∧ x.kind < 2 ∧ x.leaf ||| 0x600 = x.leaf ∧ x.leaf.getLsbD 5 = false ∧
        s.walkFor none 1 (vaOf 0x4FFFF) = .ok (xlatAt s none 0x4FFFF .load) ∧
        (xlatAt s none 0x4FFFF .load).leaf ||| 0x600 = (xlatAt s none 0x4FFFF .load).leaf) ∧
      (s.guestXlat 1 0x4FFFF = some xlat4 ∧ xlat4.pfn * 65536 + (0x4FFFF : Word).toNat % 65536 = 0x4FFFF ∧ 0x4FFFF / 64 * 64 = 0x4FFC0 ∧
        (0x4FFC0 ∉ s.badLines) ∧ xlat4.w = true ∧ s.lineBusy 0x4FFFF = false ∧ (∀ g ∈ s.gangs, g.sig = [])) ∧
      (w.guest.owned = [0x4FFC0] ∧ (∀ g ∈ w.gangs, g.sig = []) ∧ w.windows = [] ∧ w.badLines = [] ∧
        (∀ y ∈ w.launches, ∀ i, i < 16 → (y.region i).state = .unmarked) ∧ ([7] : List Byte) ≠ [] ∧ 0x4FFFF % 64 + ([7] : List Byte).length ≤ 64 ∧
        0x4FFC0 % 64 = 0) ∧
      (Calm s ∧ s.handleAccess none 1 0x60000 32 = .ok (s, 0x60000) ∧ k.refusal 0x60000 1 = none ∧ k.flags / 2 % 2 = 1 ∧ 0 < k.exp ∧ k.head = 0) ∧
      (s.assigned recordG.pasid = true ∧ recordG.cls = 1 ∧ s.fqRoom (s.waitingRecords.length + 1) = true) ∧
      (let u := { s with guest := { s.guest with save := some (1, 0x70000, 4096) }, fw := { s.fw with current := some box } }
       u.guest.save = some (1, 0x70000, 4096) ∧ ([7] : List Byte).length ≤ 4096 ∧ Calm u ∧ u.fw.current = some box ∧ box.recPA % 64 = 0 ∧ u.io.gsFenced = false) ∧
      (let u := { s with guest := { s.guest with invalidation := some (1, 0x40000, 1) } }
       u.guest.invalidation = some (1, 0x40000, 1) ∧ u.io.gsFenced = false) ∧
      (let u := { s with out := [guestRequest] }
       u.out.find? (fun r => r.tag == guestRequest.tag && r.guest) = some guestRequest ∧ guestRequest.src = .bus 5 ∧
         guestRequest.op = .read (List.replicate 8 (0 : Byte)).length ∧ guestRequest.op = .read ((List.replicate 7 (0 : Byte)).length + 1)) ∧
      (let u := { s with guest := { s.guest with shared := [0x40000] } }
       u.guestOn = true ∧ 0x40000 % 64 = 0 ∧ 0x40000 ∈ u.guest.shared) ∧
      (s.fw.guestSite = true ∧ s.fw.reduced = false ∧ s.out.filter (·.guest) = [] ∧ s.guest.save = none ∧
        (Config.guestTrusts s.fw.svn (BitVec.ofNat 384 testKeyHash) = true → identityAccepted testIdentity s.fw.svn = true) ∧
        identityAccepted { testIdentity with chain := [] } s.fw.svn = false ∧
        identityAccepted { testIdentity with chain := List.replicate 5 testCert } s.fw.svn = false) := by
  refine ⟨by decide +kernel, by decide +kernel, ⟨rfl, by decide +kernel⟩,
    ⟨calmG, handle_of (x := xlatAt (guestState []) none 0x60000 .store) (by decide +kernel) (by decide +kernel) rfl, by decide +kernel⟩,
    by decide +kernel, ⟨rfl, by decide, ⟨calmG.1, windows_reset (s := guestState []) rfl, calmG.3, rfl, rfl⟩, rfl, by decide, rfl⟩, ⟨rfl, rfl⟩,
    ⟨rfl, rfl, by decide, by decide⟩, by decide +kernel, by decide +kernel, rfl, rfl, rfl, identity_accepted, rfl, rfl⟩


/-- The end of an instruction of a stream of one gang. -/
theorem witness_CompletionFrame : s0.stream? stream0.sid = some stream0 ∧ stream0.homes = [g0.idx] ∧ s0.gang? stream0.launch g0.idx = some g0 :=
  ⟨rfl, by decide +kernel, rfl⟩

/-- An instruction of each length; words of R25, R28 and R41 that decode; eight bytes. -/
theorem witness_DecodeEncode :
    (∀ i ∈ [Instr.nop, .kjoin (kw 0 0x16 0x18 true), .iadd16 (half 0x15 10 true)], i.wf = true ∧ encode i ≠ []) ∧
      decode [0, 0] = .instr .nop 2 ∧ decode (leBytes 4 0x000401BD) = .instr (.trap { h := false, a := 0, imm := 1 }) 4 ∧
      8 ≤ (List.replicate 8 (0xFF : Byte)).length := by decide +kernel

/-- A stream at its turn whose line is in the buffer, a NOP or a reserved word; or is not, and lies in zeros. -/
def turnState (lines : List FetchedLine) : State := { s0 with turn := true, ibuf := lines }
def lineAt (first : Byte) : FetchedLine := { core := 0, launch := 1, va := 0x100000, bytes := first :: List.replicate 63 0 }
theorem witness_StepRunsDecodedInstruction :
    let ticked := fun (s : State) =>
      { s with ticks := s.ticks + 1, clock := s.clock + 1 + BitVec.ofNat 64 (Config.freeClocks s.ticks), turn := !s.turn }
    (let s : State := { s0 with agenda := [.nop] }
     (ticked s).dueWindows = [] ∧ (∀ g ∈ s.gangs, g.bad = false) ∧ (ticked s).forced.agenda = .nop :: []) ∧
      (∀ ls ∈ [[], [lineAt 0], [lineAt 2]], let s := turnState ls
        let now := (ticked s).forced
        (ticked s).dueWindows = [] ∧ (∀ g ∈ s.gangs, g.bad = false) ∧ now = ticked s ∧
          now.agenda = [] ∧ s.turn = true ∧ now.nextStream = some stream0 ∧ now.report? stream0 = false ∧ stream0.spin.count < 16 ∧
          now.streamCore stream0 = some 0) ∧
      decode ((ticked (turnState [lineAt 0])).codeBytes stream0 0 stream0.pc) = .instr .nop 2 ∧
      decode ((ticked (turnState [lineAt 2])).codeBytes stream0 0 stream0.pc) = .illegal 2 2 ∧
      (let s := ticked (turnState [])
       let x := xlat s stream0.pc .fetch
       Calm s ∧ canonical stream0.pc = true ∧ s.fetched 0 1 (lineOf (vaOf stream0.pc)) = none ∧ (vaOf stream0.pc) % 64 ≤ 56 ∧
         s.translate (some 0) (s.pasidOf 1) (lineOf (vaOf stream0.pc)) .fetch = .ok x ∧
         decode (s.mem.read (x.pa / 64 * 64 + vaOf stream0.pc % 64) (64 - vaOf stream0.pc % 64)) = .instr .nop 2) := by
  refine ⟨⟨rfl, by decide +kernel, rfl⟩, ?_, by decide +kernel, by decide +kernel, calm_of (by decide +kernel), by decide +kernel⟩
  intro ls h
  simp only [List.mem_cons, List.not_mem_nil, or_false] at h
  rcases h with rfl | rfl | rfl <;> exact ⟨rfl, by decide +kernel, rfl, rfl, rfl, rfl, by decide +kernel, by decide, rfl⟩

/-- A step from reset, and one of a stream. -/
theorem witness_StepKeepsInv : ∀ s ∈ [State.reset, turnState []], s.Inv ∧ ∃ s', step s = .next s' := by
  have next : ∀ o : Out, (match o with
      | .next _ => true
      | _ => false) = true → ∃ s', o = .next s' := fun o h => by
    cases o with
    | next s' => exact ⟨s', rfl⟩
    | _ => simp at h
  intro s h
  simp only [List.mem_cons, List.not_mem_nil, or_false] at h
  rcases h with rfl | rfl <;> exact ⟨by unfold State.Inv; decide +kernel, next _ (by decide +kernel)⟩

end Sys2Proof.Tests
end

section
/-! SUPPORT. Every operation of the machine keeps memory's canonical form (`Memory.wf`), and so does a step (O59).

Memory is written in three places only: a line's store (`State.storeLine`), a host's snoop and a fatal reset, and there by `Memory.set` and
`Memory.write`, which keep the form (`Memory.wf_set`, `Memory.wf_write`). Every other operation composes operations. So each has one lemma,
in the model's order: `wf_f` says that `f` leaves memory in the form when it finds it so, and its proof unfolds `f` alone and cites the
lemmas of what `f` calls. An update of other fields is `h` itself. Where `f` branches, `grind` splits the branches and ends each by the
lemmas named (without its solver of linear arithmetic, which no branch needs). Where `f` folds, recurses or takes another operation as an
argument, the fold's lemma, the induction or the case split is written out. -/

namespace Sys2Proof.Machine

/-- Memory is in the canonical form in the state that a step leaves, if it leaves one. -/
def Out.wf (o : Out) : Bool :=
  match o with
  | .next s => s.mem.wf
  | .fault _ | .refused _ => true

/-- The same of a write that a region may have to log. -/
def Logged.wf (r : Logged) : Bool :=
  match r with
  | .ok s | .refused s _ _ => s.mem.wf

/-- The same of an engine's knot arrival. -/
def Arrival.wf (r : Arrival) : Bool :=
  match r with
  | .done s | .refused s => s.mem.wf
  | .fault _ | .held => true

/-- The same of an instruction's effect. -/
def Res.wf (r : Res) : Bool :=
  match r with
  | .done s | .io s | .moved s | .raise s _ _ _ | .miss s _ | .again s _ | .park s _ => s.mem.wf
  | .trap _ _ _ | .trapNext _ _ | .fault _ _ _ _ _ | .drain => true

/-- The same of one lane's access. -/
def Served.wf (r : Served) : Bool :=
  match r with
  | .done s _ | .ask s _ => s.mem.wf
  | .stop r => r.wf

/-- The same of a fabric request's lines. -/
def Performed.wf (r : Performed) : Bool :=
  match r with
  | .done s _ | .refused s _ => s.mem.wf
  | .held => true

/-- The same of a line's fetch. -/
def Fetch.wf (r : Fetch) : Bool :=
  match r with
  | .line s | .ended s => s.mem.wf

/-- The same of a word's fetch. -/
def Ready.wf (r : Ready) : Bool :=
  match r with
  | .word s _ | .ended s => s.mem.wf

/-- The same of the search for a line that no region can log: the state, or the state and the refusal. -/
def loggedAllWf {α : Type} (r : State ⊕ (State × α)) : Bool :=
  match r with
  | .inl s => s.mem.wf
  | .inr x => x.1.mem.wf

/-- The same of the lanes' translations. -/
def sitesWf (r : Except Res (List Reach)) : Bool :=
  match r with
  | .error r => r.wf
  | .ok _ => true

/-- The same of the lanes' translations and the state that they leave. -/
def reachedWf (r : Except Res (State × List Reach)) : Bool :=
  match r with
  | .error r => r.wf
  | .ok x => x.1.mem.wf

/-- An event of the machine keeps the canonical form. -/
def Keeps (e : State → Out) : Prop := ∀ s : State, s.mem.wf → Out.wf (e s)

/-- What every element's step keeps, a fold keeps. -/
theorem foldl_keeps {σ α : Type} {P : σ → Prop} {f : σ → α → σ} (step : ∀ s a, P s → P (f s a)) :
    ∀ (l : List α) {s : σ}, P s → P (l.foldl f s)
  | [], _, h => h
  | a :: l, s, h => foldl_keeps step l (step s a h)

theorem Memory.wf_foldl_set (l : List Host.Cell) {m : Memory} (h : m.wf) : (l.foldl (fun m c => m.set c.1 c.2) m).wf :=
  foldl_keeps (P := fun m : Memory => m.wf) (fun _ c => Memory.wf_set c.1 c.2) l h

theorem wf_foldl {α : Type} {f : State → α → State} (step : ∀ s a, s.mem.wf → (f s a).mem.wf) (l : List α) {s : State} (h : s.mem.wf) :
    (l.foldl f s).mem.wf := foldl_keeps (P := fun s : State => s.mem.wf) step l h

theorem wf_foldl_fst {α β : Type} {f : State × β → α → State × β} (step : ∀ r a, r.1.mem.wf → (f r a).1.mem.wf) (l : List α)
    {r : State × β} (h : r.1.mem.wf) : (l.foldl f r).1.mem.wf := foldl_keeps (P := fun r : State × β => r.1.mem.wf) step l h

theorem Logged.wf_foldl {α : Type} {f : Logged → α → Logged} (step : ∀ r a, r.wf → (f r a).wf) (l : List α) {r : Logged} (h : r.wf) :
    (l.foldl f r).wf := foldl_keeps (P := fun r : Logged => r.wf) step l h

theorem loggedAllWf_foldl {α β : Type} {f : State ⊕ (State × β) → α → State ⊕ (State × β)}
    (step : ∀ r a, loggedAllWf r → loggedAllWf (f r a)) (l : List α) {r : State ⊕ (State × β)} (h : loggedAllWf r) :
    loggedAllWf (l.foldl f r) := foldl_keeps (P := fun r => loggedAllWf r) step l h

theorem EngineRes.wf_foldl {α β : Type} {f : EngineRes β → α → EngineRes β} (step : ∀ r a, r.state.mem.wf → (f r a).state.mem.wf)
    (l : List α) {r : EngineRes β} (h : r.state.mem.wf) : (l.foldl f r).state.mem.wf :=
  foldl_keeps (P := fun r : EngineRes β => r.state.mem.wf) step l h

theorem Performed.wf_foldl {α : Type} {f : Performed → α → Performed} (step : ∀ r a, r.wf → (f r a).wf) (l : List α) {r : Performed}
    (h : r.wf) : (l.foldl f r).wf := foldl_keeps (P := fun r : Performed => r.wf) step l h

theorem keeps_singleton {e : State → Out} (h : Keeps e) : ∀ ev ∈ [e], Keeps ev := by
  simpa using h

variable {s : State}

theorem wf_getD {o : Option State} (ho : o.all (·.mem.wf)) (h : s.mem.wf) : (o.getD s).mem.wf := by
  cases o with
  | none => exact h
  | some t => exact ho

theorem EngineRes.wf_of_ok {α : Type} {r : EngineRes α} {x : α} (e : r = .ok s x) (h : r.state.mem.wf) : s.mem.wf := by
  subst e
  exact h

theorem wf_of_fst_eq {α : Type} {p : State × α} {b : α} (e : p = (s, b)) (h : p.1.mem.wf) : s.mem.wf := by
  subst e
  exact h

/-! ### The updates of the lists that the state holds (`Machine/Mem`). -/

theorem State.wf_updGang {l k : Nat} {f : Gang → Gang} (h : s.mem.wf) : (s.updGang l k f).mem.wf := h

theorem State.wf_updStream {sid : Nat} {f : Stream → Stream} (h : s.mem.wf) : (s.updStream sid f).mem.wf := h

theorem State.wf_updLaunch {l : Nat} {f : Launch → Launch} (h : s.mem.wf) : (s.updLaunch l f).mem.wf := h

theorem State.wf_updSplice {l i : Nat} {f : Splice → Splice} (h : s.mem.wf) : (s.updSplice l i f).mem.wf := h

theorem State.wf_updQueue {pasid hdr : Nat} {f : MemQueue → MemQueue} (h : s.mem.wf) : (s.updQueue pasid hdr f).mem.wf := h

theorem State.wf_updHwq {pasid desc : Nat} {f : HwQueue → HwQueue} (h : s.mem.wf) : (s.updHwq pasid desc f).mem.wf := h

theorem State.wf_updPlan {h : Nat} {f : Plan → Plan} (hs : s.mem.wf) : (s.updPlan h f).mem.wf := hs

theorem State.wf_updBucket {h n : Nat} {f : Bucket → Bucket} (hs : s.mem.wf) : (s.updBucket h n f).mem.wf := hs

/-! ### Counters, caches, directories and the watch table (`Machine/Cache`). -/

theorem State.wf_interrupt {v : IrqVector} {cause : IrqCause} (h : s.mem.wf) : (s.interrupt v cause).mem.wf := h

theorem State.wf_count {bank ev pasid n : Nat} (h : s.mem.wf) : (s.count bank ev pasid n).mem.wf := h

theorem State.wf_countCore {core : Option Nat} {ev pasid n : Nat} (h : s.mem.wf) : (s.countCore core ev pasid n).mem.wf := by
  unfold State.countCore
  grind -linarith [State.wf_count]

theorem State.wf_countHub {pasid : Nat} (h : s.mem.wf) : (s.countHub pasid).mem.wf := h

theorem State.wf_snapTrigger {src : Nat} (h : s.mem.wf) : (s.snapTrigger src).mem.wf := by
  unfold State.snapTrigger
  grind -linarith

theorem State.wf_touchWatch {die : Option Nat} {hit : Stream → LinePlace → Bool} (h : s.mem.wf) : (s.touchWatch die hit).mem.wf := h

theorem State.wf_wakeDie {die : Nat} (h : s.mem.wf) : (s.wakeDie die).mem.wf := h

theorem State.wf_dropL1 {cores : Nat → Bool} {pa : Nat} (h : s.mem.wf) : (s.dropL1 cores pa).mem.wf := h

theorem State.wf_dropL2 {die pa : Nat} (h : s.mem.wf) : (s.dropL2 die pa).mem.wf := h

theorem State.wf_evictL2 {die pa : Nat} (h : s.mem.wf) : (s.evictL2 die pa).mem.wf := h

theorem State.wf_putWay {die pa way : Nat} {st : L2State} (h : s.mem.wf) : (s.putWay die pa way st).mem.wf := h

theorem State.wf_fillWay {u : Filler} {pa : Nat} {st : L2State} (h : s.mem.wf) : (s.fillWay u pa st).mem.wf := by
  unfold State.fillWay
  grind -linarith [State.wf_putWay, State.wf_evictL2]

theorem State.wf_putL2 {u : Filler} {pa : Nat} {st : L2State} (h : s.mem.wf) : (s.putL2 u pa st).mem.wf := by
  unfold State.putL2
  grind -linarith [State.wf_fillWay]

theorem State.wf_missL2 {u : Filler} {pa : Nat} (h : s.mem.wf) : (s.missL2 u pa).mem.wf := by
  unfold State.missL2
  grind -linarith [State.wf_count]

theorem State.wf_shareOut {pa : Nat} (h : s.mem.wf) : (s.shareOut pa).mem.wf := h

theorem State.wf_readL2 {die pasid pa : Nat} (h : s.mem.wf) : (s.readL2 die pasid pa).mem.wf := by
  unfold State.readL2
  grind -linarith [State.wf_missL2, State.wf_shareOut, State.wf_putL2]

theorem State.wf_tileRead {core pasid : Nat} {lines : List Nat} (h : s.mem.wf) : (s.tileRead core pasid lines).mem.wf := by
  unfold State.tileRead
  grind -linarith [State.wf_count]

theorem State.wf_evictL1 {core pa : Nat} (h : s.mem.wf) : (s.evictL1 core pa).mem.wf := h

theorem State.wf_readL1 {core pasid pa : Nat} (h : s.mem.wf) : (s.readL1 core pasid pa).mem.wf := by
  unfold State.readL1
  grind -linarith [State.wf_readL2, State.wf_evictL1]

theorem State.wf_enterWatch {core : Option Nat} {pasid sid : Nat} {w : Wait} (h : s.mem.wf) :
    (s.enterWatch core pasid sid w).mem.wf := by
  unfold State.enterWatch
  grind -linarith [State.wf_updStream, State.wf_readL2, State.wf_count, wf_foldl]

theorem State.wf_trimL1 {core : Nat} (h : s.mem.wf) : (s.trimL1 core).mem.wf := wf_foldl (fun _ _ => State.wf_evictL1) _ h

theorem State.wf_ownLine {by' : Option Filler} {core : Option Nat} {pa : Nat} (h : s.mem.wf) : (s.ownLine by' core pa).mem.wf := by
  unfold State.ownLine
  grind -linarith [State.wf_dropL1, State.wf_missL2, State.wf_putL2]

theorem State.wf_invalidateLines {hit : Nat → Bool} (h : s.mem.wf) : (s.invalidateLines hit).mem.wf := h

/-! ### Rollback, writes of lines and the logs of regions (`Machine/Visible`). -/

theorem State.wf_rewind {t : Stream} (h : s.mem.wf) : (s.rewind t).mem.wf := by
  unfold State.rewind
  grind -linarith [State.wf_countCore, State.wf_updStream]

theorem State.wf_countReused {g : Gang} (h : s.mem.wf) : (s.countReused g).mem.wf := by
  unfold State.countReused
  grind -linarith [State.wf_countCore]

theorem State.wf_rollbackHome {l k : Nat} {ts : List Stream} (h : s.mem.wf) : (s.rollbackHome l k ts).mem.wf := by
  unfold State.rollbackHome
  grind -linarith [State.wf_countReused, State.wf_updGang]

theorem State.wf_rollbackStreams {ts : List Stream} (h : s.mem.wf) : (s.rollbackStreams ts).mem.wf :=
  wf_foldl (fun _ _ => State.wf_rewind) _ (wf_foldl (fun _ _ => State.wf_rollbackHome) _ h)

theorem State.wf_rollbackStream {t : Stream} (h : s.mem.wf) : (s.rollbackStream t).mem.wf := State.wf_rollbackStreams h

theorem State.wf_rollbackGang {l k : Nat} (h : s.mem.wf) : (s.rollbackGang l k).mem.wf := State.wf_rollbackStreams h

theorem State.wf_testSignatures {writer : Option Writer} {hit : Gang → LinePlace → Bool} (h : s.mem.wf) :
    (s.testSignatures writer hit).mem.wf :=
  wf_foldl (fun _ _ => State.wf_rollbackGang) _ h

theorem State.wf_testDropped (h : s.mem.wf) : s.testDropped.mem.wf := State.wf_testSignatures h

/-- The one write that every store, engine, log and table update makes (log 2). -/
theorem State.wf_storeLine {writer : Option Writer} {by' : Option Filler} {whole : Bool} {cells : List Host.Cell} (h : s.mem.wf) :
    (s.storeLine writer by' whole cells).mem.wf := by
  unfold State.storeLine
  split
  · exact h
  · refine State.wf_testSignatures (State.wf_touchWatch ?_)
    split
    · exact Memory.wf_foldl_set _ (State.wf_ownLine h)
    · exact State.wf_invalidateLines (Memory.wf_foldl_set _ (State.wf_ownLine h))

theorem State.wf_takeLine {writer : Option Writer} {by' : Filler} {pa : Nat} (h : s.mem.wf) : (s.takeLine writer by' pa).mem.wf :=
  State.wf_testSignatures (State.wf_ownLine h)

theorem State.wf_storeRaw {a : Nat} {bytes : List Byte} (h : s.mem.wf) : (s.storeRaw a bytes).mem.wf :=
  wf_foldl (fun _ _ => State.wf_storeLine) _ h

theorem State.wf_writeLog {r : Region} {va : Nat} {bytes : List Byte} (h : s.mem.wf) : (s.writeLog r va bytes).mem.wf :=
  wf_foldl (fun _ _ => State.wf_storeLine) _ h

theorem State.wf_setRegion {l i : Nat} {r : Region} (h : s.mem.wf) : (s.setRegion l i r).mem.wf :=
  State.wf_writeLog (State.wf_updLaunch h)

theorem State.wf_logIn {l i : Nat} {r : Region} {va pa : Nat} (h : s.mem.wf) : (s.logIn l i r va pa).wf := by
  unfold State.logIn
  grind -linarith [Logged.wf, State.wf_setRegion, State.wf_writeLog]

theorem State.wf_logLine {pa : Nat} (h : s.mem.wf) : (s.logLine pa).wf := by
  refine Logged.wf_foldl (fun r x hr => ?_) _ h
  cases r with
  | ok s => exact State.wf_logIn hr
  | refused s i va => exact hr

theorem State.wf_logLines {pas : List Nat} (h : s.mem.wf) : (s.logLines pas).wf := by
  refine Logged.wf_foldl (fun r pa hr => ?_) _ h
  cases r with
  | ok s => exact State.wf_logLine hr
  | refused s i va => exact hr

theorem State.wf_storeLogged {by' : Option Filler} {a : Nat} {bytes : List Byte} (h : s.mem.wf) : (s.storeLogged by' a bytes).wf := by
  refine Logged.wf_foldl (fun r g hr => ?_) _ h
  cases r with
  | ok s => grind -linarith [Logged.wf, State.wf_logLine, State.wf_storeLine]
  | refused s i va => exact hr

theorem State.wf_storeHw {pasid a : Nat} {bytes : List Byte} (h : s.mem.wf) : (s.storeHw pasid a bytes).mem.wf := by
  unfold State.storeHw
  grind -linarith [Logged.wf, State.wf_storeLogged, State.wf_countHub]

theorem State.wf_countDecode {w : Win} {k pasid : Nat} (h : s.mem.wf) : (s.countDecode w k pasid).mem.wf := by
  unfold State.countDecode
  grind -linarith [State.wf_count]

theorem State.wf_fillAlias {die pasid pa : Nat} (h : s.mem.wf) : (s.fillAlias die pasid pa).mem.wf := by
  unfold State.fillAlias
  grind -linarith [State.wf_readL2, State.wf_countDecode]

theorem State.wf_fillLine {core pasid pa : Nat} (h : s.mem.wf) : (s.fillLine core pasid pa).mem.wf := by
  unfold State.fillLine
  grind -linarith [State.wf_readL1, State.wf_fillAlias]

theorem State.wf_aliasStore {writer : Option Writer} {pasid : Nat} {w : Win} {k : Nat} {cells : List Host.Cell} (h : s.mem.wf) :
    (s.aliasStore writer pasid w k cells).wf := by
  unfold State.aliasStore
  grind -linarith [Logged.wf, State.wf_countDecode, State.wf_count, State.wf_logLines, State.wf_storeLine, wf_foldl]

/-! ### Walks and TLBs (`Machine/Translate`). -/

theorem State.wf_cacheWalk {die : Option Nat} {pasid root va : Nat} (h : s.mem.wf) : (s.cacheWalk die pasid root va).mem.wf := by
  unfold State.cacheWalk
  grind -linarith

theorem State.wf_markLeaf {x : Xlat} {acc : Access} (h : s.mem.wf) : (s.markLeaf x acc).mem.wf := by
  unfold State.markLeaf
  grind -linarith [State.wf_storeRaw]

theorem State.wf_noteHint {x : Xlat} {pasid : Nat} (h : s.mem.wf) : (s.noteHint x pasid).mem.wf := by
  unfold State.noteHint
  grind -linarith [State.wf_countHub]

theorem State.wf_engineAccess {pasid : Nat} {a : Word} {acc : Access} {die : Option Nat} (h : s.mem.wf) :
    ∀ t x, s.engineAccess pasid a acc die = .ok (t, x) → t.mem.wf := by
  unfold State.engineAccess
  grind -linarith [State.wf_cacheWalk, State.wf_markLeaf, State.wf_noteHint]

theorem State.wf_putTlb {e : TlbEntry} (h : s.mem.wf) : (s.putTlb e).mem.wf := h

theorem State.wf_installTlb {core : Nat} {e : TlbEntry} (h : s.mem.wf) : (s.installTlb core e).mem.wf := h

theorem State.wf_touchTlb {core : Option Nat} {pasid va : Nat} {acc : Access} (h : s.mem.wf) :
    (s.touchTlb core pasid va acc).mem.wf := by
  unfold State.touchTlb
  grind -linarith [State.wf_putTlb]

theorem State.wf_joinMiss {die pasid sid va : Nat} {acc : Access} (h : s.mem.wf) : (s.joinMiss die pasid sid va acc).mem.wf := by
  unfold State.joinMiss
  grind -linarith

/-! ### The store buffer and commit (`Machine/Stores`). -/

theorem State.wf_addRecord {r : FaultRecord} {target : FaultTarget} (h : s.mem.wf) : (s.addRecord r target).mem.wf := by
  unfold State.addRecord
  grind -linarith [State.wf_countHub]

theorem State.wf_lineError {r : FaultRecord} {line : Nat} (h : s.mem.wf) : (s.lineError r line).mem.wf := by
  unfold State.lineError
  grind -linarith [State.wf_addRecord]

theorem State.wf_mapStores {t : Stream} {f : List StoreEntry → List StoreEntry} (h : s.mem.wf) : (s.mapStores t f).mem.wf :=
  wf_foldl (fun _ _ => State.wf_updGang) _ h

theorem State.wf_dropStores {t : Stream} {k cause : Nat} {info : Word} (h : s.mem.wf) : (s.dropStores t k cause info).mem.wf :=
  State.wf_updGang (State.wf_mapStores h)

theorem State.wf_storeScratch {l sp : Nat} {writer : Option Writer} {whole : Bool} {cells : List Host.Cell} (h : s.mem.wf) :
    (s.storeScratch l sp writer whole cells).mem.wf := by
  unfold State.storeScratch
  grind -linarith [State.wf_updSplice, State.wf_touchWatch, State.wf_testSignatures, wf_foldl]

theorem State.wf_logStores {es : List (Nat × StoreEntry)} (h : s.mem.wf) : loggedAllWf (s.logStores es) := by
  refine loggedAllWf_foldl (fun r x hr => loggedAllWf_foldl (fun r pa hr => ?_) _ hr) _ h
  cases r with
  | inl s => grind -linarith [Logged.wf, loggedAllWf, State.wf_logLine]
  | inr x => exact hr

theorem State.wf_spoil {pasid va : Nat} (h : s.mem.wf) : (s.spoil pasid va).mem.wf := by
  unfold State.spoil
  grind -linarith

theorem State.wf_waitRow {sid : Nat} (h : s.mem.wf) : (s.waitRow sid).mem.wf := h

theorem State.wf_storeStep {t : Stream} (h : s.mem.wf) : (s.storeStep t).mem.wf := by
  unfold State.storeStep
  dsimp only
  split
  · exact h
  · split
    · exact h
    · split
      · split
        · exact State.wf_waitRow h
        · exact wf_foldl (fun _ _ => State.wf_storeScratch) _ (State.wf_mapStores h)
      · split
        · exact h
        · split
          · next s' _ _ _ _ e => exact State.wf_dropStores (show loggedAllWf (.inr (s', _)) from e ▸ State.wf_logStores h)
          · next s' e =>
            have hs : s'.mem.wf := show loggedAllWf (α := Nat × Nat × Nat × Nat) (.inl s') from e ▸ State.wf_logStores h
            split
            · split
              · split
                · exact State.wf_storeLine (State.wf_mapStores hs)
                · exact State.wf_countHub (State.wf_dropStores hs)
              · exact State.wf_mapStores hs
            · split
              · exact State.wf_mapStores hs
              · split
                · next e => exact State.wf_mapStores (show Logged.wf (.ok _) from e ▸ State.wf_aliasStore hs)
                · next e => exact State.wf_dropStores (show Logged.wf (.refused _ _ _) from e ▸ State.wf_aliasStore hs)
            · refine wf_foldl (fun s x hs => ?_) _ (State.wf_mapStores hs)
              split
              · exact State.wf_spoil (State.wf_storeLine hs)
              · exact State.wf_storeLine hs

theorem State.wf_clearSignatures {t : Stream} (h : s.mem.wf) : (s.clearSignatures t).mem.wf := by
  unfold State.clearSignatures
  grind -linarith [State.wf_updGang, wf_foldl]

theorem State.wf_commitStep {t : Stream} (h : s.mem.wf) : (s.commitStep t).mem.wf := by
  unfold State.commitStep
  grind -linarith [State.wf_updGang, State.wf_updStream, State.wf_countCore, State.wf_clearSignatures, wf_foldl]

theorem State.wf_drainStep {t : Stream} (h : s.mem.wf) : (s.drainStep t).mem.wf := by
  unfold State.drainStep
  grind -linarith [State.wf_storeStep, State.wf_commitStep]

/-! ### Knot records and their waiters (`Machine/KnotOps`). -/

theorem State.wf_putKnot {writer : Option Writer} {by' : Filler} {pa : Nat} {k : Knot} (h : s.mem.wf) :
    (s.putKnot writer by' pa k).wf := by
  unfold State.putKnot
  grind -linarith [Logged.wf, State.wf_logLine, State.wf_storeLine]

theorem State.wf_releaseAll {pasid : Nat} {handle : Word} {gen : Nat} (h : s.mem.wf) : (s.releaseAll pasid handle gen).mem.wf := h

theorem State.wf_wakeList {pasid : Nat} {handle : Word} {gen n : Nat} {va : Word} (h : s.mem.wf) :
    (s.wakeList pasid handle gen n va).mem.wf := by
  induction n generalizing s va with
  | zero => exact State.wf_releaseAll h
  | succ n ih =>
    unfold State.wakeList
    grind -linarith [State.wf_releaseAll, State.wf_updStream, State.wf_engineAccess, State.wf_storeHw]

theorem State.wf_settleKnot {writer : Option Writer} {by' : Filler} {handle : Word} {pa : Nat} {k : Knot} (h : s.mem.wf) :
    (s.settleKnot writer by' handle pa k).1.wf := by
  unfold State.settleKnot
  grind -linarith [Logged.wf, State.wf_putKnot, State.wf_wakeList]

theorem State.wf_handleAccess {core : Option Nat} {pasid : Nat} {h : Word} {align : Nat} (hs : s.mem.wf) :
    ∀ t x, s.handleAccess core pasid h align = .ok (t, x) → t.mem.wf := by
  unfold State.handleAccess
  grind -linarith [State.wf_noteHint, State.wf_touchTlb, State.wf_markLeaf]

theorem State.wf_countAt {core : Option Nat} {pasid : Nat} (h : s.mem.wf) : (s.countAt core pasid).mem.wf := by
  unfold State.countAt
  grind -linarith [State.wf_count, State.wf_countHub]

theorem State.wf_leaveKnot {core : Option Nat} {l : Nat} {m : Member} (h : s.mem.wf) : (s.leaveKnot core l m).all (·.mem.wf) := by
  unfold State.leaveKnot
  grind -linarith [Logged.wf, State.wf_handleAccess, State.wf_countAt, State.wf_settleKnot]

theorem State.wf_leaveAll {g : Gang} (h : s.mem.wf) : (s.leaveAll g).mem.wf := by
  refine wf_foldl_fst (fun r i hr => ?_) _ h
  grind -linarith [State.wf_leaveKnot, State.wf_updGang]

theorem State.wf_unlinkFrom {pasid : Nat} {va : Word} {n n' : Nat} (h : s.mem.wf) : (s.unlinkFrom pasid va n n').mem.wf := by
  induction n generalizing s n' with
  | zero => exact h
  | succ n ih =>
    unfold State.unlinkFrom
    grind -linarith [State.wf_engineAccess, State.wf_storeHw]

theorem State.wf_unlinkWaiter {g : Gang} {t : Stream} (h : s.mem.wf) : (s.unlinkWaiter g t).all (·.mem.wf) := by
  unfold State.unlinkWaiter
  grind -linarith [State.wf_updStream, State.wf_handleAccess, State.wf_unlinkFrom]

theorem State.wf_unlinkWaiters {g : Gang} (h : s.mem.wf) : (s.unlinkWaiters g).mem.wf :=
  wf_foldl (fun _ _ hs => wf_getD (State.wf_unlinkWaiter hs) hs) _ h

theorem State.wf_engineArrive {pasid : Nat} {h : Word} (hs : s.mem.wf) : (s.engineArrive pasid h).wf := by
  unfold State.engineArrive
  grind -linarith [Arrival.wf, Logged.wf, State.wf_handleAccess, State.wf_countHub, State.wf_settleKnot]

/-! ### How an instruction ends, and traps (`Machine/Ops`). -/

theorem State.wf_settle {t : Stream} (h : s.mem.wf) : (s.settle t).mem.wf := by
  unfold State.settle
  grind -linarith [State.wf_countCore, State.wf_updGang, wf_foldl]

theorem State.wf_retag {l k old new : Nat} (h : s.mem.wf) : (s.retag l k old new).mem.wf := h

theorem State.wf_joinRaces {l k : Nat} (h : s.mem.wf) : (s.joinRaces l k).mem.wf := by
  unfold State.joinRaces
  grind -linarith [State.wf_updGang]

theorem State.wf_splitParts {t : Stream} (h : s.mem.wf) : (s.splitParts t).mem.wf := by
  unfold State.splitParts
  grind -linarith [State.wf_updStream, State.wf_updSplice, State.wf_retag, wf_foldl]

theorem State.wf_flushCommitted {t : Stream} (h : s.mem.wf) : (s.flushCommitted t).mem.wf := by
  unfold State.flushCommitted
  grind -linarith [State.wf_storeStep, wf_foldl]

theorem State.wf_loseAnswer {t : Stream} (h : s.mem.wf) : (s.loseAnswer t).mem.wf := h

theorem State.wf_reapGang {g : Gang} (h : s.mem.wf) : (s.reapGang g).mem.wf := by
  unfold State.reapGang
  grind -linarith [State.wf_unlinkWaiters, State.wf_leaveAll, State.wf_countCore]

theorem State.wf_reapLaunch {l : Nat} (h : s.mem.wf) : (s.reapLaunch l).mem.wf := by
  unfold State.reapLaunch
  grind -linarith [State.wf_reapGang, wf_foldl]

theorem State.wf_killGang {g : Gang} (h : s.mem.wf) : (s.killGang g).mem.wf := by
  unfold State.killGang
  grind -linarith [State.wf_unlinkWaiters, State.wf_rollbackGang, State.wf_updGang, State.wf_countReused, State.wf_updStream,
    State.wf_loseAnswer, State.wf_flushCommitted, wf_foldl]

theorem State.wf_abortLaunch {l k cause : Nat} {tpc : Word} (h : s.mem.wf) : (s.abortLaunch l k cause tpc).mem.wf := by
  unfold State.abortLaunch
  grind -linarith [State.wf_killGang, State.wf_updLaunch, State.wf_addRecord, State.wf_reapLaunch, wf_foldl]

theorem State.wf_stopStream {t : Stream} (h : s.mem.wf) : (s.stopStream t).mem.wf := State.wf_updStream (State.wf_rollbackStream h)

theorem State.wf_takeTrap {l k sid cause : Nat} {info tpc : Word} {force : Bool} (h : s.mem.wf) :
    (s.takeTrap l k sid cause info tpc force).mem.wf := by
  unfold State.takeTrap
  grind -linarith [State.wf_abortLaunch, State.wf_splitParts, State.wf_stopStream, State.wf_updGang, State.wf_updStream, wf_foldl]

theorem State.wf_raiseTrap {t : Stream} {gangs : List Nat} {cause : Nat} {info tpc : Word} (h : s.mem.wf) :
    (s.raiseTrap t gangs cause info tpc).mem.wf := by
  unfold State.raiseTrap
  grind -linarith [State.wf_splitParts, State.wf_takeTrap, wf_foldl]

theorem State.wf_returnFromTrap {t : Stream} {k : Nat} (h : s.mem.wf) : (s.returnFromTrap t k).all (·.mem.wf) := by
  unfold State.returnFromTrap
  grind -linarith [State.wf_updGang, State.wf_updStream, wf_foldl]

theorem State.wf_retire {t : Stream} {i : Issue} {spec : Bool} (h : s.mem.wf) : (s.retire t i spec).mem.wf := by
  unfold State.retire
  grind -linarith [State.wf_updStream, State.wf_updGang, State.wf_countCore, State.wf_settle, wf_foldl]

theorem State.wf_advance {sid len : Nat} (h : s.mem.wf) : (s.advance sid len).mem.wf := h

theorem State.wf_joinMisses {t : Stream} {vas : List (Word × Access × Nat)} (h : s.mem.wf) : (s.joinMisses t vas).mem.wf := by
  unfold State.joinMisses
  grind -linarith [State.wf_joinMiss, State.wf_updStream, wf_foldl]

theorem State.wf_raiseWhenFlushed {s' : State} {t : Stream} {gangs : List Nat} {cause : Nat} {info : Word} (h : s.mem.wf)
    (h2 : s'.mem.wf) : (s.raiseWhenFlushed s' t gangs cause info).mem.wf := by
  unfold State.raiseWhenFlushed
  grind -linarith [State.wf_flushCommitted, State.wf_rollbackStream, State.wf_raiseTrap]

theorem State.wf_faulting {t : Stream} {k : Nat} (h : s.mem.wf) : (s.faulting t k).1.mem.wf := by
  unfold State.faulting
  grind -linarith [State.wf_splitParts]

theorem State.wf_finish {t : Stream} {i : Issue} {spec : Bool} {r : Res} (h : s.mem.wf) (h2 : r.wf) : (s.finish t i spec r).mem.wf := by
  unfold State.finish
  grind -linarith [Res.wf, State.wf_retire, State.wf_advance, State.wf_drainStep, State.wf_updStream, State.wf_joinMisses,
    State.wf_raiseWhenFlushed, State.wf_flushCommitted, State.wf_rollbackStream, State.wf_raiseTrap, State.wf_faulting,
    State.wf_addRecord]

/-- An issued word keeps the form when its effect does, however the instruction ends. -/
theorem State.wf_issue {i : Issue} {eff : Stream → Who → State → Res} (h : s.mem.wf) (heff : ∀ t w s, s.mem.wf → (eff t w s).wf) :
    Out.wf (s.issue i eff) := by
  unfold State.issue
  grind -linarith [Out.wf, Res.wf, State.wf_drainStep, State.wf_settle, State.wf_finish]

theorem State.wf_markDone {sid len : Nat} {gangs : List Nat} (h : s.mem.wf) : (s.markDone sid len gangs).mem.wf := h

theorem State.wf_passParts {t : Stream} {len : Nat} {done : List Nat} (h : s.mem.wf) : (s.passParts t len done).mem.wf := by
  unfold State.passParts
  grind -linarith [State.wf_markDone, State.wf_splitParts]

/-- By induction on the parts that are left: the effect of each keeps the form. -/
theorem wf_runParts {i : Issue} {eff : Part → Who → State → Res} {t : Stream} {w : Who} {s0 : State} {all : List Part} {io : Bool}
    {ps : List Part} (h : s0.mem.wf) (h2 : s.mem.wf) (heff : ∀ p w s, s.mem.wf → (eff p w s).wf) :
    (runParts i eff t w s0 all io ps s).wf := by
  induction ps generalizing s io with
  | nil => unfold runParts; grind -linarith [Res.wf]
  | cons p rest ih =>
    unfold runParts
    grind -linarith [Res.wf, State.wf_markDone, State.wf_splitParts, State.wf_passParts]

theorem wf_onParts {i : Issue} {eff : Part → Who → State → Res} {t : Stream} {w : Who} (h : s.mem.wf)
    (heff : ∀ p w s, s.mem.wf → (eff p w s).wf) : (onParts i eff t w s).wf := by
  unfold onParts
  grind -linarith [Res.wf, wf_runParts]

theorem State.wf_issueParts {i : Issue} {eff : Part → Who → State → Res} (h : s.mem.wf) (heff : ∀ p w s, s.mem.wf → (eff p w s).wf) :
    Out.wf (s.issueParts i eff) := by
  unfold State.issueParts
  grind -linarith [Out.wf, Res.wf, State.wf_issue, wf_onParts]

/-! ### The queue pool (`Machine/Pool`). -/

theorem wf_execQueuePoolGrant {core sid : Nat} (h : s.mem.wf) : Out.wf (execQueuePoolGrant core sid s) := by
  unfold execQueuePoolGrant
  grind -linarith [Out.wf, State.wf_updStream]

theorem State.wf_withNet {t : Stream} {w : Who} {eff : Res} (h : s.mem.wf) (h2 : eff.wf) : (s.withNet t w eff).wf := by
  unfold State.withNet
  grind -linarith [Res.wf]

theorem State.wf_holdNet {before : State} {t : Stream} (h : s.mem.wf) : (s.holdNet before t).mem.wf := by
  unfold State.holdNet
  grind -linarith [State.wf_updGang]

/-! ### Register results (`Machine/Operands`). -/

theorem State.wf_withRegs {t : Stream} {regs : List Nat} {eff : Res} (h : eff.wf) : (s.withRegs t regs eff).wf := by
  unfold State.withRegs
  grind -linarith [Res.wf]

theorem State.wf_writeRows {t : Stream} {w : Who} {long : Bool} {width r : Nat} {m : Mask} {x : VReg} (h : s.mem.wf) :
    (s.writeRows t w long width r m x).mem.wf :=
  wf_foldl (fun _ _ => State.wf_updGang) _ h

theorem State.wf_writeScalars {t : Stream} {w : Who} {long : Bool} {r : Nat} {x : Word} (h : s.mem.wf) :
    (s.writeScalars t w long r x).mem.wf :=
  wf_foldl (fun _ _ => State.wf_updGang) _ h

theorem State.wf_writeResult {t : Stream} {w : Who} {long : Bool} {width : Nat} {p : Prefix} {d : Nat} {m : Mask} {x : VReg}
    (h : s.mem.wf) : (s.writeResult t w long width p d m x).mem.wf := by
  unfold State.writeResult
  grind -linarith [State.wf_writeRows]

/-! ### Vector integer words (`Machine/VectorInt`). -/

theorem wf_vrInt {x : VX} {f : VRFields} {w : Nat} {fn : Word → Word → Word → Word → Word} (h : s.mem.wf) :
    Out.wf (vrInt x f w fn s) := by
  unfold vrInt
  grind -linarith [Out.wf, Res.wf, State.wf_issue, State.wf_withRegs, State.wf_writeResult]

theorem wf_vrElem {x : VX} {f : VRFields} {g : Nat → Nat → Nat → Nat → Nat → Nat} (h : s.mem.wf) : Out.wf (vrElem x f g s) := wf_vrInt h

theorem wf_vrIadd {x : VX} {f : VRFields} (h : s.mem.wf) : Out.wf (vrIadd x f s) := wf_vrElem h

theorem wf_vrIsub {x : VX} {f : VRFields} (h : s.mem.wf) : Out.wf (vrIsub x f s) := wf_vrElem h

theorem wf_vrIadds {x : VX} {f : VRFields} (h : s.mem.wf) : Out.wf (vrIadds x f s) := wf_vrElem h

theorem wf_vrIsubs {x : VX} {f : VRFields} (h : s.mem.wf) : Out.wf (vrIsubs x f s) := wf_vrElem h

theorem wf_vrImul {x : VX} {f : VRFields} (h : s.mem.wf) : Out.wf (vrImul x f s) := wf_vrElem h

theorem wf_vrImulh {x : VX} {f : VRFields} (h : s.mem.wf) : Out.wf (vrImulh x f s) := wf_vrElem h

theorem wf_vrUmulh {x : VX} {f : VRFields} (h : s.mem.wf) : Out.wf (vrUmulh x f s) := wf_vrElem h

theorem wf_vrImad {x : VX} {f : VRFields} (h : s.mem.wf) : Out.wf (vrImad x f s) := wf_vrElem h

theorem wf_vrImin {x : VX} {f : VRFields} (h : s.mem.wf) : Out.wf (vrImin x f s) := wf_vrElem h

theorem wf_vrImax {x : VX} {f : VRFields} (h : s.mem.wf) : Out.wf (vrImax x f s) := wf_vrElem h

theorem wf_vrUmin {x : VX} {f : VRFields} (h : s.mem.wf) : Out.wf (vrUmin x f s) := wf_vrElem h

theorem wf_vrUmax {x : VX} {f : VRFields} (h : s.mem.wf) : Out.wf (vrUmax x f s) := wf_vrElem h

theorem wf_vrIabs {x : VX} {f : VRFields} (h : s.mem.wf) : Out.wf (vrIabs x f s) := wf_vrElem h

theorem wf_vrShl {x : VX} {f : VRFields} (h : s.mem.wf) : Out.wf (vrShl x f s) := wf_vrElem h

theorem wf_vrShr {x : VX} {f : VRFields} (h : s.mem.wf) : Out.wf (vrShr x f s) := wf_vrElem h

theorem wf_vrSar {x : VX} {f : VRFields} (h : s.mem.wf) : Out.wf (vrSar x f s) := wf_vrElem h

theorem wf_vrAnd {x : VX} {f : VRFields} (h : s.mem.wf) : Out.wf (vrAnd x f s) := wf_vrInt h

theorem wf_vrOr {x : VX} {f : VRFields} (h : s.mem.wf) : Out.wf (vrOr x f s) := wf_vrInt h

theorem wf_vrXor {x : VX} {f : VRFields} (h : s.mem.wf) : Out.wf (vrXor x f s) := wf_vrInt h

theorem wf_vrAndn {x : VX} {f : VRFields} (h : s.mem.wf) : Out.wf (vrAndn x f s) := wf_vrInt h

theorem wf_vrPopc {x : VX} {f : VRFields} (h : s.mem.wf) : Out.wf (vrPopc x f s) := wf_vrElem h

theorem wf_vrClz {x : VX} {f : VRFields} (h : s.mem.wf) : Out.wf (vrClz x f s) := wf_vrElem h

theorem wf_vrBrev {x : VX} {f : VRFields} (h : s.mem.wf) : Out.wf (vrBrev x f s) := wf_vrElem h

theorem wf_vrBfx {x : VX} {f : VRFields} (h : s.mem.wf) : Out.wf (vrBfx x f s) := wf_vrElem h

theorem wf_vrBfi {x : VX} {f : VRFields} (h : s.mem.wf) : Out.wf (vrBfi x f s) := wf_vrElem h

theorem wf_vrLea {x : VX} {f : VRFields} (h : s.mem.wf) : Out.wf (vrLea x f s) := wf_vrInt h

theorem wf_vrIcmpeq {x : VX} {f : VRFields} (h : s.mem.wf) : Out.wf (vrIcmpeq x f s) := wf_vrElem h

theorem wf_vrIcmplt {x : VX} {f : VRFields} (h : s.mem.wf) : Out.wf (vrIcmplt x f s) := wf_vrElem h

theorem wf_vrIcmpltu {x : VX} {f : VRFields} (h : s.mem.wf) : Out.wf (vrIcmpltu x f s) := wf_vrElem h

theorem wf_vrSel {x : VX} {f : VRFields} (h : s.mem.wf) : Out.wf (vrSel x f s) := wf_vrElem h

theorem wf_vrMov {x : VX} {f : VRFields} (h : s.mem.wf) : Out.wf (vrMov x f s) := wf_vrInt h

theorem wf_execIadd {f : VRFields} (h : s.mem.wf) : Out.wf (execIadd f s) := wf_vrIadd h

theorem wf_execIsub {f : VRFields} (h : s.mem.wf) : Out.wf (execIsub f s) := wf_vrIsub h

theorem wf_execIadds {f : VRFields} (h : s.mem.wf) : Out.wf (execIadds f s) := wf_vrIadds h

theorem wf_execIsubs {f : VRFields} (h : s.mem.wf) : Out.wf (execIsubs f s) := wf_vrIsubs h

theorem wf_execImul {f : VRFields} (h : s.mem.wf) : Out.wf (execImul f s) := wf_vrImul h

theorem wf_execImulh {f : VRFields} (h : s.mem.wf) : Out.wf (execImulh f s) := wf_vrImulh h

theorem wf_execUmulh {f : VRFields} (h : s.mem.wf) : Out.wf (execUmulh f s) := wf_vrUmulh h

theorem wf_execImad {f : VRFields} (h : s.mem.wf) : Out.wf (execImad f s) := wf_vrImad h

theorem wf_execImin {f : VRFields} (h : s.mem.wf) : Out.wf (execImin f s) := wf_vrImin h

theorem wf_execImax {f : VRFields} (h : s.mem.wf) : Out.wf (execImax f s) := wf_vrImax h

theorem wf_execUmin {f : VRFields} (h : s.mem.wf) : Out.wf (execUmin f s) := wf_vrUmin h

theorem wf_execUmax {f : VRFields} (h : s.mem.wf) : Out.wf (execUmax f s) := wf_vrUmax h

theorem wf_execIabs {f : VRFields} (h : s.mem.wf) : Out.wf (execIabs f s) := wf_vrIabs h

theorem wf_execShl {f : VRFields} (h : s.mem.wf) : Out.wf (execShl f s) := wf_vrShl h

theorem wf_execShr {f : VRFields} (h : s.mem.wf) : Out.wf (execShr f s) := wf_vrShr h

theorem wf_execSar {f : VRFields} (h : s.mem.wf) : Out.wf (execSar f s) := wf_vrSar h

theorem wf_execAnd {f : VRFields} (h : s.mem.wf) : Out.wf (execAnd f s) := wf_vrAnd h

theorem wf_execOr {f : VRFields} (h : s.mem.wf) : Out.wf (execOr f s) := wf_vrOr h

theorem wf_execXor {f : VRFields} (h : s.mem.wf) : Out.wf (execXor f s) := wf_vrXor h

theorem wf_execAndn {f : VRFields} (h : s.mem.wf) : Out.wf (execAndn f s) := wf_vrAndn h

theorem wf_execPopc {f : VRFields} (h : s.mem.wf) : Out.wf (execPopc f s) := wf_vrPopc h

theorem wf_execClz {f : VRFields} (h : s.mem.wf) : Out.wf (execClz f s) := wf_vrClz h

theorem wf_execBrev {f : VRFields} (h : s.mem.wf) : Out.wf (execBrev f s) := wf_vrBrev h

theorem wf_execBfx {f : VRFields} (h : s.mem.wf) : Out.wf (execBfx f s) := wf_vrBfx h

theorem wf_execBfi {f : VRFields} (h : s.mem.wf) : Out.wf (execBfi f s) := wf_vrBfi h

theorem wf_execLea {f : VRFields} (h : s.mem.wf) : Out.wf (execLea f s) := wf_vrLea h

theorem wf_execIcmpeq {f : VRFields} (h : s.mem.wf) : Out.wf (execIcmpeq f s) := wf_vrIcmpeq h

theorem wf_execIcmplt {f : VRFields} (h : s.mem.wf) : Out.wf (execIcmplt f s) := wf_vrIcmplt h

theorem wf_execIcmpltu {f : VRFields} (h : s.mem.wf) : Out.wf (execIcmpltu f s) := wf_vrIcmpltu h

theorem wf_execSel {f : VRFields} (h : s.mem.wf) : Out.wf (execSel f s) := wf_vrSel h

theorem wf_execMov {f : VRFields} (h : s.mem.wf) : Out.wf (execMov f s) := wf_vrMov h

theorem wf_execIadd16 {f : HalfFields} (h : s.mem.wf) : Out.wf (execIadd16 f s) := wf_vrIadd h

theorem wf_execIsub16 {f : HalfFields} (h : s.mem.wf) : Out.wf (execIsub16 f s) := wf_vrIsub h

theorem wf_execAnd16 {f : HalfFields} (h : s.mem.wf) : Out.wf (execAnd16 f s) := wf_vrAnd h

theorem wf_execOr16 {f : HalfFields} (h : s.mem.wf) : Out.wf (execOr16 f s) := wf_vrOr h

theorem wf_execXor16 {f : HalfFields} (h : s.mem.wf) : Out.wf (execXor16 f s) := wf_vrXor h

theorem wf_execShl16 {f : HalfFields} (h : s.mem.wf) : Out.wf (execShl16 f s) := wf_vrShl h

theorem wf_execImin16 {f : HalfFields} (h : s.mem.wf) : Out.wf (execImin16 f s) := wf_vrImin h

theorem wf_execImax16 {f : HalfFields} (h : s.mem.wf) : Out.wf (execImax16 f s) := wf_vrImax h

theorem wf_execMov16 {f : HalfFields} (h : s.mem.wf) : Out.wf (execMov16 f s) := wf_vrMov h

theorem wf_execNop (h : s.mem.wf) : Out.wf (execNop s) := State.wf_issue h fun _ _ _ ht => ht

/-! ### Scalar words (`Machine/Scalar`). -/

theorem State.wf_setS {p : Part} {w : Who} {long : Bool} {r : BitVec 6} {x : Word} (h : s.mem.wf) : (s.setS p w long r x).mem.wf := h

theorem wf_sOp {i : Issue} {f : VRFields} {fn : Nat → Nat → Nat → ℤ} (h : s.mem.wf) : Out.wf (sOp i f fn s) :=
  State.wf_issueParts h fun _ _ _ ht => ht

theorem wf_sSadd {i : Issue} {f : VRFields} (h : s.mem.wf) : Out.wf (sSadd i f s) := wf_sOp h

theorem wf_sSmov {i : Issue} {f : VRFields} (h : s.mem.wf) : Out.wf (sSmov i f s) := wf_sOp h

theorem wf_execSadd {f : VRFields} (h : s.mem.wf) : Out.wf (execSadd f s) := wf_sSadd h

theorem wf_execSsub {f : VRFields} (h : s.mem.wf) : Out.wf (execSsub f s) := wf_sOp h

theorem wf_execSmul {f : VRFields} (h : s.mem.wf) : Out.wf (execSmul f s) := wf_sOp h

theorem wf_execSand {f : VRFields} (h : s.mem.wf) : Out.wf (execSand f s) := wf_sOp h

theorem wf_execSor {f : VRFields} (h : s.mem.wf) : Out.wf (execSor f s) := wf_sOp h

theorem wf_execSxor {f : VRFields} (h : s.mem.wf) : Out.wf (execSxor f s) := wf_sOp h

theorem wf_execSshl {f : VRFields} (h : s.mem.wf) : Out.wf (execSshl f s) := wf_sOp h

theorem wf_execSshr {f : VRFields} (h : s.mem.wf) : Out.wf (execSshr f s) := wf_sOp h

theorem wf_execSsar {f : VRFields} (h : s.mem.wf) : Out.wf (execSsar f s) := wf_sOp h

theorem wf_execSmov {f : VRFields} (h : s.mem.wf) : Out.wf (execSmov f s) := wf_sSmov h

theorem wf_execSadd16 {f : HalfFields} (h : s.mem.wf) : Out.wf (execSadd16 f s) := wf_sSadd h

theorem wf_execSmov16 {f : HalfFields} (h : s.mem.wf) : Out.wf (execSmov16 f s) := wf_sSmov h

theorem wf_execScmp {f : VRFields} (h : s.mem.wf) : Out.wf (execScmp f s) := State.wf_issueParts h fun _ _ _ ht => ht

theorem wf_execSlea {f : VRFields} (h : s.mem.wf) : Out.wf (execSlea f s) := State.wf_issueParts h fun _ _ _ ht => ht

theorem wf_execLi {f : SIFields} (h : s.mem.wf) : Out.wf (execLi f s) := State.wf_issueParts h fun _ _ _ ht => ht

theorem wf_execLih {f : SIFields} (h : s.mem.wf) : Out.wf (execLih f s) := State.wf_issueParts h fun _ _ _ ht => ht

theorem wf_execGetsr {f : SRFields} (h : s.mem.wf) : Out.wf (execGetsr f s) := State.wf_issueParts h fun _ _ _ ht => ht

theorem wf_execSetsr {f : SRFields} (h : s.mem.wf) : Out.wf (execSetsr f s) := State.wf_issueParts h fun _ _ _ ht => ht

/-! ### Control flow, packs and traps (`Machine/Control`). -/

theorem State.wf_divide {t : Stream} {groups : List (List (Nat × Nat) × Word)} (h : s.mem.wf) : (s.divide t groups).mem.wf := by
  unfold State.divide
  grind -linarith [State.wf_updStream, State.wf_retag, wf_foldl]

theorem State.wf_declareSpin {t : Stream} {pc tgt : Word} (h : s.mem.wf) : (s.declareSpin t pc tgt).mem.wf := by
  unfold State.declareSpin
  grind -linarith [State.wf_updStream, State.wf_enterWatch]

theorem wf_branchPlain {f : BRFields} {t : Stream} {who : Who} (h : s.mem.wf) : (branchPlain f t who s).wf := by
  unfold branchPlain
  grind -linarith [Res.wf, State.wf_updStream, State.wf_divide, State.wf_declareSpin]

theorem wf_branchPack {f : BRFields} {t : Stream} {who : Who} (h : s.mem.wf) : (branchPack f t who s).wf := by
  unfold branchPack
  grind -linarith [Res.wf, State.wf_updSplice, State.wf_updStream]

theorem wf_execBr {f : BRFields} (h : s.mem.wf) : Out.wf (execBr f s) := by
  unfold execBr
  grind -linarith [Out.wf, Res.wf, State.wf_issue, wf_branchPack, wf_branchPlain]

theorem wf_jumpOp {h : Bool} {target : Stream → Part → Who → State → Word} {link : Bool} (hs : s.mem.wf) :
    Out.wf (jumpOp h target link s) := by
  refine State.wf_issue hs fun t who s hs => ?_
  grind -linarith [Res.wf, State.wf_splitParts, State.wf_updGang, State.wf_divide, wf_foldl]

theorem wf_execJmp {f : JFields} (h : s.mem.wf) : Out.wf (execJmp f s) := wf_jumpOp h

theorem wf_execJmpReg {f : JFields} (h : s.mem.wf) : Out.wf (execJmpReg f s) := wf_jumpOp h

theorem wf_execCall {f : JFields} (h : s.mem.wf) : Out.wf (execCall f s) := wf_jumpOp h

theorem wf_execCallReg {f : JFields} (h : s.mem.wf) : Out.wf (execCallReg f s) := wf_jumpOp h

theorem wf_execRet {f : JFields} (h : s.mem.wf) : Out.wf (execRet f s) := wf_jumpOp h

theorem wf_execRegang {f : JFields} (h : s.mem.wf) : Out.wf (execRegang f s) := by
  refine State.wf_issue h fun t _ s hs => ?_
  grind -linarith [Res.wf]

theorem State.wf_dropSlices {k : Nat} {ts : List Stream} (h : s.mem.wf) : (s.dropSlices k ts).mem.wf := by
  unfold State.dropSlices
  grind -linarith [State.wf_updStream, wf_foldl]

theorem State.wf_joinStreams {ts : List Stream} {slots : List (Nat × Nat)} {pc : Word} (h : s.mem.wf) :
    (s.joinStreams ts slots pc).mem.wf := by
  unfold State.joinStreams
  grind -linarith [State.wf_retag, wf_foldl]

theorem wf_execRegangCombine {l k : Nat} (h : s.mem.wf) : Out.wf (execRegangCombine l k s) := by
  unfold execRegangCombine
  grind -linarith [Out.wf, State.wf_settle, State.wf_joinStreams, State.wf_dropSlices, State.wf_joinRaces, wf_foldl]

theorem State.wf_closePack {l sp : Nat} {addr : Word} (h : s.mem.wf) : (s.closePack l sp addr).mem.wf := by
  unfold State.closePack
  grind -linarith [State.wf_settle, State.wf_updSplice, State.wf_updStream, State.wf_joinStreams, State.wf_joinRaces,
    State.wf_raiseWhenFlushed, wf_foldl]

theorem wf_execPackWindowClose {l sp : Nat} {addr : Word} (h : s.mem.wf) : Out.wf (execPackWindowClose l sp addr s) :=
  State.wf_closePack h

theorem wf_execYield {f : JFields} (h : s.mem.wf) : Out.wf (execYield f s) := State.wf_issue h fun _ _ _ ht => ht

theorem State.wf_testArmed {core : Option Nat} {pasid : Nat} {a v : Word} (h : s.mem.wf) :
    ∀ t x, s.testArmed core pasid a v = .ok (t, x) → t.mem.wf := by
  unfold State.testArmed
  grind -linarith [State.wf_touchTlb, State.wf_markLeaf]

theorem wf_yieldParts {tgt : Word} {t : Stream} {all ps : List Part} (h : s.mem.wf) : (yieldParts tgt t all ps s).wf := by
  induction ps generalizing s with
  | nil => exact State.wf_updStream h
  | cons p rest ih =>
    unfold yieldParts
    grind -linarith [Res.wf, State.wf_updStream, State.wf_markDone, State.wf_splitParts, State.wf_passParts, State.wf_testArmed,
      State.wf_updGang,
      State.wf_enterWatch]

theorem wf_execYieldContinuation {f : JFields} (h : s.mem.wf) : Out.wf (execYieldContinuation f s) :=
  State.wf_issue h fun _ _ _ ht => wf_yieldParts ht

theorem State.wf_endHandler {l k : Nat} (h : s.mem.wf) : (s.endHandler l k).mem.wf := State.wf_updGang (State.wf_dropSlices h)

theorem wf_execExit {f : JFields} (h : s.mem.wf) : Out.wf (execExit f s) := by
  refine State.wf_issue h fun t _ s hs => ?_
  grind -linarith [Res.wf, State.wf_flushCommitted, State.wf_updGang, State.wf_endHandler, wf_foldl]

theorem wf_execTrap {f : JFields} (h : s.mem.wf) : Out.wf (execTrap f s) := State.wf_issue h fun _ _ _ _ => rfl

theorem wf_execBrk {f : JFields} (h : s.mem.wf) : Out.wf (execBrk f s) := State.wf_issue h fun _ _ _ _ => rfl

theorem wf_execRte {f : JFields} (h : s.mem.wf) : Out.wf (execRte f s) := by
  refine State.wf_issue h fun t _ s hs => ?_
  grind -linarith [Res.wf, State.wf_returnFromTrap]

theorem wf_execIllegalInstruction {info : Word} (h : s.mem.wf) : Out.wf (execIllegalInstruction info s) :=
  State.wf_issue h fun _ _ _ _ => rfl

theorem wf_execDeferredTrap {sid : Nat} (h : s.mem.wf) : Out.wf (execDeferredTrap sid s) := by
  unfold execDeferredTrap
  grind -linarith [Out.wf, State.wf_drainStep, State.wf_raiseWhenFlushed, State.wf_updGang]

theorem wf_execWatchdogExpiry {sid : Nat} (h : s.mem.wf) : Out.wf (execWatchdogExpiry sid s) := by
  unfold execWatchdogExpiry
  grind -linarith [Out.wf, State.wf_snapTrigger, State.wf_countCore, State.wf_rollbackStream, State.wf_raiseWhenFlushed]

theorem wf_execSpinRecognised {sid : Nat} (h : s.mem.wf) : Out.wf (execSpinRecognised sid s) := by
  unfold execSpinRecognised
  grind -linarith [Out.wf, State.wf_drainStep, State.wf_updStream, State.wf_enterWatch]

/-! ### Vector float words (`Machine/VectorFloat`). -/

theorem wf_vrFloat {x : VX} {f : VRFields} {wB : Nat} {imm : ℤ → Nat} {w k : Nat} {fn : FloatFn} (h : s.mem.wf) :
    Out.wf (vrFloat x f wB imm w k fn s) := by
  unfold vrFloat
  grind -linarith [Out.wf, Res.wf, State.wf_issue, State.wf_withRegs, State.wf_updGang, wf_foldl]

theorem wf_vrArith {x : VX} {f : VRFields} {y : RMode → FVal → FVal → FVal → FVal × Flags} (h : s.mem.wf) :
    Out.wf (vrArith x f y s) := by
  unfold vrArith
  grind -linarith [Out.wf, wf_vrFloat]

theorem wf_vrPlain {x : VX} {f : VRFields} {g : Fmt → Codebook → Nat → Nat → Nat × Flags} (h : s.mem.wf) :
    Out.wf (vrPlain x f g s) := by
  unfold vrPlain
  grind -linarith [Out.wf, wf_vrFloat]

theorem wf_vrFadd {x : VX} {f : VRFields} (h : s.mem.wf) : Out.wf (vrFadd x f s) := wf_vrArith h

theorem wf_vrFsub {x : VX} {f : VRFields} (h : s.mem.wf) : Out.wf (vrFsub x f s) := wf_vrArith h

theorem wf_vrFmul {x : VX} {f : VRFields} (h : s.mem.wf) : Out.wf (vrFmul x f s) := wf_vrArith h

theorem wf_vrFfma {x : VX} {f : VRFields} (h : s.mem.wf) : Out.wf (vrFfma x f s) := wf_vrArith h

theorem wf_vrFmin {x : VX} {f : VRFields} (h : s.mem.wf) : Out.wf (vrFmin x f s) := wf_vrPlain h

theorem wf_vrFmax {x : VX} {f : VRFields} (h : s.mem.wf) : Out.wf (vrFmax x f s) := wf_vrPlain h

theorem wf_vrFabs {x : VX} {f : VRFields} (h : s.mem.wf) : Out.wf (vrFabs x f s) := wf_vrPlain h

theorem wf_vrFneg {x : VX} {f : VRFields} (h : s.mem.wf) : Out.wf (vrFneg x f s) := wf_vrPlain h

theorem wf_vrFcmpeq {x : VX} {f : VRFields} (h : s.mem.wf) : Out.wf (vrFcmpeq x f s) := wf_vrPlain h

theorem wf_vrFcmplt {x : VX} {f : VRFields} (h : s.mem.wf) : Out.wf (vrFcmplt x f s) := wf_vrPlain h

theorem wf_vrFcmple {x : VX} {f : VRFields} (h : s.mem.wf) : Out.wf (vrFcmple x f s) := wf_vrPlain h

theorem wf_vrFcmpun {x : VX} {f : VRFields} (h : s.mem.wf) : Out.wf (vrFcmpun x f s) := wf_vrPlain h

theorem wf_vrFrcp {x : VX} {f : VRFields} (h : s.mem.wf) : Out.wf (vrFrcp x f s) := wf_vrArith h

theorem wf_vrFrsq {x : VX} {f : VRFields} (h : s.mem.wf) : Out.wf (vrFrsq x f s) := wf_vrArith h

theorem wf_vrFsqrt {x : VX} {f : VRFields} (h : s.mem.wf) : Out.wf (vrFsqrt x f s) := wf_vrArith h

theorem wf_vrFexp2 {x : VX} {f : VRFields} (h : s.mem.wf) : Out.wf (vrFexp2 x f s) := wf_vrArith h

theorem wf_vrFlog2 {x : VX} {f : VRFields} (h : s.mem.wf) : Out.wf (vrFlog2 x f s) := wf_vrArith h

theorem wf_vrFsin {x : VX} {f : VRFields} (h : s.mem.wf) : Out.wf (vrFsin x f s) := wf_vrArith h

theorem wf_vrFcos {x : VX} {f : VRFields} (h : s.mem.wf) : Out.wf (vrFcos x f s) := wf_vrArith h

theorem wf_vrFtanh {x : VX} {f : VRFields} (h : s.mem.wf) : Out.wf (vrFtanh x f s) := wf_vrArith h

theorem wf_vrFround {x : VX} {f : VRFields} (h : s.mem.wf) : Out.wf (vrFround x f s) := by
  unfold vrFround
  grind -linarith [Out.wf, wf_vrFloat]

theorem wf_vrFscale {x : VX} {f : VRFields} (h : s.mem.wf) : Out.wf (vrFscale x f s) := wf_vrArith h

theorem wf_vrFclass {x : VX} {f : VRFields} (h : s.mem.wf) : Out.wf (vrFclass x f s) := wf_vrPlain h

theorem wf_vrFdot2 {x : VX} {f : VRFields} (h : s.mem.wf) : Out.wf (vrFdot2 x f s) := by
  unfold vrFdot2
  grind -linarith [Out.wf, wf_vrFloat]

theorem wf_vrCvt {x : VX} {f : VRFields} (h : s.mem.wf) : Out.wf (vrCvt x f s) := by
  unfold vrCvt
  grind -linarith [Out.wf, wf_vrFloat]

theorem wf_vrCbld {x : VX} {f : VRFields} (h : s.mem.wf) : Out.wf (vrCbld x f s) := by
  unfold vrCbld
  grind -linarith [Out.wf, Res.wf, State.wf_issue, State.wf_withRegs, State.wf_updGang, wf_foldl]

theorem wf_vrCbst {x : VX} {f : VRFields} (h : s.mem.wf) : Out.wf (vrCbst x f s) := by
  unfold vrCbst
  grind -linarith [Out.wf, Res.wf, State.wf_issue, State.wf_withRegs, State.wf_updGang, wf_foldl]

theorem wf_execFadd {f : VRFields} (h : s.mem.wf) : Out.wf (execFadd f s) := wf_vrFadd h

theorem wf_execFsub {f : VRFields} (h : s.mem.wf) : Out.wf (execFsub f s) := wf_vrFsub h

theorem wf_execFmul {f : VRFields} (h : s.mem.wf) : Out.wf (execFmul f s) := wf_vrFmul h

theorem wf_execFfma {f : VRFields} (h : s.mem.wf) : Out.wf (execFfma f s) := wf_vrFfma h

theorem wf_execFmin {f : VRFields} (h : s.mem.wf) : Out.wf (execFmin f s) := wf_vrFmin h

theorem wf_execFmax {f : VRFields} (h : s.mem.wf) : Out.wf (execFmax f s) := wf_vrFmax h

theorem wf_execFabs {f : VRFields} (h : s.mem.wf) : Out.wf (execFabs f s) := wf_vrFabs h

theorem wf_execFneg {f : VRFields} (h : s.mem.wf) : Out.wf (execFneg f s) := wf_vrFneg h

theorem wf_execFcmpeq {f : VRFields} (h : s.mem.wf) : Out.wf (execFcmpeq f s) := wf_vrFcmpeq h

theorem wf_execFcmplt {f : VRFields} (h : s.mem.wf) : Out.wf (execFcmplt f s) := wf_vrFcmplt h

theorem wf_execFcmple {f : VRFields} (h : s.mem.wf) : Out.wf (execFcmple f s) := wf_vrFcmple h

theorem wf_execFcmpun {f : VRFields} (h : s.mem.wf) : Out.wf (execFcmpun f s) := wf_vrFcmpun h

theorem wf_execFrcp {f : VRFields} (h : s.mem.wf) : Out.wf (execFrcp f s) := wf_vrFrcp h

theorem wf_execFrsq {f : VRFields} (h : s.mem.wf) : Out.wf (execFrsq f s) := wf_vrFrsq h

theorem wf_execFsqrt {f : VRFields} (h : s.mem.wf) : Out.wf (execFsqrt f s) := wf_vrFsqrt h

theorem wf_execFexp2 {f : VRFields} (h : s.mem.wf) : Out.wf (execFexp2 f s) := wf_vrFexp2 h

theorem wf_execFlog2 {f : VRFields} (h : s.mem.wf) : Out.wf (execFlog2 f s) := wf_vrFlog2 h

theorem wf_execFsin {f : VRFields} (h : s.mem.wf) : Out.wf (execFsin f s) := wf_vrFsin h

theorem wf_execFcos {f : VRFields} (h : s.mem.wf) : Out.wf (execFcos f s) := wf_vrFcos h

theorem wf_execFtanh {f : VRFields} (h : s.mem.wf) : Out.wf (execFtanh f s) := wf_vrFtanh h

theorem wf_execFround {f : VRFields} (h : s.mem.wf) : Out.wf (execFround f s) := wf_vrFround h

theorem wf_execFscale {f : VRFields} (h : s.mem.wf) : Out.wf (execFscale f s) := wf_vrFscale h

theorem wf_execFclass {f : VRFields} (h : s.mem.wf) : Out.wf (execFclass f s) := wf_vrFclass h

theorem wf_execFdot2 {f : VRFields} (h : s.mem.wf) : Out.wf (execFdot2 f s) := wf_vrFdot2 h

theorem wf_execCvt {f : VRFields} (h : s.mem.wf) : Out.wf (execCvt f s) := wf_vrCvt h

theorem wf_execCbld {f : VRFields} (h : s.mem.wf) : Out.wf (execCbld f s) := wf_vrCbld h

theorem wf_execCbst {f : VRFields} (h : s.mem.wf) : Out.wf (execCbst f s) := wf_vrCbst h

theorem wf_execFadd16 {f : HalfFields} (h : s.mem.wf) : Out.wf (execFadd16 f s) := wf_vrFadd h

theorem wf_execFsub16 {f : HalfFields} (h : s.mem.wf) : Out.wf (execFsub16 f s) := wf_vrFsub h

theorem wf_execFmul16 {f : HalfFields} (h : s.mem.wf) : Out.wf (execFmul16 f s) := wf_vrFmul h

theorem wf_execFmax16 {f : HalfFields} (h : s.mem.wf) : Out.wf (execFmax16 f s) := wf_vrFmax h

/-! ### Cross-lane words (`Machine/CrossLane`). -/

theorem wf_clMove {x : VX} {f : VRFields} {long : Bool} {w : Nat} {regs : List Nat} {val : VReg → VReg → Nat → Word}
    {srcA srcB : State → Stream → Nat → VReg} (h : s.mem.wf) : Out.wf (clMove x f long w regs val srcA srcB s) := by
  unfold clMove
  grind -linarith [Out.wf, Res.wf, State.wf_issue, State.wf_withRegs, State.wf_writeResult]

theorem wf_vrShfl {x : VX} {f : VRFields} (h : s.mem.wf) : Out.wf (vrShfl x f s) := wf_clMove h

theorem wf_vrBcast {x : VX} {f : VRFields} (h : s.mem.wf) : Out.wf (vrBcast x f s) := by
  unfold vrBcast
  grind -linarith [Out.wf, wf_clMove]

theorem wf_vrPerm {x : VX} {f : VRFields} (h : s.mem.wf) : Out.wf (vrPerm x f s) := by
  unfold vrPerm
  grind -linarith [Out.wf, wf_clMove]

theorem wf_vrMovsv {x : VX} {f : VRFields} (h : s.mem.wf) : Out.wf (vrMovsv x f s) := by
  unfold vrMovsv
  grind -linarith [Out.wf, wf_clMove]

theorem wf_vrIota {x : VX} {f : VRFields} (h : s.mem.wf) : Out.wf (vrIota x f s) := by
  unfold vrIota
  grind -linarith [Out.wf, wf_clMove]

theorem wf_vrMovvs {x : VX} {f : VRFields} (h : s.mem.wf) : Out.wf (vrMovvs x f s) := by
  unfold vrMovvs
  grind -linarith [Out.wf, Res.wf, State.wf_issue, State.wf_withRegs, State.wf_updGang, wf_foldl]

theorem State.wf_writeMask {t : Stream} {w : Who} {long : Bool} {p : Prefix} {d : Nat} {m x : Mask} (h : s.mem.wf) :
    (s.writeMask t w long p d m x).mem.wf := by
  unfold State.writeMask
  grind -linarith [State.wf_updGang, wf_foldl]

theorem wf_vrBallot {x : VX} {f : VRFields} (h : s.mem.wf) : Out.wf (vrBallot x f s) := by
  unfold vrBallot
  grind -linarith [Out.wf, Res.wf, State.wf_issue, State.wf_withRegs, State.wf_writeMask]

theorem wf_vrMset {x : VX} {f : VRFields} (h : s.mem.wf) : Out.wf (vrMset x f s) :=
  State.wf_issue h fun _ _ _ ht => State.wf_writeMask ht

theorem wf_vrFirst {x : VX} {f : VRFields} (h : s.mem.wf) : Out.wf (vrFirst x f s) :=
  State.wf_issue h fun _ _ _ ht => State.wf_writeScalars ht

theorem State.wf_raiseAll {t : Stream} {w : Who} {m : Mask} {f : Flags} (h : s.mem.wf) : (s.raiseAll t w m f).mem.wf := by
  unfold State.raiseAll
  grind -linarith [State.wf_updGang, wf_foldl]

theorem wf_vrRed {x : VX} {f : VRFields} (h : s.mem.wf) : Out.wf (vrRed x f s) := by
  unfold vrRed
  grind -linarith [Out.wf, Res.wf, State.wf_issue, State.wf_withRegs, State.wf_withNet, State.wf_writeResult, State.wf_updGang,
    State.wf_holdNet, State.wf_raiseAll, wf_foldl]

theorem wf_vrScan {x : VX} {f : VRFields} (h : s.mem.wf) : Out.wf (vrScan x f s) := by
  unfold vrScan
  grind -linarith [Out.wf, Res.wf, State.wf_issue, State.wf_withRegs, State.wf_withNet, State.wf_holdNet, State.wf_raiseAll,
    State.wf_writeResult, wf_foldl]

theorem wf_vrMred {x : VX} {f : VRFields} (h : s.mem.wf) : Out.wf (vrMred x f s) := by
  unfold vrMred
  grind -linarith [Out.wf, Res.wf, State.wf_issue, State.wf_withRegs, State.wf_withNet, State.wf_writeResult, State.wf_updGang,
    State.wf_holdNet, State.wf_raiseAll, wf_foldl]

theorem wf_execShfl {f : VRFields} (h : s.mem.wf) : Out.wf (execShfl f s) := wf_vrShfl h

theorem wf_execBcast {f : VRFields} (h : s.mem.wf) : Out.wf (execBcast f s) := wf_vrBcast h

theorem wf_execPerm {f : VRFields} (h : s.mem.wf) : Out.wf (execPerm f s) := wf_vrPerm h

theorem wf_execMred {f : VRFields} (h : s.mem.wf) : Out.wf (execMred f s) := wf_vrMred h

theorem wf_execScan {f : VRFields} (h : s.mem.wf) : Out.wf (execScan f s) := wf_vrScan h

theorem wf_execRed {f : VRFields} (h : s.mem.wf) : Out.wf (execRed f s) := wf_vrRed h

theorem wf_execBallot {f : VRFields} (h : s.mem.wf) : Out.wf (execBallot f s) := wf_vrBallot h

theorem wf_execMset {f : VRFields} (h : s.mem.wf) : Out.wf (execMset f s) := wf_vrMset h

theorem wf_execMovsv {f : VRFields} (h : s.mem.wf) : Out.wf (execMovsv f s) := wf_vrMovsv h

theorem wf_execMovvs {f : VRFields} (h : s.mem.wf) : Out.wf (execMovvs f s) := wf_vrMovvs h

theorem wf_execFirst {f : VRFields} (h : s.mem.wf) : Out.wf (execFirst f s) := wf_vrFirst h

theorem wf_execIota {f : VRFields} (h : s.mem.wf) : Out.wf (execIota f s) := wf_vrIota h

theorem wf_execPrefixedInstruction {p : Prefix} {op : VROp} {f : VRFields} (h : s.mem.wf) :
    Out.wf (execPrefixedInstruction p op f s) := by
  unfold execPrefixedInstruction
  grind -linarith [Out.wf, wf_vrIadd, wf_vrIsub, wf_vrIadds, wf_vrIsubs, wf_vrImul, wf_vrImulh, wf_vrUmulh, wf_vrImad, wf_vrImin,
    wf_vrImax, wf_vrUmin, wf_vrUmax, wf_vrIabs, wf_vrShl, wf_vrShr, wf_vrSar, wf_vrAnd, wf_vrOr, wf_vrXor, wf_vrAndn, wf_vrPopc,
    wf_vrClz, wf_vrBrev, wf_vrBfx, wf_vrBfi, wf_vrLea, wf_vrIcmpeq, wf_vrIcmplt, wf_vrIcmpltu, wf_vrSel, wf_vrMov, wf_vrFadd, wf_vrFsub,
    wf_vrFmul, wf_vrFfma, wf_vrFmin, wf_vrFmax, wf_vrFabs, wf_vrFneg, wf_vrFcmpeq, wf_vrFcmplt, wf_vrFcmple, wf_vrFcmpun, wf_vrFrcp,
    wf_vrFrsq, wf_vrFsqrt, wf_vrFexp2, wf_vrFlog2, wf_vrFsin, wf_vrFcos, wf_vrFtanh, wf_vrFround, wf_vrFscale, wf_vrFclass, wf_vrFdot2,
    wf_vrCvt, wf_vrCbld, wf_vrCbst, wf_vrShfl, wf_vrBcast, wf_vrPerm, wf_vrMred, wf_vrScan, wf_vrRed, wf_vrBallot, wf_vrMset,
    wf_vrMovsv, wf_vrMovvs, wf_vrFirst, wf_vrIota]

/-! ### Halyard (`Machine/Halyard`). -/

theorem EngineRes.wf_bind {α β : Type} {r : EngineRes α} {go : State → α → EngineRes β} (h : r.state.mem.wf)
    (hgo : ∀ s bs, s.mem.wf → (go s bs).state.mem.wf) : (EngineRes.bind r go).state.mem.wf := by
  unfold EngineRes.bind
  grind -linarith [EngineRes.state]

theorem State.wf_engineLine {die : Option Nat} {pasid : Nat} {va : Word} {acc : Access} (h : s.mem.wf) :
    (s.engineLine die pasid va acc).state.mem.wf := by
  unfold State.engineLine
  grind -linarith [EngineRes.state, State.wf_engineAccess]

theorem State.wf_engineRead {pasid : Nat} {a : Word} {n : Nat} (h : s.mem.wf) : (s.engineRead pasid a n).state.mem.wf := by
  refine EngineRes.wf_foldl (fun r g hr => EngineRes.wf_bind hr fun s bs hs => ?_) _ h
  grind -linarith [EngineRes.state, EngineRes.wf_bind, State.wf_engineLine]

theorem State.wf_engineWriteLine {die : Option Nat} {pasid : Nat} {g : List Host.Cell} (h : s.mem.wf) :
    (s.engineWriteLine die pasid g).state.mem.wf := by
  unfold State.engineWriteLine
  grind -linarith [EngineRes.state, Logged.wf, EngineRes.wf_bind, State.wf_engineLine, State.wf_storeLogged]

theorem State.wf_engineWrite {pasid : Nat} {a : Word} {bytes : List Byte} (h : s.mem.wf) :
    (s.engineWrite pasid a bytes).state.mem.wf :=
  EngineRes.wf_foldl (fun _ _ hr => EngineRes.wf_bind hr fun _ _ => State.wf_engineWriteLine) _ h

theorem State.wf_parkBucket {h n pasid : Nat} {va : Word} {reason acc : Nat} (hs : s.mem.wf) :
    (s.parkBucket h n pasid va reason acc).mem.wf :=
  State.wf_updBucket (State.wf_addRecord hs)

theorem State.wf_failBucket {h n reason : Nat} (hs : s.mem.wf) : (s.failBucket h n reason).mem.wf := hs

theorem State.wf_sendNext {p : Plan} {q : HalyardPacket} (h : s.mem.wf) : (s.sendNext p q).mem.wf := by
  unfold State.sendNext
  grind -linarith

theorem State.wf_contribute {p : Plan} {b : HalyardBuffer} {k : Bucket} {slice : Nat} {elems : Option (List Nat)} (h : s.mem.wf) :
    (s.contribute p b k slice elems).mem.wf :=
  State.wf_sendNext (State.wf_updBucket h)

theorem State.wf_readOwn {h n : Nat} (hs : s.mem.wf) : (s.readOwn h n).mem.wf := by
  unfold State.readOwn
  split
  · exact hs
  · split
    · exact State.wf_failBucket hs
    · refine wf_foldl (fun s i hs => ?_) _ hs
      grind -linarith [EngineRes.state, State.wf_failBucket, State.wf_engineRead, State.wf_parkBucket, State.wf_lineError,
        State.wf_contribute]

theorem State.wf_sendRest {p : Plan} {b : HalyardBuffer} {n : Nat} (h : s.mem.wf) : (s.sendRest p b n).mem.wf := by
  unfold State.sendRest
  grind -linarith [State.wf_contribute, wf_foldl]

theorem State.wf_takePacket {q : HalyardPacket} (h : s.mem.wf) : (s.takePacket q).mem.wf := by
  unfold State.takePacket
  grind -linarith [State.wf_countHub, State.wf_sendNext, State.wf_sendRest, State.wf_failBucket, State.wf_updBucket]

theorem State.wf_startRound {h n : Nat} {own intr : Bool} (hs : s.mem.wf) : (s.startRound h n own intr).mem.wf := by
  unfold State.startRound
  grind -linarith [State.wf_updBucket, State.wf_readOwn, State.wf_takePacket, wf_foldl]

theorem State.wf_rewriteLate {h n : Nat} (hs : s.mem.wf) : (s.rewriteLate h n).mem.wf := by
  unfold State.rewriteLate
  grind -linarith [EngineRes.state, State.wf_updBucket, EngineRes.wf_bind, State.wf_engineRead, State.wf_engineWrite,
    State.wf_parkBucket]

theorem State.wf_lateTrigger {h n : Nat} {b : Bucket} (hs : s.mem.wf) : (s.lateTrigger h n b).mem.wf := by
  unfold State.lateTrigger
  grind -linarith [State.wf_updBucket, State.wf_readOwn, State.wf_rewriteLate]

theorem State.wf_fireBucket {pasid : Nat} {v : Word} (h : s.mem.wf) : ∀ t, s.fireBucket pasid v = .ok t → t.mem.wf := by
  unfold State.fireBucket
  grind -linarith [State.wf_lateTrigger, State.wf_startRound]

theorem State.wf_writeResults {p : Plan} {b : Bucket} {buf : HalyardBuffer} (h : s.mem.wf) : (s.writeResults p b buf).state.mem.wf := by
  refine EngineRes.wf_foldl (fun r i hr => EngineRes.wf_bind hr fun s _ hs => ?_) _ h
  refine EngineRes.wf_foldl (fun r g hr => EngineRes.wf_bind hr fun s _ hs => ?_) _ hs
  refine EngineRes.wf_bind (State.wf_engineWriteLine hs) fun s _ hs => State.wf_updBucket ?_
  split
  · exact hs
  · exact State.wf_count hs

theorem State.wf_closeBucket {h n : Nat} (hs : s.mem.wf) : (s.closeBucket h n).mem.wf := by
  unfold State.closeBucket
  grind -linarith [State.wf_interrupt, State.wf_updPlan, State.wf_updBucket]

theorem State.wf_arriveBucket {h n : Nat} (hs : s.mem.wf) : (s.arriveBucket h n).mem.wf := by
  unfold State.arriveBucket
  grind -linarith [Arrival.wf, State.wf_engineArrive, State.wf_closeBucket, State.wf_updPlan, State.wf_parkBucket]

theorem State.wf_endBucket {h n : Nat} (hs : s.mem.wf) : (s.endBucket h n).mem.wf := by
  unfold State.endBucket
  grind -linarith [EngineRes.state, State.wf_arriveBucket, State.wf_updBucket, State.wf_updPlan, State.wf_parkBucket,
    State.wf_engineWrite]

theorem State.wf_resumeOwn {h n : Nat} (hs : s.mem.wf) : (s.resumeOwn h n).mem.wf := by
  unfold State.resumeOwn
  grind -linarith [State.wf_readOwn]

theorem wf_execHalyardBucketComplete {h n : Nat} (hs : s.mem.wf) : Out.wf (execHalyardBucketComplete h n s) := by
  unfold execHalyardBucketComplete
  grind -linarith [EngineRes.state, Out.wf, State.wf_rewriteLate, State.wf_resumeOwn, State.wf_endBucket, State.wf_failBucket,
    State.wf_writeResults, State.wf_parkBucket]

theorem wf_execHalyardPacketArrival {q : HalyardPacket} (h : s.mem.wf) : Out.wf (execHalyardPacketArrival q s) := by
  unfold execHalyardPacketArrival
  grind -linarith [Out.wf, State.wf_countHub, State.wf_takePacket, State.wf_updBucket]

theorem wf_execHalyardDeadlineExpiry {h : Nat} {a : DueBucket} (hs : s.mem.wf) : Out.wf (execHalyardDeadlineExpiry h a s) := by
  unfold execHalyardDeadlineExpiry
  grind -linarith [Out.wf, State.wf_startRound, State.wf_updBucket, State.wf_contribute]

theorem State.wf_drainPlan {h : Nat} {bs : List Bucket} (hs : s.mem.wf) : (s.drainPlan h bs).mem.wf := by
  unfold State.drainPlan
  grind -linarith [State.wf_endBucket, wf_foldl]

theorem wf_execPlanFreeDrainExpiry {h : Nat} (hs : s.mem.wf) : Out.wf (execPlanFreeDrainExpiry h s) := by
  unfold execPlanFreeDrainExpiry
  grind -linarith [Out.wf, State.wf_updBucket, State.wf_drainPlan, wf_foldl]

theorem wf_execPlanIndexQuarantineEnd {index : Nat} (h : s.mem.wf) : Out.wf (execPlanIndexQuarantineEnd index s) := by
  unfold execPlanIndexQuarantineEnd
  grind -linarith [Out.wf]

theorem wf_execHfire {f : KFields} (h : s.mem.wf) : Out.wf (execHfire f s) := by
  refine State.wf_issueParts h fun p who s hs => ?_
  grind -linarith [Res.wf, State.wf_fireBucket]

theorem wf_execHstat {f : KFields} (h : s.mem.wf) : Out.wf (execHstat f s) := State.wf_issueParts h fun _ _ _ ht => ht

theorem State.wf_halyardStore {page off width pasid : Nat} {v : Word} (h : s.mem.wf) :
    (s.halyardStore page off width pasid v).mem.wf := by
  unfold State.halyardStore
  grind -linarith [State.wf_countHub, State.wf_fireBucket]

theorem wf_execHalyardDoorbellStore {page off width pasid : Nat} {v : Word} (h : s.mem.wf) :
    Out.wf (execHalyardDoorbellStore page off width pasid v s) :=
  State.wf_halyardStore h

/-! ### I/O loads and stores (`Machine/Io`). -/

theorem State.wf_setCounter {c : Counter} (h : s.mem.wf) : (s.setCounter c).mem.wf := h

/-- Unfolded at its head only (`conv`): to compare the whole with its body the kernel would evaluate `ioPlace`. -/
theorem State.wf_ioLoad {ag : IoAgent} {pa n : Nat} (h : s.mem.wf) : (s.ioLoad ag pa n).1.mem.wf := by
  conv in State.ioLoad => delta State.ioLoad
  generalize ioPlace pa = place
  cases place with
  | reg _ | doorbell _ | halyard _ _ => exact h
  | guest | hole => exact State.wf_countHub h

theorem State.wf_doorbellWrite {off width pasid : Nat} {v : Word} (h : s.mem.wf) : (s.doorbellWrite off width pasid v).mem.wf := by
  unfold State.doorbellWrite
  grind -linarith [State.wf_countHub, State.wf_updQueue, State.wf_wakeDie]

theorem State.wf_counterStore {pasid bank n width : Nat} {v : Word} (h : s.mem.wf) : (s.counterStore pasid bank n width v).mem.wf := by
  unfold State.counterStore
  grind -linarith [State.wf_setCounter, State.wf_countHub]

/-- Unfolded at its head only (`conv`): to compare the whole with its body the kernel would evaluate `ioPlace`. -/
theorem State.wf_ioStore {pasid pa : Nat} {bytes : List Byte} (h : s.mem.wf) : (s.ioStore pasid pa bytes).mem.wf := by
  conv in State.ioStore => delta State.ioStore
  generalize ioPlace pa = place
  split
  · exact State.wf_doorbellWrite h
  · exact State.wf_halyardStore h
  · exact State.wf_counterStore h
  · exact State.wf_countHub h
  · exact State.wf_countHub h

/-! ### Memory instructions (`Machine/MemInstr`). -/

theorem State.wf_checkSites {t : Stream} {z : Nat} {acc : Access} {l : List Site} {missed : List (Word × Access × Nat)} (h : s.mem.wf) :
    sitesWf (s.checkSites t z acc l missed) := by
  induction l generalizing missed with
  | nil => unfold State.checkSites; grind -linarith [sitesWf, Res.wf]
  | cons p rest ih => unfold State.checkSites; grind -linarith [sitesWf, Res.wf]

theorem State.wf_reach {t : Stream} {z : Nat} {acc : Access} {sites : List Site} (h : s.mem.wf) :
    reachedWf (s.reach t z acc sites) := by
  have hc := State.wf_checkSites (t := t) (z := z) (acc := acc) (l := sites) (missed := []) h
  unfold State.reach
  split
  · next r e => rw [e] at hc; exact hc
  · exact wf_foldl (fun _ _ => State.wf_touchTlb) _ h

theorem State.wf_dataError {l k pa acc : Nat} (h : s.mem.wf) : (s.dataError l k pa acc).mem.wf := State.wf_lineError h

theorem State.wf_blockError {l k off : Nat} (h : s.mem.wf) : (s.blockError l k off).mem.wf := State.wf_addRecord h

theorem State.wf_sign {t : Stream} {lines : List LinePlace} (h : s.mem.wf) : (s.sign t lines).mem.wf :=
  State.wf_updStream (wf_foldl (fun _ _ => State.wf_updGang) _ h)

theorem State.wf_noteLoad {t : Stream} {ok : Bool} {lines : List LinePlace} {got : List (Nat × List Byte)} (h : s.mem.wf) :
    (s.noteLoad t ok lines got).mem.wf :=
  h

theorem wf_refusedLane {t : Stream} {acc : Access} {r : Reach} (h : s.mem.wf) : (refusedLane t acc r s).wf := by
  unfold refusedLane
  grind -linarith [Res.wf, State.wf_dropStores]

theorem wf_refusedLine {t : Stream} {acc : Access} {r : Reach} {n va : Nat} (h : s.mem.wf) : (refusedLine t acc r n va s).wf := by
  unfold refusedLine
  grind -linarith [Res.wf, State.wf_dropStores]

/-- By induction on the lanes that are left: the access of each keeps the form, and so does what finishes the instruction. -/
theorem wf_serve {t : Stream} {acc : Access} {act : Reach → State → Served} {fin : State → List (Nat × List Byte) → Res}
    {rs : List Reach} {ans : List (Nat × Option (List Byte))} (h : s.mem.wf) (hact : ∀ r s, s.mem.wf → (act r s).wf)
    (hfin : ∀ s bs, s.mem.wf → (fin s bs).wf) : (serve t acc act fin rs ans s).wf := by
  induction rs generalizing s ans with
  | nil => exact hfin _ _ h
  | cons r rest ih =>
    unfold serve
    grind -linarith [Res.wf, Served.wf, State.wf_updStream, wf_refusedLane]

theorem wf_refuseOwn {t : Stream} {acc : Access} {r : Reach} (h : s.mem.wf) : (refuseOwn s t acc r).wf :=
  wf_refusedLane (State.wf_countHub h)

/-- Unfolded at its head only (`conv`): to compare the whole with its body the kernel would evaluate `ioPlace`. -/
theorem wf_serveLoad {t : Stream} {z : Nat} {r : Reach} (h : s.mem.wf) : (serveLoad t z r s).wf := by
  conv in serveLoad => delta serveLoad
  generalize ioPlace r.x.pa = place
  have hfill : ∀ (s : State) (pasid pa : Nat), s.mem.wf → (match s.coreOf t.launch r.site.gang with
      | some c => s.fillLine c pasid pa
      | none => s).mem.wf := fun s pasid pa hs => by
    split
    · exact State.wf_fillLine hs
    · exact hs
  have hbad : ∀ line, (s.dataError t.launch r.site.gang line 0).mem.wf := fun line => State.wf_dataError h
  extract_lets bad pasid fill
  split
  · split
    · exact hbad _
    · split
      · exact hfill _ pasid _ h
      · exact h
  · split
    · split
      · exact wf_refuseOwn h
      · exact h
    · split
      · split
        · exact hbad _
        · exact hfill _ pasid _ h
      · split
        · exact h
        · split
          next e => exact wf_of_fst_eq e (State.wf_ioLoad h)

theorem wf_serveWrite {t : Stream} {acc : Access} {whole : Bool} {r : Reach} {pa : Nat} {data old : List Byte} (h : s.mem.wf) :
    (serveWrite t acc whole r pa data old s).wf := by
  unfold serveWrite
  grind -linarith [Logged.wf, Res.wf, Served.wf, State.wf_logLine, wf_refusedLine, State.wf_spoil, State.wf_storeLine]

/-- Unfolded at its head only (`conv`): to compare the whole with its body the kernel would evaluate `ioPlace`. -/
theorem wf_serveStore {t : Stream} {acc : Access} {all : List Reach} {r : Reach} (h : s.mem.wf) : (serveStore t acc all r s).wf := by
  conv in serveStore => delta serveStore
  generalize ioPlace r.x.pa = place
  grind -linarith [Logged.wf, Res.wf, Served.wf, wf_serveWrite, wf_refuseOwn, State.wf_aliasStore, wf_refusedLine, State.wf_ioStore]

theorem State.wf_logReaches {rs : List Reach} (h : s.mem.wf) : loggedAllWf (s.logReaches rs) := by
  refine loggedAllWf_foldl (fun r x hr => loggedAllWf_foldl (fun r pa hr => ?_) _ hr) _ h
  cases r with
  | inl s => grind -linarith [Logged.wf, loggedAllWf, State.wf_logLine]
  | inr x => exact hr

theorem wf_loadOp {w : BitVec 3} {t : Stream} {who : Who} {sites : List Site} {fin : State → List (Nat × List Byte) → State}
    (h : s.mem.wf) (hfin : ∀ s bs, s.mem.wf → (fin s bs).mem.wf) : (loadOp w t who sites fin s).wf := by
  unfold loadOp
  dsimp only
  split
  · next r e => exact show reachedWf (.error r) from e ▸ State.wf_reach h
  · next s rs e =>
    have hs : s.mem.wf := show reachedWf (.ok (s, rs)) from e ▸ State.wf_reach h
    split
    · split
      · rfl
      · split
        · exact hs
        · split
          · exact hs
          · refine wf_serve hs (fun r s => wf_serveLoad) fun s b hs => ?_
            split <;> exact State.wf_noteLoad (hfin _ _ hs)
    · split
      · rfl
      · split
        · exact hs
        · split
          · exact State.wf_dataError hs
          · refine hfin _ _ (State.wf_noteLoad ?_)
            have hf := wf_foldl (l := rs) (f := fun s r => match s.coreOf t.launch r.site.gang with
              | some c => s.fillLine c (s.pasidOf t.launch) r.x.pa
              | none => s) (fun s r hs => by split; exacts [State.wf_fillLine hs, hs]) hs
            split
            · exact State.wf_sign hf
            · exact hf

theorem wf_finVector {f : MFields} {t : Stream} {who : Who} {got : List (Nat × List Byte)} (h : s.mem.wf) :
    (finVector f t who s got).mem.wf := by
  unfold finVector
  grind -linarith [State.wf_writeRows]

theorem wf_finScalar {f : MFields} {p : Part} {who : Who} {got : List (Nat × List Byte)} (h : s.mem.wf) :
    (finScalar f p who s got).mem.wf := by
  unfold finScalar
  grind -linarith [State.wf_setS]

theorem wf_execLd {f : MFields} (h : s.mem.wf) : Out.wf (execLd f s) := by
  unfold execLd
  grind -linarith [Out.wf, Res.wf, State.wf_issue, State.wf_withRegs, wf_loadOp, wf_finVector]

theorem wf_execSld {f : MFields} (h : s.mem.wf) : Out.wf (execSld f s) := by
  unfold execSld
  grind -linarith [Out.wf, Res.wf, State.wf_issue, wf_onParts, wf_loadOp, wf_finScalar]

theorem wf_scratchFault {size z acc : Nat} {sites : List Site} : ∀ r, scratchFault size z acc sites = some r → r.wf := by
  intro r hr
  obtain ⟨p, _, hp⟩ := List.exists_of_findSome?_eq_some hr
  grind -linarith [Res.wf]

theorem wf_execLds {f : MFields} (h : s.mem.wf) : Out.wf (execLds f s) := by
  unfold execLds
  grind -linarith [Out.wf, Res.wf, State.wf_issue, State.wf_withRegs, wf_scratchFault, State.wf_blockError, State.wf_sign, wf_finVector,
    State.wf_noteLoad]

theorem State.wf_buffer {l : Nat} {es : List (Nat × StoreEntry)} (h : s.mem.wf) : (s.buffer l es).mem.wf :=
  wf_foldl (fun _ _ => State.wf_updGang) _ h

theorem wf_storeOp {z : Nat} {t : Stream} {who : Who} {sites : List Site} (h : s.mem.wf) : (storeOp z t who sites s).wf := by
  have hr := State.wf_reach (t := t) (z := z) (acc := .store) (sites := sites) h
  unfold storeOp
  split
  · next r e => rw [e] at hr; exact hr
  · next s rs e =>
    rw [e] at hr
    have hs : s.mem.wf := hr
    have := @wf_serve
    grind -linarith [Res.wf, loggedAllWf, wf_serve, wf_serveStore, State.wf_logReaches, wf_refusedLine, State.wf_buffer]

theorem wf_execSt {f : MFields} (h : s.mem.wf) : Out.wf (execSt f s) := by
  unfold execSt
  grind -linarith [Out.wf, Res.wf, State.wf_issue, State.wf_withRegs, wf_storeOp]

theorem wf_execSst {f : MFields} (h : s.mem.wf) : Out.wf (execSst f s) := by
  unfold execSst
  grind -linarith [Out.wf, Res.wf, State.wf_issue, wf_onParts, wf_storeOp]

theorem wf_execSts {f : MFields} (h : s.mem.wf) : Out.wf (execSts f s) := by
  unfold execSts
  grind -linarith [Out.wf, Res.wf, State.wf_issue, State.wf_withRegs, wf_scratchFault, State.wf_buffer, wf_foldl]

theorem wf_serveAtomic {t : Stream} {op z : Nat} {xy : Nat → Word × Word} {r : Reach} (h : s.mem.wf) :
    (serveAtomic t op z xy r s).wf := by
  unfold serveAtomic
  grind -linarith [Res.wf, Served.wf, wf_serveWrite, wf_refuseOwn]

theorem wf_atomicOp {op z : Nat} {t : Stream} {sites : List Site} {xy : Nat → Word × Word}
    {fin : State → List (Nat × List Byte) → State} (h : s.mem.wf) (hfin : ∀ s bs, s.mem.wf → (fin s bs).mem.wf) :
    (atomicOp op z t sites xy fin s).wf := by
  have hr := State.wf_reach (t := t) (z := z) (acc := .atomic) (sites := sites) h
  unfold atomicOp
  split
  · next r e => rw [e] at hr; exact hr
  · next s rs e =>
    rw [e] at hr
    have hs : s.mem.wf := hr
    grind -linarith [Res.wf, loggedAllWf, wf_serve, wf_serveAtomic, State.wf_logReaches, wf_refusedLine, State.wf_dataError]

theorem wf_vectorAtomic {z : Nat} {f : MFields} (h : s.mem.wf) : Out.wf (vectorAtomic z f s) := by
  unfold vectorAtomic
  grind -linarith [Out.wf, Res.wf, State.wf_issue, State.wf_withRegs, wf_atomicOp, State.wf_writeRows]

theorem wf_execAtom {f : MFields} (h : s.mem.wf) : Out.wf (execAtom f s) := wf_vectorAtomic h

theorem wf_execAtomx {f : MFields} (h : s.mem.wf) : Out.wf (execAtomx f s) := wf_vectorAtomic h

theorem wf_execSatom {f : MFields} (h : s.mem.wf) : Out.wf (execSatom f s) := by
  unfold execSatom
  grind -linarith [Out.wf, Res.wf, State.wf_issue, wf_onParts, wf_atomicOp, State.wf_setS]

theorem wf_execZero {f : MFields} (h : s.mem.wf) : Out.wf (execZero f s) := by
  refine State.wf_issue h fun t who s hs => State.wf_withRegs ?_
  have hr := State.wf_reach (t := t) (z := 64 * 2 ^ f.w.toNat) (acc := .zero)
    (sites := s.vectorSites t who.tick f (64 * 2 ^ f.w.toNat) fun _ => []) hs
  dsimp only
  split
  · next r e => rw [e] at hr; exact hr
  · next s rs e =>
    rw [e] at hr
    have hs : s.mem.wf := hr
    split
    · exact hs
    · exact wf_serve hs (fun _ _ => wf_serveStore) fun _ _ => id

theorem wf_execPref {f : MFields} (h : s.mem.wf) : Out.wf (execPref f s) := by
  refine State.wf_issue h fun t who s hs => ?_
  grind -linarith [Res.wf, State.wf_fillLine, wf_foldl]

theorem wf_execCommit {f : MFields} (h : s.mem.wf) : Out.wf (execCommit f s) := by
  refine State.wf_issue h fun _ who s hs => ?_
  grind -linarith [Res.wf]

theorem State.wf_fetchTrap {t : Stream} {cause : Nat} {info : Word} {s' : State} (h : s.mem.wf) (h2 : s'.mem.wf) :
    (s.fetchTrap t cause info s').wf := by
  unfold State.fetchTrap
  grind -linarith [Fetch.wf, State.wf_raiseWhenFlushed, State.wf_drainStep]

theorem State.wf_fetchLine {t : Stream} {core line : Nat} {pc : Word} (h : s.mem.wf) : (s.fetchLine t core line pc).wf := by
  unfold State.fetchLine
  grind -linarith [Fetch.wf, State.wf_fetchTrap, State.wf_dataError, State.wf_updStream, State.wf_readL2, State.wf_touchTlb,
    State.wf_joinMisses, State.wf_drainStep, State.wf_faulting, State.wf_addRecord]

theorem wf_execInstructionFetch {sid line : Nat} (h : s.mem.wf) : Out.wf (execInstructionFetch sid line s) := by
  unfold execInstructionFetch
  grind -linarith [Fetch.wf, Out.wf, State.wf_fetchLine]

theorem wf_execInstructionCommit {sid : Nat} (h : s.mem.wf) : Out.wf (execInstructionCommit sid s) := by
  unfold execInstructionCommit
  grind -linarith [Out.wf, State.wf_commitStep]

theorem wf_execRegisterResultReturn {l k n : Nat} (h : s.mem.wf) : Out.wf (execRegisterResultReturn l k n s) := by
  unfold execRegisterResultReturn
  grind -linarith [Out.wf, State.wf_countCore, State.wf_updGang]

theorem wf_execStoreVisibility {sid : Nat} (h : s.mem.wf) : Out.wf (execStoreVisibility sid s) := by
  unfold execStoreVisibility
  grind -linarith [Out.wf, State.wf_storeStep]

theorem wf_execRollback {l k : Nat} (h : s.mem.wf) : Out.wf (execRollback l k s) := State.wf_rollbackGang h

theorem State.wf_endMiss {m : TlbMiss} {r : Except XFail Xlat} (h : s.mem.wf) : (s.endMiss m r).mem.wf := h

theorem State.wf_walkMiss {m : TlbMiss} (h : s.mem.wf) : (s.walkMiss m).mem.wf := by
  unfold State.walkMiss
  grind -linarith [State.wf_endMiss, State.wf_markLeaf, State.wf_cacheWalk, State.wf_countCore, State.wf_installTlb, wf_foldl]

theorem wf_execPageWalk {sid : Nat} {va : Word} {write : Bool} (h : s.mem.wf) : Out.wf (execPageWalk sid va write s) := by
  unfold execPageWalk
  grind -linarith [Out.wf, State.wf_walkMiss]

theorem wf_execAliasReadDecode {a : AliasAsk} (h : s.mem.wf) : Out.wf (execAliasReadDecode a s) := by
  unfold execAliasReadDecode
  grind -linarith [Out.wf, State.wf_fillAlias]

theorem wf_execAliasWriteBack {sid : Nat} (h : s.mem.wf) : Out.wf (execAliasWriteBack sid s) := by
  unfold execAliasWriteBack
  grind -linarith [Out.wf, State.wf_storeStep]

/-- Memory takes the host's data of a line that the host had. -/
theorem wf_execHostSnoop {a : Snoop} (h : s.mem.wf) : Out.wf (execHostSnoop a s) := by
  have hd : ((s.dropL2 0 (lineOf a.pa)).dropL2 1 (lineOf a.pa)).mem.wf := State.wf_dropL2 (State.wf_dropL2 h)
  unfold execHostSnoop
  dsimp only
  split
  · exact h
  · refine State.wf_testSignatures (State.wf_touchWatch ?_)
    split
    · exact Memory.wf_write _ _ hd
    · exact hd

/-! ### Knot words (`Machine/Knots`). -/

theorem wf_knotTrap {reason : Nat} {h : Word} {k : Nat} : (knotTrap reason h k).wf := by
  unfold knotTrap
  grind -linarith [Res.wf]

theorem HandleFail.wf_res {e : HandleFail} {acc : Nat} {h : Word} {k : Nat} (hs : s.mem.wf) : (HandleFail.res e s acc h k).wf := by
  unfold HandleFail.res
  grind -linarith [Res.wf]

theorem wf_knotWord {f : KFields} {eff : Part → Who → Word → Nat → Knot → State → Res} (h : s.mem.wf)
    (heff : ∀ p w a n k s, s.mem.wf → (eff p w a n k s).wf) : Out.wf (knotWord f eff s) := by
  unfold knotWord
  grind -linarith [Out.wf, Res.wf, State.wf_issueParts, State.wf_handleAccess, HandleFail.wf_res, State.wf_takeLine]

theorem State.wf_withKnot {p : Part} {h : Word} {k : Knot} {eff : Res} (hs : eff.wf) : (s.withKnot p h k eff).wf := by
  unfold State.withKnot
  grind -linarith [Res.wf, wf_knotTrap]

theorem State.wf_leaveKnotAs {p : Part} {h : Word} {pa : Nat} {k : Knot} {go : State → Bool → Res} (hs : s.mem.wf)
    (hgo : ∀ s b, s.mem.wf → (go s b).wf) : (s.leaveKnotAs p h pa k go).wf := by
  unfold State.leaveKnotAs
  grind -linarith [Logged.wf, Res.wf, State.wf_settleKnot]

theorem State.wf_writeKnotAs {p : Part} {pa : Nat} {k : Knot} (h : s.mem.wf) : (s.writeKnotAs p pa k).wf := by
  unfold State.writeKnotAs
  grind -linarith [Logged.wf, Res.wf, State.wf_putKnot]

theorem State.wf_setMember {p : Part} {i : Nat} {m : Member} (h : s.mem.wf) : (s.setMember p i m).mem.wf := h

theorem wf_execKnew {f : KFields} (h : s.mem.wf) : Out.wf (execKnew f s) := by
  unfold execKnew
  grind -linarith [Out.wf, Res.wf, wf_knotWord, wf_knotTrap, State.wf_writeKnotAs]

theorem wf_execKjoin {f : KFields} (h : s.mem.wf) : Out.wf (execKjoin f s) := by
  unfold execKjoin
  grind -linarith [Out.wf, Res.wf, wf_knotWord, State.wf_withKnot, wf_knotTrap, State.wf_writeKnotAs, State.wf_setS, State.wf_setMember]

theorem wf_execKleave {f : KFields} (h : s.mem.wf) : Out.wf (execKleave f s) := by
  unfold execKleave
  grind -linarith [Out.wf, Res.wf, wf_knotWord, State.wf_withKnot, wf_knotTrap, State.wf_leaveKnotAs, State.wf_setMember]

theorem wf_arriveOp {f : KFields} {after : Part → Word → Nat → Knot → State → Bool → Res} {p : Part} {who : Who} {h : Word} {pa : Nat}
    {k : Knot} (hs : s.mem.wf) (hafter : ∀ p a n k s b, s.mem.wf → (after p a n k s b).wf) : (arriveOp f after p who h pa k s).wf := by
  unfold arriveOp
  grind -linarith [Res.wf, State.wf_withKnot, wf_knotTrap, State.wf_leaveKnotAs, State.wf_setS, State.wf_setMember]

theorem wf_execKarrive {f : KFields} (h : s.mem.wf) : Out.wf (execKarrive f s) := by
  unfold execKarrive
  grind -linarith [Out.wf, Res.wf, wf_knotWord, wf_arriveOp]

theorem State.wf_waitOn {p : Part} {h : Word} {pa gen : Nat} (hs : s.mem.wf) : (s.waitOn p h pa gen).wf := by
  unfold State.waitOn
  split
  · exact hs
  · split
    · exact State.wf_abortLaunch hs
    · next s x e =>
      dsimp only
      split
      · next t e' => exact show Res.wf (.done t) from e' ▸ State.wf_writeKnotAs (State.wf_storeHw (State.wf_engineAccess hs _ _ e))
      · exact State.wf_writeKnotAs (State.wf_storeHw (State.wf_engineAccess hs _ _ e))

theorem wf_execKwait {f : KFields} (h : s.mem.wf) : Out.wf (execKwait f s) := by
  unfold execKwait
  grind -linarith [Out.wf, Res.wf, wf_knotWord, State.wf_withKnot, State.wf_waitOn]

theorem wf_execKarrw {f : KFields} (h : s.mem.wf) : Out.wf (execKarrw f s) := by
  unfold execKarrw
  grind -linarith [Out.wf, Res.wf, wf_knotWord, wf_arriveOp, State.wf_waitOn]

theorem wf_execKfree {f : KFields} (h : s.mem.wf) : Out.wf (execKfree f s) := by
  unfold execKfree
  grind -linarith [Out.wf, Res.wf, wf_knotWord, State.wf_withKnot, wf_knotTrap, State.wf_writeKnotAs]

theorem wf_execKquery {f : KFields} (h : s.mem.wf) : Out.wf (execKquery f s) := by
  unfold execKquery
  grind -linarith [Out.wf, Res.wf, wf_knotWord, State.wf_withKnot, State.wf_setS]

theorem State.wf_arriveFor {kind : EngineKind} {pasid : Nat} {va : Word} (h : s.mem.wf) : (s.arriveFor kind pasid va).mem.wf := by
  unfold State.arriveFor
  grind -linarith [Arrival.wf, State.wf_engineArrive, State.wf_addRecord]

theorem wf_execEngineKnotArrival {kind : EngineKind} {pasid : Nat} {va : Word} (h : s.mem.wf) :
    Out.wf (execEngineKnotArrival kind pasid va s) := by
  unfold execEngineKnotArrival
  grind -linarith [Out.wf, State.wf_arriveFor]

/-! ### The scratchpad and extended blocks (`Machine/Scratch`). -/

theorem State.wf_wake {p : Stream → Bool} (h : s.mem.wf) : (s.wake p).mem.wf := h

theorem State.wf_wakeHeld (h : s.mem.wf) : s.wakeHeld.mem.wf := h

theorem State.wf_touchScratch {l sp lo hi : Nat} (h : s.mem.wf) : (s.touchScratch l sp lo hi).mem.wf :=
  State.wf_testSignatures (State.wf_touchWatch h)

theorem State.wf_wakeResize (h : s.mem.wf) : s.wakeResize.mem.wf := h

theorem wf_resizeOp {f : KFields} {p : Part} {who : Who} (h : s.mem.wf) : (resizeOp f p who s).wf := by
  unfold resizeOp
  grind -linarith [Res.wf, State.wf_setS, State.wf_updSplice, State.wf_trimL1, State.wf_touchScratch]

theorem wf_execResize {f : KFields} (h : s.mem.wf) : Out.wf (execResize f s) := State.wf_issueParts h fun _ _ _ ht => wf_resizeOp ht

theorem State.wf_giveBlock {core l k : Nat} (h : s.mem.wf) : (s.giveBlock core l k).mem.wf := h

theorem wf_execRacq {f : KFields} (h : s.mem.wf) : Out.wf (execRacq f s) := by
  refine State.wf_issueParts h fun p _ s hs => ?_
  grind -linarith [Res.wf, State.wf_giveBlock]

theorem wf_execRrel {f : KFields} (h : s.mem.wf) : Out.wf (execRrel f s) := by
  refine State.wf_issueParts h fun p _ s hs => ?_
  grind -linarith [Res.wf, State.wf_countCore, State.wf_updGang]

theorem wf_execExtendedBlockGrant {core : Nat} (h : s.mem.wf) : Out.wf (execExtendedBlockGrant core s) := by
  unfold execExtendedBlockGrant
  grind -linarith [Out.wf, State.wf_wake, State.wf_giveBlock, wf_foldl]

/-! ### Copy engines (`Machine/Copy`). -/

theorem State.wf_lockCopy {l sp seq : Nat} {p : Packet} {progress : Nat} {out : List Host.Cell} (h : s.mem.wf) :
    (s.lockCopy l sp seq p progress out).mem.wf :=
  h

theorem State.wf_updCoreCmd {seq : Nat} {f : CoreCmd → CoreCmd} (h : s.mem.wf) : (s.updCoreCmd seq f).mem.wf := h

theorem State.wf_updWork {e : EngineRef} {slot : Nat} {f : PacketWork → PacketWork} (h : s.mem.wf) : (s.updWork e slot f).mem.wf := by
  unfold State.updWork
  grind -linarith [State.wf_updCoreCmd, State.wf_updQueue]

theorem State.wf_updOwn {c : EngineCtx} {f : PacketWork → PacketWork} (h : s.mem.wf) : (s.updOwn c f).mem.wf := State.wf_updWork h

theorem State.wf_engineReach {c : EngineCtx} {a : Word} {acc : Access} (h : s.mem.wf) : (s.engineReach c a acc).state.mem.wf := by
  unfold State.engineReach
  grind -linarith [EngineRes.state, State.wf_engineAccess]

theorem State.wf_sourceError {α : Type} {c : EngineCtx} {line : Nat} (h : s.mem.wf) :
    (State.sourceError (α := α) s c line).state.mem.wf :=
  State.wf_lineError h

theorem State.wf_engineLoadLine {c : EngineCtx} {a : Word} (h : s.mem.wf) : (s.engineLoadLine c a).state.mem.wf := by
  unfold State.engineLoadLine
  grind -linarith [EngineRes.state, EngineRes.wf_bind, State.wf_engineReach, State.wf_sourceError, State.wf_fillAlias, State.wf_readL2]

theorem State.wf_engineLoadBlock {c : EngineCtx} {a : Nat} (h : s.mem.wf) : (s.engineLoadBlock c a).state.mem.wf := by
  unfold State.engineLoadBlock
  grind -linarith [EngineRes.state, State.wf_addRecord]

theorem State.wf_sourceLine {c : EngineCtx} {p : Packet} {a : Nat} (h : s.mem.wf) : (s.sourceLine c p a).state.mem.wf := by
  unfold State.sourceLine
  grind -linarith [EngineRes.state, EngineRes.wf_bind, State.wf_engineLoadBlock, State.wf_engineLoadLine, State.wf_updOwn]

theorem State.wf_sourceBytes {c : EngineCtx} {p : Packet} {a n : Nat} (h : s.mem.wf) : (s.sourceBytes c p a n).state.mem.wf :=
  EngineRes.wf_foldl (fun _ _ hr => EngineRes.wf_bind hr fun _ _ hs => EngineRes.wf_bind (State.wf_sourceLine hs) fun _ _ => id) _ h

theorem State.wf_countEngine {c : EngineCtx} {ev n : Nat} (h : s.mem.wf) : (s.countEngine c ev n).mem.wf := by
  unfold State.countEngine
  grind -linarith [State.wf_countCore]

theorem State.wf_makeCopy {c : EngineCtx} {p : Packet} {progress : Nat} (h : s.mem.wf) : (s.makeCopy c p progress).state.mem.wf := by
  unfold State.makeCopy
  grind -linarith [EngineRes.state, EngineRes.wf_bind, State.wf_sourceBytes]

theorem State.wf_makeQuant {c : EngineCtx} {p : Packet} {progress : Nat} (h : s.mem.wf) : (s.makeQuant c p progress).state.mem.wf := by
  unfold State.makeQuant
  grind -linarith [EngineRes.state, EngineRes.wf_bind, State.wf_sourceBytes, State.wf_countEngine]

theorem State.wf_makeDecode {c : EngineCtx} {p : Packet} {progress : Nat} (h : s.mem.wf) :
    (s.makeDecode c p progress).state.mem.wf := by
  unfold State.makeDecode
  grind -linarith [EngineRes.state, EngineRes.wf_bind, State.wf_sourceBytes, State.wf_countEngine]

theorem State.wf_make {c : EngineCtx} {p : Packet} {progress : Nat} (h : s.mem.wf) : (s.make c p progress).state.mem.wf := by
  unfold State.make
  grind -linarith [EngineRes.state, State.wf_makeCopy, State.wf_makeQuant, State.wf_makeDecode]

theorem State.wf_lineCells {c : EngineCtx} {p : Packet} {line : Nat} {old : List Byte} {cells : List Host.Cell} (h : s.mem.wf) :
    (s.lineCells c p line old cells).1.mem.wf := by
  unfold State.lineCells
  grind -linarith [State.wf_countEngine]

theorem State.wf_keepOver {c : EngineCtx} {p : Packet} {line : Nat} {old : List Byte} {cells : List Host.Cell} (h : s.mem.wf) :
    (s.keepOver c p line old cells).mem.wf := by
  unfold State.keepOver
  grind -linarith [State.wf_updOwn]

theorem State.wf_flushLine {c : EngineCtx} {p : Packet} {line : Nat} {cells : List Host.Cell} (h : s.mem.wf) :
    (s.flushLine c p line cells).state.mem.wf := by
  unfold State.flushLine
  grind -linarith [EngineRes.state, Logged.wf, EngineRes.wf_bind, State.wf_engineReach, State.wf_sourceError, State.wf_lineCells,
    State.wf_aliasStore, State.wf_keepOver, State.wf_logLine, State.wf_spoil, State.wf_storeLine]

theorem State.wf_flushBlock {c : EngineCtx} {p : Packet} {line : Nat} {cells : List Host.Cell} (h : s.mem.wf) :
    (s.flushBlock c p line cells).state.mem.wf := by
  unfold State.flushBlock
  grind -linarith [EngineRes.state, EngineRes.wf_bind, State.wf_engineLoadBlock, State.wf_lineCells, State.wf_keepOver,
    State.wf_storeScratch]

theorem State.wf_askTile {c : EngineCtx} {p : Packet} (h : s.mem.wf) : (s.askTile c p).mem.wf := by
  unfold State.askTile
  grind -linarith [State.wf_updCoreCmd, State.wf_tileRead]

theorem State.wf_payloadUnit {c : EngineCtx} {w : PacketWork} (h : s.mem.wf) : (s.payloadUnit c w).state.mem.wf := by
  unfold State.payloadUnit
  grind -linarith [EngineRes.state, EngineRes.wf_bind, State.wf_flushBlock, State.wf_flushLine, State.wf_updOwn, State.wf_make]

theorem wf_payload {c : EngineCtx} {n : Nat} (h : s.mem.wf) : (payload c n s).state.mem.wf := by
  induction n generalizing s with
  | zero => exact h
  | succ n ih =>
    unfold payload
    grind -linarith [EngineRes.state, EngineRes.wf_bind, State.wf_payloadUnit]

/-! ### Queues and packets (`Machine/Queues`). -/

theorem State.wf_parkWork {c : EngineCtx} {va : Word} {reason acc : Nat} (h : s.mem.wf) : (s.parkWork c va reason acc).mem.wf :=
  State.wf_updOwn (State.wf_addRecord h)

theorem State.wf_relock {c : EngineCtx} (h : s.mem.wf) : (s.relock c).mem.wf := by
  unfold State.relock
  grind -linarith [State.wf_wakeHeld, State.wf_lockCopy]

theorem State.wf_failWork {c : EngineCtx} (h : s.mem.wf) : (s.failWork c).mem.wf := by
  unfold State.failWork
  grind -linarith [State.wf_wakeHeld, State.wf_updOwn]

theorem State.wf_wakeFor {die : Option Nat} (h : s.mem.wf) : (s.wakeFor die).mem.wf := by
  unfold State.wakeFor
  grind -linarith [State.wf_wakeDie]

theorem State.wf_workPacket {cls : Nat} {e : EngineRef} {slot n : Nat} (h : s.mem.wf) : (s.workPacket cls e slot n).mem.wf := by
  unfold State.workPacket
  grind -linarith [EngineRes.state, wf_payload, State.wf_askTile, State.wf_wakeFor, State.wf_relock, State.wf_updOwn, State.wf_parkWork,
    State.wf_failWork]

theorem wf_execCopyPacket {e : EngineRef} {slot n : Nat} (h : s.mem.wf) : Out.wf (execCopyPacket e slot n s) := State.wf_workPacket h

theorem wf_execCopyQuantizePacket {e : EngineRef} {slot n : Nat} (h : s.mem.wf) : Out.wf (execCopyQuantizePacket e slot n s) :=
  State.wf_workPacket h

theorem wf_execCopyDecodePacket {e : EngineRef} {slot n : Nat} (h : s.mem.wf) : Out.wf (execCopyDecodePacket e slot n s) :=
  State.wf_workPacket h

theorem wf_execReduceCopyPacket {e : EngineRef} {slot n : Nat} (h : s.mem.wf) : Out.wf (execReduceCopyPacket e slot n s) :=
  State.wf_workPacket h

theorem wf_execFillPacket {e : EngineRef} {slot n : Nat} (h : s.mem.wf) : Out.wf (execFillPacket e slot n s) := State.wf_workPacket h

theorem State.wf_stampWrite {die : Option Nat} {pasid : Nat} {va val : Word} (h : s.mem.wf) :
    (s.stampWrite die pasid va val).state.mem.wf := by
  unfold State.stampWrite
  grind -linarith [EngineRes.state, State.wf_engineWriteLine]

theorem State.wf_stampLost {src : Word} {kind : EngineKind} {pasid : Nat} {va : Word} (h : s.mem.wf) :
    (s.stampLost src kind pasid va).mem.wf :=
  State.wf_interrupt (State.wf_addRecord h)

theorem State.wf_queueWrite {q : MemQueue} {va : Word} {bytes : List Byte} (h : s.mem.wf) : (s.queueWrite q va bytes).state.mem.wf :=
  State.wf_engineWriteLine h

theorem State.wf_queueStops {pasid hdr slot : Nat} (h : s.mem.wf) : (s.queueStops pasid hdr slot).mem.wf := h

theorem State.wf_queueDenied {q : MemQueue} {slot : Nat} {va : Word} (h : s.mem.wf) : (s.queueDenied q slot va).mem.wf :=
  State.wf_addRecord h

theorem State.wf_queueRefused {q : MemQueue} {slot : Nat} {va : Word} (h : s.mem.wf) : (s.queueRefused q slot va).mem.wf :=
  State.wf_queueStops (State.wf_queueDenied h)

theorem State.wf_stopAt {q : MemQueue} {w : PacketWork} (h : s.mem.wf) : (s.stopAt q w).mem.wf := by
  unfold State.stopAt
  grind -linarith [State.wf_interrupt, State.wf_addRecord, State.wf_queueStops]

theorem State.wf_rejectSlot {q : MemQueue} {w : PacketWork} (h : s.mem.wf) : (s.rejectSlot q w).mem.wf := by
  unfold State.rejectSlot
  grind -linarith [EngineRes.state, State.wf_queueWrite, State.wf_stopAt, State.wf_parkWork, State.wf_queueDenied]

theorem State.wf_retireSlot {q : MemQueue} {slot : Nat} (h : s.mem.wf) : (s.retireSlot q slot).mem.wf := by
  unfold State.retireSlot
  grind -linarith [EngineRes.state, State.wf_queueWrite, State.wf_parkWork, State.wf_queueRefused, State.wf_wake, State.wf_updQueue]

theorem State.wf_afterStamp {q : MemQueue} {w : PacketWork} (h : s.mem.wf) : (s.afterStamp q w).mem.wf := by
  unfold State.afterStamp
  grind -linarith [State.wf_updQueue, State.wf_rejectSlot, State.wf_retireSlot]

theorem State.wf_completeSlot {q : MemQueue} {slot : Nat} (h : s.mem.wf) : (s.completeSlot q slot).mem.wf := by
  unfold State.completeSlot
  grind -linarith [EngineRes.state, State.wf_afterStamp, State.wf_stampLost, State.wf_interrupt, State.wf_stampWrite, State.wf_parkWork]

theorem State.wf_fenceStamp {q : MemQueue} {w : PacketWork} (h : s.mem.wf) : (s.fenceStamp q w).mem.wf := by
  unfold State.fenceStamp
  grind -linarith [EngineRes.state, State.wf_updWork, State.wf_stampLost, State.wf_stampWrite, State.wf_parkWork]

theorem State.wf_storeErr {q : MemQueue} (h : s.mem.wf) : (s.storeErr q).mem.wf := by
  unfold State.storeErr
  grind -linarith [EngineRes.state, State.wf_updQueue, State.wf_fenceStamp, State.wf_queueWrite, State.wf_queueDenied]

theorem State.wf_endCoreCmd {seq : Nat} (h : s.mem.wf) : (s.endCoreCmd seq).mem.wf := h

theorem State.wf_closeCoreCmd {c : CoreCmd} (h : s.mem.wf) : (s.closeCoreCmd c).mem.wf := by
  unfold State.closeCoreCmd
  grind -linarith [State.wf_interrupt, State.wf_addRecord, State.wf_endCoreCmd, State.wf_reapLaunch]

theorem State.wf_completeCore {core seq : Nat} (h : s.mem.wf) : (s.completeCore core seq).mem.wf := by
  unfold State.completeCore
  grind -linarith [EngineRes.state, State.wf_closeCoreCmd, State.wf_stampLost, State.wf_stampWrite, State.wf_parkWork]

theorem wf_execPacketComplete {e : EngineRef} {slot : Nat} (h : s.mem.wf) : Out.wf (execPacketComplete e slot s) := by
  unfold execPacketComplete
  grind -linarith [Out.wf, State.wf_completeCore, State.wf_storeErr, State.wf_completeSlot]

theorem State.wf_fetchSlot {q : MemQueue} (h : s.mem.wf) : (s.fetchSlot q).mem.wf := by
  unfold State.fetchSlot
  grind -linarith [EngineRes.state, State.wf_wakeFor, State.wf_updQueue, State.wf_engineLoadLine, State.wf_parkWork]

theorem wf_execQueueSlotFetch {pasid hdr : Nat} (h : s.mem.wf) : Out.wf (execQueueSlotFetch pasid hdr s) := by
  unfold execQueueSlotFetch
  grind -linarith [Out.wf, State.wf_fetchSlot]

theorem wf_execDoorbellStore {a : DoorbellOffset} {width : Nat} {named : Option Nat} {v : Word} (h : s.mem.wf) :
    Out.wf (execDoorbellStore a width named v s) := by
  unfold execDoorbellStore
  grind -linarith [Out.wf, State.wf_doorbellWrite, State.wf_countHub]

theorem wf_queueTrap {reason : Nat} {va : Word} {k : Nat} : (queueTrap reason va k).wf := by
  unfold queueTrap
  grind -linarith [Res.wf]

theorem State.wf_keepOperands {sid : Nat} {ops : List Word} (h : s.mem.wf) : (s.keepOperands sid ops).mem.wf := h

theorem State.wf_submitted {p : Part} {who : Who} {d : BitVec 6} {v : Word} (h : s.mem.wf) : (s.submitted p who d v).wf := h

theorem wf_coreSubmit {d : BitVec 6} {pkt : Packet} {ops : List Word} {p : Part} {who : Who} (h : s.mem.wf) :
    (coreSubmit d pkt ops p who s).wf := by
  unfold coreSubmit
  grind -linarith [Res.wf, wf_queueTrap, State.wf_keepOperands, State.wf_lockCopy, State.wf_submitted]

theorem State.wf_claimSlot {p : Part} {pa i : Nat} (h : s.mem.wf) : (s.claimSlot p pa i).wf := by
  unfold State.claimSlot
  grind -linarith [Logged.wf, State.wf_logLine, State.wf_storeLine]

theorem State.wf_fillSlot {d : BitVec 6} {pkt : Packet} {ops : List Word} {p : Part} {who : Who} {pa slotPa i : Nat} (h : s.mem.wf) :
    (s.fillSlot d pkt ops p who pa slotPa i).wf := by
  unfold State.fillSlot
  grind -linarith [Logged.wf, Res.wf, State.wf_updStream, State.wf_keepOperands, State.wf_logLine, State.wf_storeLine,
    State.wf_doorbellWrite, State.wf_submitted]

theorem wf_queueSubmit {d : BitVec 6} {pkt : Packet} {h : Word} {ops : List Word} {p : Part} {who : Who} (hs : s.mem.wf) :
    (queueSubmit d pkt h ops p who s).wf := by
  unfold queueSubmit
  grind -linarith [Logged.wf, Res.wf, State.wf_handleAccess, HandleFail.wf_res, State.wf_keepOperands, wf_queueTrap, State.wf_claimSlot,
    State.wf_fillSlot]

theorem wf_submitOp {cls : Option Nat} {f : KFields} (h : s.mem.wf) : Out.wf (submitOp cls f s) := by
  unfold submitOp
  grind -linarith [Out.wf, Res.wf, State.wf_issue, State.wf_withRegs, wf_onParts, wf_coreSubmit, wf_queueSubmit]

theorem wf_execCpyCopy {f : KFields} (h : s.mem.wf) : Out.wf (execCpyCopy f s) := wf_submitOp h

theorem wf_execCpyQuant {f : KFields} (h : s.mem.wf) : Out.wf (execCpyQuant f s) := wf_submitOp h

theorem wf_execCpyDec {f : KFields} (h : s.mem.wf) : Out.wf (execCpyDec f s) := wf_submitOp h

theorem wf_execCpyRed {f : KFields} (h : s.mem.wf) : Out.wf (execCpyRed f s) := wf_submitOp h

theorem wf_execCpyFill {f : KFields} (h : s.mem.wf) : Out.wf (execCpyFill f s) := wf_submitOp h

theorem wf_execPkt {f : KFields} (h : s.mem.wf) : Out.wf (execPkt f s) := wf_submitOp h

theorem State.wf_watchAccess {core : Option Nat} {pasid : Nat} {a : Word} (h : s.mem.wf) :
    ∀ t x, s.watchAccess core pasid a = .ok (t, x) → t.mem.wf := by
  unfold State.watchAccess
  grind -linarith [State.wf_touchTlb, State.wf_markLeaf]

theorem wf_watchWord {f : KFields} {eff : Part → Who → Word → Nat → State → Res} (h : s.mem.wf)
    (heff : ∀ p w a n s, s.mem.wf → (eff p w a n s).wf) : Out.wf (watchWord f eff s) := by
  unfold watchWord
  grind -linarith [Out.wf, Res.wf, State.wf_issueParts, State.wf_watchAccess, HandleFail.wf_res]

theorem wf_execWarm {f : KFields} (h : s.mem.wf) : Out.wf (execWarm f s) := wf_watchWord h fun _ _ _ _ _ hs => State.wf_updGang hs

theorem wf_waitOp {ge : Bool} {f : KFields} (h : s.mem.wf) : Out.wf (waitOp ge f s) := by
  refine wf_watchWord h fun p who _ pa s hs => ?_
  grind -linarith [Res.wf, State.wf_setS, State.wf_enterWatch]

theorem wf_execWwait {f : KFields} (h : s.mem.wf) : Out.wf (execWwait f s) := wf_waitOp h

theorem wf_execWstamp {f : KFields} (h : s.mem.wf) : Out.wf (execWstamp f s) := wf_waitOp h

theorem State.wf_watchOn {t : Stream} {pa : Nat} (h : s.mem.wf) : (s.watchOn t pa).mem.wf := by
  unfold State.watchOn
  grind -linarith [State.wf_updStream, State.wf_readL2]

theorem State.wf_reload {t : Stream} (h : s.mem.wf) : (s.reload t).mem.wf := by
  unfold State.reload
  grind -linarith [State.wf_updStream, State.wf_watchOn]

theorem wf_execWatchReload {sid : Nat} (h : s.mem.wf) : Out.wf (execWatchReload sid s) := by
  unfold execWatchReload
  grind -linarith [Out.wf, State.wf_reload]

theorem wf_execWatchRecheckExpiry {sid : Nat} (h : s.mem.wf) : Out.wf (execWatchRecheckExpiry sid s) := by
  unfold execWatchRecheckExpiry
  grind -linarith [Out.wf, State.wf_reload]

/-! ### Matrix commands (`Machine/Matrix`). -/

theorem State.wf_storeTileLine {c : MatCmd} {a : Operand} {t : Tile} {i : Nat} (h : s.mem.wf) : (s.storeTileLine c a t i).mem.wf := by
  unfold State.storeTileLine
  grind -linarith [State.wf_storeScratch, State.wf_countCore, wf_foldl]

theorem State.wf_matEffect {c : MatCmd} (h : s.mem.wf) : (s.matEffect c).mem.wf := by
  unfold State.matEffect
  grind -linarith [State.wf_countCore, State.wf_updGang, State.wf_storeTileLine, wf_foldl]

theorem wf_execMatrixCommandStart {core seq : Nat} (h : s.mem.wf) : Out.wf (execMatrixCommandStart core seq s) := by
  unfold execMatrixCommandStart
  grind -linarith [Out.wf]

theorem wf_execMatrixCommandComplete {core seq : Nat} (h : s.mem.wf) : Out.wf (execMatrixCommandComplete core seq s) := by
  unfold execMatrixCommandComplete
  grind -linarith [Out.wf, State.wf_matEffect, State.wf_wake, State.wf_wakeHeld]

theorem wf_mapTrap {n : BitVec 3} {reason k : Nat} : (mapTrap n reason k).wf := by
  unfold mapTrap
  grind -linarith [Res.wf]

theorem wf_wholeGang {t : Stream} : ∀ r, wholeGang s t = some r → r.wf := by
  unfold wholeGang
  grind -linarith [Res.wf]

theorem wf_queueMatrix {p : Part} {g : Gang} {who : Who} {batch : Nat} {op : MatOp} {bytes : List Nat} {acc : Nat} {go : State → State}
    (h : s.mem.wf) (hgo : ∀ s, s.mem.wf → (go s).mem.wf) : (queueMatrix p g who batch op bytes acc s go).wf := by
  unfold queueMatrix
  grind -linarith [Res.wf, State.wf_blockError]

theorem wf_matWord {h : Bool} {eff : Part → Gang → Who → State → Res} (hs : s.mem.wf) (heff : ∀ p g w s, s.mem.wf → (eff p g w s).wf) :
    Out.wf (matWord h eff s) := by
  unfold matWord
  grind -linarith [Out.wf, Res.wf, State.wf_issue, wf_wholeGang]

theorem wf_tileBad {p : Part} {c : BitVec 6} : ∀ r, tileBad s p c = some r → r.wf := by
  unfold tileBad
  grind -linarith [Res.wf]

theorem State.wf_advanceMaps {p : Part} {am bm : BitVec 3} {ka kb : Nat} (h : s.mem.wf) : (s.advanceMaps p am bm ka kb).mem.wf := h

theorem wf_execMma {f : XFields} (h : s.mem.wf) : Out.wf (execMma f s) := by
  unfold execMma
  grind -linarith [Out.wf, Res.wf, wf_matWord, wf_tileBad, wf_mapTrap, wf_queueMatrix, State.wf_advanceMaps]

theorem wf_execMmas {f : XFields} (h : s.mem.wf) : Out.wf (execMmas f s) := by
  unfold execMmas
  grind -linarith [Out.wf, Res.wf, wf_matWord, wf_tileBad, wf_mapTrap, wf_queueMatrix, State.wf_advanceMaps]

theorem wf_execMmat {f : XFields} (h : s.mem.wf) : Out.wf (execMmat f s) := by
  unfold execMmat
  grind -linarith [Out.wf, Res.wf, wf_matWord, wf_tileBad, wf_mapTrap, wf_queueMatrix, State.wf_advanceMaps]

theorem wf_execMfence {f : XFields} (h : s.mem.wf) : Out.wf (execMfence f s) := by
  unfold execMfence
  grind -linarith [Out.wf, Res.wf, wf_matWord, wf_queueMatrix, State.wf_setS, State.wf_updGang]

theorem wf_execMwait {f : XFields} (h : s.mem.wf) : Out.wf (execMwait f s) := by
  refine wf_matWord h fun p g who s hs => ?_
  grind -linarith [Res.wf]

theorem wf_execAccld {f : XFields} (h : s.mem.wf) : Out.wf (execAccld f s) := by
  unfold execAccld
  grind -linarith [Out.wf, Res.wf, wf_matWord, wf_tileBad, wf_mapTrap, wf_queueMatrix]

theorem wf_execAccldZero {f : XFields} (h : s.mem.wf) : Out.wf (execAccldZero f s) := by
  unfold execAccldZero
  grind -linarith [Out.wf, Res.wf, wf_matWord, wf_tileBad, wf_queueMatrix]

theorem wf_execAccst {f : XFields} (h : s.mem.wf) : Out.wf (execAccst f s) := by
  unfold execAccst
  grind -linarith [Out.wf, Res.wf, wf_matWord, wf_tileBad, wf_mapTrap, wf_queueMatrix]

theorem wf_execOmset {f : XFields} (h : s.mem.wf) : Out.wf (execOmset f s) := by
  unfold execOmset
  grind -linarith [Out.wf, Res.wf, wf_matWord, wf_mapTrap, wf_queueMatrix, State.wf_updGang]

/-! ### The fabric (`Machine/Fabric`). -/

theorem State.wf_fabricError {pasid line : Nat} (h : s.mem.wf) : (s.fabricError pasid line).mem.wf := State.wf_lineError h

theorem State.wf_performLine {pasid pa : Nat} {op : FabricOp} (h : s.mem.wf) : (s.performLine pasid pa op).wf := by
  unfold State.performLine
  grind -linarith [Logged.wf, Performed.wf, State.wf_logLine, State.wf_storeLine, State.wf_fabricError]

theorem State.wf_performLines {pasid : Nat} {op : FabricOp} {reach : State → Nat → Nat → EngineRes Nat} {a : Nat} (h : s.mem.wf)
    (hreach : ∀ s n n', s.mem.wf → (reach s n n').state.mem.wf) : (s.performLines pasid op reach a).wf := by
  unfold State.performLines
  split
  · exact h
  · refine Performed.wf_foldl (fun r sp hr => ?_) _ h
    grind -linarith [EngineRes.state, Performed.wf, State.wf_performLine]

theorem State.wf_performVirtual {pasid : Nat} {a : Word} {op : FabricOp} (h : s.mem.wf) : (s.performVirtual pasid a op).wf := by
  unfold State.performVirtual
  grind -linarith [EngineRes.state, Performed.wf, State.wf_performLines, State.wf_engineLine]

theorem State.wf_performPhysical {pasid pa : Nat} {op : FabricOp} (h : s.mem.wf) : (s.performPhysical pasid pa op).wf := by
  refine State.wf_performLines h fun s a n hs => ?_
  split <;> exact hs

theorem State.wf_performDoorbell {pasid off : Nat} {op : FabricOp} (h : s.mem.wf) : (s.performDoorbell pasid off op).wf := by
  unfold State.performDoorbell
  grind -linarith [Performed.wf, State.wf_doorbellWrite]

theorem wf_execFabricRequestArrival {r : FabricRequest} (h : s.mem.wf) : Out.wf (execFabricRequestArrival r s) := by
  unfold execFabricRequestArrival
  grind -linarith [Out.wf, Performed.wf, State.wf_countHub, State.wf_performPhysical, State.wf_performVirtual, State.wf_performDoorbell]

theorem State.wf_retryHeld (h : s.mem.wf) : Out.wf s.retryHeld := by
  unfold State.retryHeld
  cases e : s.heldRequests.findSome? _ with
  | none => exact h
  | some o =>
    obtain ⟨r, _, hr⟩ := List.exists_of_findSome?_eq_some e
    have := wf_execFabricRequestArrival (s := { s with heldRequests := s.heldRequests.erase r }) (r := r) h
    grind -linarith

theorem State.wf_updXLane {seq l : Nat} {f : XLane → XLane} (h : s.mem.wf) : (s.updXLane seq l f).mem.wf := h

theorem State.wf_updXCmd {seq : Nat} {f : XCmd → XCmd} (h : s.mem.wf) : (s.updXCmd seq f).mem.wf := h

theorem State.wf_refuseLane {c : XCmd} {x : XLane} {reason : Nat} {va : Word} (h : s.mem.wf) : (s.refuseLane c x reason va).mem.wf :=
  State.wf_updXLane (State.wf_updXCmd (State.wf_addRecord h))

theorem State.wf_parkLane {c : XCmd} {l : Nat} {va : Word} {reason acc : Nat} (h : s.mem.wf) :
    (s.parkLane c l va reason acc).mem.wf :=
  State.wf_updXLane (State.wf_addRecord h)

theorem State.wf_takePieces {c : XCmd} {xs : List XLane} (h : s.mem.wf) : (s.takePieces c xs).mem.wf :=
  wf_foldl (fun _ _ => State.wf_updXLane) _ h

theorem State.wf_refuseLanes {c : XCmd} {reason : Nat} {lanes : List (Nat × Word)} (h : s.mem.wf) :
    (s.refuseLanes c reason lanes).mem.wf := by
  unfold State.refuseLanes
  grind -linarith [State.wf_refuseLane, wf_foldl]

theorem State.wf_scatterLine {pasid : Nat} {cells : List (Nat × Byte)} (h : s.mem.wf) : (s.scatterLine pasid cells).state.mem.wf := by
  unfold State.scatterLine
  grind -linarith [EngineRes.state, Logged.wf, EngineRes.wf_bind, State.wf_engineLine, State.wf_logLine, State.wf_storeLine]

theorem State.wf_putLine {c : XCmd} {h : Nat × Nat} (hs : s.mem.wf) : (s.putLine c h).mem.wf := by
  unfold State.putLine
  grind -linarith [EngineRes.state, Performed.wf, State.wf_performVirtual, State.wf_takePieces, State.wf_refuseLanes, State.wf_countHub,
    State.wf_scatterLine, State.wf_parkLane, wf_foldl]

theorem State.wf_laneAnswer {c : XCmd} {x : XLane} {r : FabricAnswer} (h : s.mem.wf) : (s.laneAnswer c x r).mem.wf := by
  unfold State.laneAnswer
  grind -linarith [State.wf_refuseLane, State.wf_updXLane]

theorem State.wf_askPeer {c : XCmd} {x : XLane} {op : FabricOp} (h : s.mem.wf) : (s.askPeer c x op).mem.wf := by
  unfold State.askPeer
  grind -linarith [Performed.wf, State.wf_performDoorbell, State.wf_performVirtual, State.wf_laneAnswer, State.wf_countHub,
    State.wf_updXLane]

theorem State.wf_stepLane {c : XCmd} {x : XLane} (h : s.mem.wf) : (s.stepLane c x).mem.wf := by
  unfold State.stepLane
  grind -linarith [EngineRes.state, State.wf_updXLane, State.wf_engineRead, State.wf_askPeer, State.wf_parkLane, State.wf_refuseLane,
    State.wf_fabricError]

theorem State.wf_endXCmd {seq : Nat} (h : s.mem.wf) : (s.endXCmd seq).mem.wf := h

theorem wf_execXnetComplete {seq : Nat} (h : s.mem.wf) : Out.wf (execXnetComplete seq s) := by
  unfold execXnetComplete
  grind -linarith [EngineRes.state, Out.wf, State.wf_stepLane, State.wf_putLine, State.wf_endXCmd, State.wf_stampLost,
    State.wf_stampWrite, State.wf_updXCmd, State.wf_addRecord]

theorem State.wf_stampCheck {core : Option Nat} {pasid : Nat} {sa : Word} (h : s.mem.wf) :
    ∀ t x, s.stampCheck core pasid sa = .ok (t, x) → t.mem.wf := by
  unfold State.stampCheck
  grind -linarith [State.wf_handleAccess]

theorem wf_xnetOp {op : Nat} {f : KFields} (h : s.mem.wf) : Out.wf (xnetOp op f s) := by
  unfold xnetOp
  grind -linarith [Out.wf, Res.wf, State.wf_issue, State.wf_withRegs, wf_onParts, State.wf_stampCheck, HandleFail.wf_res]

theorem wf_execXput {f : KFields} (h : s.mem.wf) : Out.wf (execXput f s) := wf_xnetOp h

theorem wf_execXget {f : KFields} (h : s.mem.wf) : Out.wf (execXget f s) := wf_xnetOp h

theorem wf_execXatom {f : KFields} (h : s.mem.wf) : Out.wf (execXatom f s) := wf_xnetOp h

theorem State.wf_answered {q : OutRequest} {r : FabricAnswer} (h : s.mem.wf) : (s.answered q r).mem.wf := by
  unfold State.answered
  dsimp only
  split
  · exact h
  · split
    · exact h
    · split
      · exact State.wf_updGang h
      · split
        · exact State.wf_dropStores h
        · exact State.wf_updGang h
  · split
    · exact h
    · split
      · exact State.wf_laneAnswer h
      · exact State.wf_refuseLanes h
      · exact h
  · exact State.wf_countCore h
  · split <;> exact h

theorem wf_execFabricResponseArrival {tag : Nat} {r : FabricAnswer} (h : s.mem.wf) : Out.wf (execFabricResponseArrival tag r s) := by
  unfold execFabricResponseArrival
  grind -linarith [Out.wf, State.wf_answered]

theorem wf_execFabricRequestTimeout {tag : Nat} (h : s.mem.wf) : Out.wf (execFabricRequestTimeout tag s) := by
  unfold execFabricRequestTimeout
  grind -linarith [Out.wf, State.wf_answered, State.wf_failBucket]

/-! ### Hardware queues (`Machine/Hwq`). -/

theorem State.wf_writeVa {pasid : Nat} {va : Word} {bs : List Byte} (h : s.mem.wf) : (s.writeVa pasid va bs).mem.wf :=
  State.wf_engineWrite h

theorem State.wf_unmapQueue {q : HwQueue} (h : s.mem.wf) : (s.unmapQueue q).mem.wf := State.wf_updHwq (State.wf_writeVa h)

theorem State.wf_mapQueue {q : HwQueue} (h : s.mem.wf) : (s.mapQueue q).mem.wf := h

theorem State.wf_mapOnSignal {q : HwQueue} (h : s.mem.wf) : (s.mapOnSignal q).mem.wf := by
  unfold State.mapOnSignal
  grind -linarith [State.wf_mapQueue, State.wf_unmapQueue, wf_foldl]

theorem wf_execHwQueueIdleUnmap {pasid desc : Nat} (h : s.mem.wf) : Out.wf (execHwQueueIdleUnmap pasid desc s) := by
  unfold execHwQueueIdleUnmap
  grind -linarith [Out.wf, State.wf_unmapQueue]

theorem State.wf_swapCounters {incoming : Nat} (h : s.mem.wf) : (s.swapCounters incoming).mem.wf := by
  refine wf_foldl (fun s c hs => ?_) _ h
  extract_lets owner s' saved s''
  have hw : s'.mem.wf := State.wf_writeVa hs
  clear_value s'
  have hw : s''.mem.wf := hw
  clear_value s'' saved
  cases saved with
  | none => exact hw
  | some va =>
    dsimp only
    split
    · next e => exact State.wf_setCounter (EngineRes.wf_of_ok e (State.wf_engineRead hw))
    · exact hw

theorem wf_execRunListTurn {die : Nat} (h : s.mem.wf) : Out.wf (execRunListTurn die s) := by
  unfold execRunListTurn
  split
  · cases s.wanted die with
    | none => exact h
    | some q => exact State.wf_mapOnSignal h
  · split
    · exact h
    · dsimp only
      split
      · exact h
      · refine State.wf_swapCounters (wf_foldl (fun s q hs => ?_) _ (wf_foldl (fun _ _ => State.wf_unmapQueue) _ h))
        split
        · exact hs
        · exact State.wf_mapQueue hs

theorem wf_hwqPart {f : KFields} {eff : Part → Who → HwQueue → State → Res} {p : Part} {who : Who} (h : s.mem.wf)
    (heff : ∀ p w q s, s.mem.wf → (eff p w q s).wf) : (hwqPart f eff p who s).wf := by
  unfold hwqPart
  grind -linarith [Res.wf, State.wf_handleAccess, HandleFail.wf_res, wf_queueTrap, State.wf_updHwq, State.wf_mapOnSignal]

theorem wf_hwqWord {f : KFields} {eff : Part → Who → HwQueue → State → Res} (h : s.mem.wf)
    (heff : ∀ p w q s, s.mem.wf → (eff p w q s).wf) : Out.wf (hwqWord f eff s) := by
  unfold hwqWord
  grind -linarith [Out.wf, Res.wf, State.wf_issueParts, wf_hwqPart]

theorem State.wf_setGroup {p : Part} {who : Who} {d : BitVec 6} {r : HwRecord} (h : s.mem.wf) : (s.setGroup p who d r).mem.wf :=
  State.wf_setS h

theorem wf_execQpush {f : KFields} (h : s.mem.wf) : Out.wf (execQpush f s) := by
  unfold execQpush
  grind -linarith [Out.wf, Res.wf, wf_hwqWord, State.wf_updStream, wf_queueTrap, State.wf_updHwq]

theorem wf_execQpop {f : KFields} (h : s.mem.wf) : Out.wf (execQpop f s) := by
  unfold execQpop
  grind -linarith [Out.wf, Res.wf, State.wf_issueParts, State.wf_setGroup, State.wf_updStream, wf_hwqPart, State.wf_updHwq]

theorem wf_execQtry {f : KFields} (h : s.mem.wf) : Out.wf (execQtry f s) := by
  refine wf_hwqWord h fun p who q s hs => ?_
  grind -linarith [Res.wf, State.wf_setS, State.wf_setGroup, State.wf_updHwq]

theorem wf_execQlen {f : KFields} (h : s.mem.wf) : Out.wf (execQlen f s) := wf_hwqWord h fun _ _ _ _ hs => State.wf_setS hs

theorem wf_execSpawn {f : KFields} (h : s.mem.wf) : Out.wf (execSpawn f s) := by
  unfold execSpawn
  grind -linarith [Out.wf, Res.wf, State.wf_issueParts, wf_queueTrap, State.wf_setS, State.wf_updLaunch]

/-! ### Checkpoint regions (`Machine/Checkpoint`). -/

theorem State.wf_putRegion {l i : Nat} {r : Region} (h : s.mem.wf) : (s.putRegion l i r).mem.wf := h

theorem PageFail.wf_res {e : PageFail} {p : Part} {status : Res} (h : s.mem.wf) (h2 : status.wf) : (PageFail.res e s p status).wf := by
  unfold PageFail.res
  grind -linarith [Res.wf]

theorem State.wf_status {p : Part} {who : Who} {d : BitVec 6} {n : Nat} (h : s.mem.wf) : (s.status p who d n).wf := h

theorem wf_execCkmark {f : KFields} (h : s.mem.wf) : Out.wf (execCkmark f s) := by
  refine State.wf_issueParts h fun p who s hs => ?_
  have status : ∀ {r v}, (Res.wf (s.status p who r v)) := State.wf_status hs
  split
  · exact hs
  · next x _ =>
    extract_lets n r base len log logLen pasid
    split
    · exact status
    · split
      · exact status
      · split
        · exact status
        · split
          · exact State.wf_status (State.wf_putRegion hs)
          · split
            · exact status
            · split
              · exact PageFail.wf_res hs status
              · split
                · exact status
                · split
                  · exact PageFail.wf_res hs status
                  · extract_lets r
                    split
                    · exact status
                    · split
                      · exact hs
                      · exact State.wf_status
                          (State.wf_setRegion (wf_foldl (fun _ _ hs => State.wf_markLeaf (State.wf_noteHint hs)) _ hs))

theorem wf_regionWord {f : KFields} {eff : Part → Who → Nat → Region → State → Res} (h : s.mem.wf)
    (heff : ∀ p w n r s, s.mem.wf → (eff p w n r s).wf) : Out.wf (regionWord f eff s) := by
  unfold regionWord
  grind -linarith [Out.wf, Res.wf, State.wf_issueParts, State.wf_status]

theorem wf_execCktake {f : KFields} (h : s.mem.wf) : Out.wf (execCktake f s) := by
  unfold execCktake
  grind -linarith [Out.wf, Res.wf, wf_regionWord, State.wf_status, State.wf_setRegion]

theorem wf_execCkdrop {f : KFields} (h : s.mem.wf) : Out.wf (execCkdrop f s) := by
  unfold execCkdrop
  grind -linarith [Out.wf, Res.wf, wf_regionWord, State.wf_status, State.wf_setRegion]

theorem wf_execCkroll {f : KFields} (h : s.mem.wf) : Out.wf (execCkroll f s) := by
  unfold execCkroll
  grind -linarith [Out.wf, Res.wf, wf_regionWord, State.wf_status, State.wf_stampCheck, HandleFail.wf_res, State.wf_setRegion]

theorem State.wf_restoreLines {pasid : Nat} {r : Region} (h : s.mem.wf) : (s.restoreLines pasid r).mem.wf :=
  wf_foldl (fun _ _ => State.wf_spoil) _ (wf_foldl (fun _ _ => State.wf_storeLine) _ h)

theorem State.wf_forgetEnded {l : Nat} (h : s.mem.wf) : (s.forgetEnded l).mem.wf := h

theorem State.wf_endRollback {l : Nat} (h : s.mem.wf) : (s.endRollback l).mem.wf := h

theorem State.wf_rollStamp {l i : Nat} {r : Region} (h : s.mem.wf) : (s.rollStamp l i r).mem.wf := by
  unfold State.rollStamp
  grind -linarith [EngineRes.state, State.wf_endRollback, State.wf_stampLost, State.wf_stampWrite, State.wf_putRegion,
    State.wf_addRecord]

theorem State.wf_afterRoll {x : Launch} {i : Nat} {r : Region} {header : Bool} (h : s.mem.wf) : (s.afterRoll x i r header).mem.wf := by
  unfold State.afterRoll
  grind -linarith [State.wf_putRegion, State.wf_setRegion]

theorem wf_execCkrollComplete {l i : Nat} (h : s.mem.wf) : Out.wf (execCkrollComplete l i s) := by
  unfold execCkrollComplete
  grind -linarith [Out.wf, State.wf_rollStamp, State.wf_afterRoll, State.wf_restoreLines]

/-! ### Saved gangs (`Machine/Saves`). -/

theorem State.wf_writePieces {pasid : Nat} {base : Word} {l : List (Nat × List Byte)} (h : s.mem.wf) :
    (s.writePieces pasid base l).state.mem.wf :=
  EngineRes.wf_foldl (fun _ _ hr => EngineRes.wf_bind hr fun _ _ => State.wf_engineWrite) _ h

theorem State.wf_readPieces {pasid : Nat} {base : Word} {l : List (Nat × Nat)} (h : s.mem.wf) :
    (s.readPieces pasid base l).state.mem.wf :=
  EngineRes.wf_foldl (fun _ _ hr => EngineRes.wf_bind hr fun _ _ hs => EngineRes.wf_bind (State.wf_engineRead hs) fun _ _ => id) _ h

/-! ### The scheduler (`Machine/Scheduler`). -/

theorem State.wf_startGang {x : Launch} {core k record : Nat} (h : s.mem.wf) : (s.startGang x core k record).mem.wf := h

theorem State.wf_dropMark {l sp : Nat} (h : s.mem.wf) : (s.dropMark l sp).mem.wf := h

theorem State.wf_stopEvictions {l sp : Nat} (h : s.mem.wf) : (s.stopEvictions l sp).mem.wf := h

theorem State.wf_unmark {l sp : Nat} (h : s.mem.wf) : (s.unmark l sp).mem.wf := by
  unfold State.unmark
  grind -linarith [State.wf_dropMark, State.wf_stopEvictions]

theorem State.wf_updMark {l sp : Nat} {f : WaitMark → WaitMark} (h : s.mem.wf) : (s.updMark l sp f).mem.wf := h

theorem State.wf_placeNew {x : Launch} {core : Nat} (h : s.mem.wf) : (s.placeNew x core).1.mem.wf := by
  unfold State.placeNew
  grind -linarith [State.wf_countHub, State.wf_updMark, State.wf_unmark, State.wf_startGang, State.wf_trimL1, State.wf_wakeDie,
    State.wf_updLaunch, wf_foldl]

theorem State.wf_recordFailed {l k : Nat} {ans : EngineRes Unit} (h : s.mem.wf) (h2 : ans.state.mem.wf) :
    (s.recordFailed l k ans).mem.wf := by
  unfold State.recordFailed
  grind -linarith [EngineRes.state, State.wf_abortLaunch, State.wf_dataError]

theorem State.wf_readScratch {l sp : Nat} (h : s.mem.wf) : (s.readScratch l sp).state.mem.wf := by
  unfold State.readScratch
  grind -linarith [EngineRes.state, EngineRes.wf_bind, State.wf_readPieces]

theorem State.wf_restoreGang {l k core : Nat} (h : s.mem.wf) : (s.restoreGang l k core).mem.wf := by
  unfold State.restoreGang
  grind -linarith [EngineRes.state, EngineRes.wf_bind, State.wf_readPieces, State.wf_readScratch, State.wf_updSplice, State.wf_updGang,
    State.wf_updStream, State.wf_trimL1, State.wf_wakeDie, State.wf_recordFailed, wf_foldl]

theorem State.wf_restoreSplice {l sp core : Nat} (h : s.mem.wf) : (s.restoreSplice l sp core).mem.wf := by
  unfold State.restoreSplice
  grind -linarith [State.wf_restoreGang, State.wf_unmark, wf_foldl]

theorem State.wf_splitWaiting {l k : Nat} (h : s.mem.wf) : (s.splitWaiting l k).mem.wf := by
  unfold State.splitWaiting
  grind -linarith [State.wf_splitParts, wf_foldl]

theorem State.wf_saveScratch {l sp : Nat} (h : s.mem.wf) : (s.saveScratch l sp).state.mem.wf := by
  unfold State.saveScratch
  grind -linarith [EngineRes.state, State.wf_writePieces]

theorem State.wf_saveBytes {g : Gang} (h : s.mem.wf) : (s.saveBytes g).state.mem.wf := by
  unfold State.saveBytes
  grind -linarith [EngineRes.state, EngineRes.wf_bind, State.wf_writePieces, State.wf_saveScratch]

theorem State.wf_leaveCore {l sp : Nat} (h : s.mem.wf) : (s.leaveCore l sp).mem.wf := h

theorem State.wf_vacate {g : Gang} (h : s.mem.wf) : (s.vacate g).mem.wf := by
  unfold State.vacate
  grind -linarith [State.wf_leaveCore, State.wf_countCore, State.wf_updGang, State.wf_updStream, wf_foldl]

theorem State.wf_settleGang {l k : Nat} (h : s.mem.wf) : (s.settleGang l k).mem.wf := by
  unfold State.settleGang
  grind -linarith [State.wf_updGang, State.wf_countCore]

theorem State.wf_commitWaiting {t : Stream} (h : s.mem.wf) : (s.commitWaiting t).mem.wf := by
  unfold State.commitWaiting
  grind -linarith [State.wf_commitStep, wf_foldl]

theorem State.wf_toCommitPoints {l k : Nat} (h : s.mem.wf) : (s.toCommitPoints l k).mem.wf := by
  unfold State.toCommitPoints
  grind -linarith [State.wf_commitWaiting, State.wf_flushCommitted, State.wf_rollbackGang, wf_foldl]

theorem State.wf_evictGang {l k : Nat} (h : s.mem.wf) : (s.evictGang l k).mem.wf := by
  unfold State.evictGang
  grind -linarith [EngineRes.state, State.wf_toCommitPoints, State.wf_splitWaiting, State.wf_updGang, State.wf_settleGang,
    State.wf_recordFailed, EngineRes.wf_bind, State.wf_saveBytes, State.wf_vacate]

theorem State.wf_chooseEvict {g : Gang} {for' : Option (Nat × Nat)} (h : s.mem.wf) : (s.chooseEvict g for').mem.wf :=
  State.wf_evictGang (State.wf_updGang h)

theorem State.wf_reserve {l sp : Nat} (h : s.mem.wf) : (s.reserve l sp).mem.wf := by
  unfold State.reserve
  grind -linarith [State.wf_updMark]

theorem State.wf_placeBack {l : Nat} {sp : Splice} (h : s.mem.wf) : (s.placeBack l sp).mem.wf := by
  unfold State.placeBack
  grind -linarith [State.wf_restoreSplice, State.wf_reserve]

theorem State.wf_placeFirst {l n : Nat} (h : s.mem.wf) : (s.placeFirst l n).mem.wf := by
  induction n generalizing s with
  | zero => exact h
  | succ n ih =>
    unfold State.placeFirst
    grind -linarith [State.wf_reserve, State.wf_placeNew]

theorem State.wf_placeLaunch {l : Nat} (h : s.mem.wf) : (s.placeLaunch l).mem.wf := by
  unfold State.placeLaunch
  grind -linarith [State.wf_placeBack, State.wf_placeFirst, State.wf_reserve, wf_foldl]

theorem State.wf_dropSplices (h : s.mem.wf) : s.dropSplices.mem.wf := h

theorem State.wf_placements (h : s.mem.wf) : s.placements.mem.wf :=
  wf_foldl (fun _ _ => State.wf_placeLaunch) _ (State.wf_dropSplices h)

theorem wf_execSpliceAged {l sp die : Nat} (h : s.mem.wf) : Out.wf (execSpliceAged l sp die s) := by
  unfold execSpliceAged
  grind -linarith [Out.wf, State.wf_placements, State.wf_updMark]

theorem State.wf_placeOn {x : Launch} {sp core : Nat} (h : s.mem.wf) : (s.placeOn x sp core).mem.wf := by
  unfold State.placeOn
  grind -linarith [State.wf_placeNew, State.wf_restoreSplice]

theorem State.wf_endPreemption {l sp : Nat} (h : s.mem.wf) : (s.endPreemption l sp).mem.wf := by
  unfold State.endPreemption
  grind -linarith [State.wf_stopEvictions, State.wf_updMark]

theorem State.wf_beginPreemption {l sp core : Nat} (h : s.mem.wf) : (s.beginPreemption l sp core).mem.wf :=
  State.wf_updMark (wf_foldl (fun _ _ => State.wf_rollbackGang) _ h)

theorem State.wf_preemptSplice {l sp core n : Nat} (h : s.mem.wf) : (s.preemptSplice l sp core n).mem.wf := by
  induction n generalizing s with
  | zero => exact h
  | succ n ih =>
    unfold State.preemptSplice
    grind -linarith [State.wf_endPreemption, State.wf_placeOn, State.wf_evictGang, State.wf_chooseEvict]

theorem State.wf_preemptCore {core : Nat} (h : s.mem.wf) : (s.preemptCore core).mem.wf :=
  wf_foldl (fun _ _ => State.wf_preemptSplice) _ h

theorem wf_execPlacementDecision (h : s.mem.wf) : Out.wf (execPlacementDecision s) :=
  State.wf_placements (wf_foldl (fun _ _ => State.wf_preemptCore) _ h)

theorem wf_execSplicePreemption {l : Nat} {a : PreemptingSplice} (h : s.mem.wf) : Out.wf (execSplicePreemption l a s) := by
  unfold execSplicePreemption
  grind -linarith [Out.wf, State.wf_preemptSplice, State.wf_beginPreemption]

theorem State.wf_bring {core : Nat} {a : Absent} (h : s.mem.wf) : (s.bring core a).mem.wf := by
  unfold State.bring
  grind -linarith [State.wf_placeNew, State.wf_restoreGang, State.wf_unmark]

theorem State.wf_bringChosen {core : Nat} {who : Option (Nat × Nat)} (h : s.mem.wf) : (s.bringChosen core who).mem.wf := by
  unfold State.bringChosen
  grind -linarith [State.wf_bring]

theorem State.wf_swap {core : Nat} {v : Gang} {a : Absent} (h : s.mem.wf) : (s.swap core v a).mem.wf := by
  unfold State.swap
  grind -linarith [State.wf_chooseEvict, State.wf_bringChosen]

theorem State.wf_guardGang {core : Nat} {a : Absent} (h : s.mem.wf) : (s.guardGang core a).mem.wf := by
  unfold State.guardGang
  dsimp only
  split_ifs <;> grind -linarith [State.wf_bring, State.wf_swap]

theorem State.wf_guard {core : Nat} (h : s.mem.wf) : (s.guard core).mem.wf := by
  unfold State.guard
  grind -linarith [State.wf_guardGang, wf_foldl]

theorem State.wf_freeBlockFor {core : Nat} (h : s.mem.wf) : (s.freeBlockFor core).mem.wf := by
  unfold State.freeBlockFor
  grind -linarith [State.wf_chooseEvict]

theorem State.wf_endOffers {core : Nat} (h : s.mem.wf) : (s.endOffers core).mem.wf := h

theorem State.wf_residency {core : Nat} (h : s.mem.wf) : (s.residency core).mem.wf := by
  unfold State.residency
  grind -linarith [State.wf_bring, State.wf_guard, State.wf_swap]

theorem wf_execResidencyDecision {core : Nat} (h : s.mem.wf) : Out.wf (execResidencyDecision core s) := by
  unfold execResidencyDecision
  grind -linarith [Out.wf, State.wf_endOffers, State.wf_residency, State.wf_freeBlockFor]

theorem State.wf_afterLeave {core : Nat} {who : Option (Nat × Nat)} (h : s.mem.wf) : (s.afterLeave core who).mem.wf := by
  unfold State.afterLeave
  grind -linarith [State.wf_preemptCore, State.wf_bringChosen]

theorem wf_execGangEviction {l k : Nat} (h : s.mem.wf) : Out.wf (execGangEviction l k s) := by
  unfold execGangEviction
  grind -linarith [Out.wf, State.wf_evictGang, State.wf_afterLeave]

theorem wf_execFairnessRotation {core l : Nat} (h : s.mem.wf) : Out.wf (execFairnessRotation core l s) := by
  unfold execFairnessRotation
  grind -linarith [Out.wf, State.wf_chooseEvict, State.wf_swap, wf_foldl]

theorem State.wf_finishGang {g : Gang} (h : s.mem.wf) : (s.finishGang g).mem.wf := by
  unfold State.finishGang
  grind -linarith [EngineRes.state, State.wf_leaveAll, State.wf_settleGang, State.wf_recordFailed, EngineRes.wf_bind,
    State.wf_saveScratch, State.wf_leaveCore, State.wf_dropSplices, State.wf_updLaunch, State.wf_afterLeave]

theorem wf_execGangFinish {l k : Nat} (h : s.mem.wf) : Out.wf (execGangFinish l k s) := by
  unfold execGangFinish
  grind -linarith [Out.wf, State.wf_reapLaunch, State.wf_flushCommitted, State.wf_storeStep, State.wf_finishGang, wf_foldl]

theorem wf_execLaunchPacket {pasid hdr slot : Nat} (h : s.mem.wf) : Out.wf (execLaunchPacket pasid hdr slot s) := by
  unfold execLaunchPacket
  grind -linarith [Out.wf, State.wf_updQueue]

theorem wf_execLaunchComplete {l : Nat} (h : s.mem.wf) : Out.wf (execLaunchComplete l s) := by
  unfold execLaunchComplete
  grind -linarith [Out.wf, State.wf_forgetEnded, State.wf_updLaunch, State.wf_dropSplices, State.wf_updQueue, State.wf_completeSlot]

theorem wf_execLaunchKill {l : Nat} (h : s.mem.wf) : Out.wf (execLaunchKill l s) := by
  unfold execLaunchKill
  grind -linarith [Out.wf, State.wf_abortLaunch]

theorem State.wf_goWithout {t : Stream} (h : s.mem.wf) : (s.goWithout t).mem.wf := by
  unfold State.goWithout
  grind -linarith [State.wf_updStream, State.wf_loseAnswer]

theorem State.wf_evictForced {l k : Nat} (h : s.mem.wf) : (s.evictForced l k).mem.wf := by
  unfold State.evictForced
  grind -linarith [State.wf_rollbackGang, State.wf_goWithout, State.wf_updGang, State.wf_countReused, State.wf_chooseEvict, wf_foldl]

theorem State.wf_failBad (h : s.mem.wf) : s.failBad.mem.wf := by
  unfold State.failBad
  grind -linarith [State.wf_abortLaunch, State.wf_addRecord, wf_foldl]

theorem wf_execPartitionReset {p : Nat} (h : s.mem.wf) : Out.wf (execPartitionReset p s) :=
  wf_foldl (fun _ _ => State.wf_evictForced) _ h

/-! ### Writes of I/O registers (`Machine/Registers`). -/

theorem State.wf_updIo {f : IoRegs → IoRegs} (h : s.mem.wf) : (s.updIo f).mem.wf := h

theorem State.wf_flushAlias {w : Win} (h : s.mem.wf) : (s.flushAlias w).mem.wf := by
  unfold State.flushAlias
  grind -linarith [State.wf_rollbackStreams, State.wf_storeStep, wf_foldl]

theorem State.wf_clearEn {n : Nat} (h : s.mem.wf) : (s.clearEn n).mem.wf := h

theorem State.wf_closeWindow {n : Nat} (h : s.mem.wf) : (s.closeWindow n).mem.wf := by
  unfold State.closeWindow
  grind -linarith [State.wf_clearEn, State.wf_flushAlias, State.wf_invalidateLines, State.wf_testSignatures]

theorem State.wf_disableWindow {n : Nat} (h : s.mem.wf) : (s.disableWindow n).mem.wf := State.wf_closeWindow (State.wf_updIo h)

theorem State.wf_closeWindows (h : s.mem.wf) : s.closeWindows.mem.wf := wf_foldl (fun _ _ => State.wf_closeWindow) _ h

theorem State.wf_writeFwCtl {n : Nat} {v : Word} (h : s.mem.wf) : (s.writeFwCtl n v).mem.wf := by
  unfold State.writeFwCtl
  dsimp only
  split_ifs
  · exact h
  · exact State.wf_disableWindow h
  all_goals exact State.wf_updIo h

theorem State.wf_writeFw {n : Nat} {f : FormatWindow → FormatWindow} (h : s.mem.wf) : (s.writeFw n f).mem.wf := by
  unfold State.writeFw
  grind -linarith [State.wf_updIo]

theorem wf_execFaultRecordPost (h : s.mem.wf) : Out.wf (execFaultRecordPost s) := by
  unfold execFaultRecordPost
  grind -linarith [Out.wf, State.wf_storeRaw, State.wf_snapTrigger]

theorem State.wf_tellGuest {m : GuestMessage} (h : s.mem.wf) : (s.tellGuest m).mem.wf := by
  unfold State.tellGuest
  grind -linarith

theorem State.wf_arriveAgain {o : OpenFault} {pasid : Nat} {va : Word} {retry : Bool} (h : s.mem.wf) :
    (s.arriveAgain o pasid va retry).mem.wf := by
  unfold State.arriveAgain
  grind -linarith [Arrival.wf, State.wf_countHub, State.wf_engineArrive, State.wf_addRecord]

theorem State.wf_resumeTarget {o : OpenFault} (h : s.mem.wf) : (s.resumeTarget o).mem.wf := by
  unfold State.resumeTarget
  grind -linarith [State.wf_wake, State.wf_updCoreCmd, State.wf_updQueue, State.wf_tellGuest, State.wf_updXCmd, State.wf_updXLane,
    State.wf_updBucket, State.wf_updLaunch, State.wf_arriveAgain]

theorem State.wf_failStream {o : OpenFault} {info : Word} {sid : Nat} (h : s.mem.wf) : (s.failStream o info sid).mem.wf := by
  unfold State.failStream
  grind -linarith [State.wf_updStream, State.wf_raiseTrap, State.wf_updGang, wf_foldl]

theorem State.wf_failSlot {pasid hdr slot : Nat} (h : s.mem.wf) : (s.failSlot pasid hdr slot).mem.wf := by
  unfold State.failSlot
  grind -linarith [State.wf_updWork, State.wf_stopAt, State.wf_queueDenied, State.wf_stampLost]

theorem State.wf_failCore {seq : Nat} (h : s.mem.wf) : (s.failCore seq).mem.wf := by
  unfold State.failCore
  grind -linarith [State.wf_closeCoreCmd, State.wf_stampLost, State.wf_failWork]

theorem State.wf_failHalyard {o : OpenFault} {h n : Nat} (hs : s.mem.wf) : (s.failHalyard o h n).mem.wf := by
  unfold State.failHalyard
  grind -linarith [State.wf_updBucket, State.wf_closeBucket, State.wf_updPlan, State.wf_countHub, State.wf_failBucket]

theorem State.wf_failTarget {o : OpenFault} (h : s.mem.wf) : (s.failTarget o).mem.wf := by
  unfold State.failTarget
  grind -linarith [State.wf_failStream, State.wf_failCore, State.wf_failSlot, State.wf_endXCmd, State.wf_stampLost, State.wf_refuseLane,
    State.wf_failHalyard, State.wf_endRollback, State.wf_afterRoll, State.wf_arriveAgain, State.wf_tellGuest, wf_foldl]

theorem State.wf_writeFresume {v : Word} (h : s.mem.wf) : (s.writeFresume v).mem.wf := by
  unfold State.writeFresume
  grind -linarith [State.wf_countHub, State.wf_updIo, State.wf_resumeTarget, State.wf_failTarget]

theorem State.wf_orCount {ok : Bool} {f : IoRegs → IoRegs} (h : s.mem.wf) : (s.orCount ok f).mem.wf := by
  unfold State.orCount
  grind -linarith [State.wf_updIo, State.wf_countHub]

theorem State.wf_fwStore {r : IoReg} {v : Word} (h : s.mem.wf) : (s.fwStore r v).mem.wf := by
  unfold State.fwStore
  grind -linarith [State.wf_updIo, State.wf_writeFw, State.wf_writeFwCtl, State.wf_orCount, State.wf_writeFresume, State.wf_snapTrigger,
    State.wf_countHub, State.wf_setCounter, State.wf_counterStore]

theorem State.wf_regStore {ag : IoAgent} {r : IoReg} {v : Word} (h : s.mem.wf) : (s.regStore ag r v).mem.wf := by
  unfold State.regStore
  grind -linarith [State.wf_counterStore, State.wf_countHub, State.wf_fwStore]

/-- Unfolded at its head only (`conv`): to compare the whole with its body the kernel would evaluate `ioPlace`. -/
theorem wf_execRegisterWrite {ag : IoAgent} {pa : Nat} {v : Word} (h : s.mem.wf) : Out.wf (execRegisterWrite ag pa v s) := by
  have hc := State.wf_countHub (pasid := ioPasid ag) h
  conv in execRegisterWrite => delta execRegisterWrite
  generalize ioPlace pa = place
  split
  · split
    · exact State.wf_regStore h
    · exact hc
  · exact hc

theorem wf_execIoHoleAccess {ag : IoAgent} {a : BusAccess} (h : s.mem.wf) : Out.wf (execIoHoleAccess ag a s) := by
  have hc := State.wf_countHub (pasid := ioPasid ag) h
  unfold execIoHoleAccess
  generalize ioPlace a.pa = place
  grind -linarith [Out.wf]

theorem wf_execMemcarveWrite {ag : IoAgent} {v : Word} (h : s.mem.wf) : Out.wf (execMemcarveWrite ag v s) := State.wf_regStore h

theorem wf_execL2mrgWrite {ag : IoAgent} {die : Nat} {v : Word} (h : s.mem.wf) : Out.wf (execL2mrgWrite ag die v s) :=
  State.wf_regStore h

theorem wf_execFwCtlEnable {ag : IoAgent} {n : Nat} {v : Word} (h : s.mem.wf) : Out.wf (execFwCtlEnable ag n v s) := State.wf_regStore h

theorem wf_execFwCtlDisable {ag : IoAgent} {n : Nat} {v : Word} (h : s.mem.wf) : Out.wf (execFwCtlDisable ag n v s) :=
  State.wf_regStore h

theorem wf_execQpoolWrite {ag : IoAgent} {core : Nat} {v : Word} (h : s.mem.wf) : Out.wf (execQpoolWrite ag core v s) :=
  State.wf_regStore h

theorem wf_execHarbWrite {ag : IoAgent} {stack : Nat} {v : Word} (h : s.mem.wf) : Out.wf (execHarbWrite ag stack v s) :=
  State.wf_regStore h

theorem wf_execRuqWrite {ag : IoAgent} {die : Nat} {v : Word} (h : s.mem.wf) : Out.wf (execRuqWrite ag die v s) := State.wf_regStore h

theorem wf_execSchctlWrite {ag : IoAgent} {die : Nat} {v : Word} (h : s.mem.wf) : Out.wf (execSchctlWrite ag die v s) :=
  State.wf_regStore h

theorem wf_execHqctlWrite {ag : IoAgent} {die : Nat} {v : Word} (h : s.mem.wf) : Out.wf (execHqctlWrite ag die v s) :=
  State.wf_regStore h

theorem wf_execFqctlWrite {ag : IoAgent} {v : Word} (h : s.mem.wf) : Out.wf (execFqctlWrite ag v s) := State.wf_regStore h

theorem wf_execFresumeRetry {ag : IoAgent} {v : Word} (h : s.mem.wf) : Out.wf (execFresumeRetry ag v s) := State.wf_regStore h

theorem wf_execFresumeFail {ag : IoAgent} {v : Word} (h : s.mem.wf) : Out.wf (execFresumeFail ag v s) := State.wf_regStore h

theorem wf_execWdctlWrite {ag : IoAgent} {die : Nat} {v : Word} (h : s.mem.wf) : Out.wf (execWdctlWrite ag die v s) :=
  State.wf_regStore h

theorem wf_execGsctlWrite {ag : IoAgent} {v : Word} (h : s.mem.wf) : Out.wf (execGsctlWrite ag v s) := State.wf_regStore h

theorem wf_execPowctlWrite {ag : IoAgent} {v : Word} (h : s.mem.wf) : Out.wf (execPowctlWrite ag v s) := State.wf_regStore h

theorem wf_execSnapctlArm {ag : IoAgent} {v : Word} (h : s.mem.wf) : Out.wf (execSnapctlArm ag v s) := State.wf_regStore h

theorem wf_execSnapshotTrigger {src : Nat} (h : s.mem.wf) : Out.wf (execSnapshotTrigger src s) := State.wf_snapTrigger h

theorem wf_execCounterValueStore {ag : IoAgent} {pasid bank n : Nat} {v : Word} (h : s.mem.wf) :
    Out.wf (execCounterValueStore ag pasid bank n v s) :=
  State.wf_counterStore h

theorem wf_execGuestRegisterAccess {tag : Nat} {a : BusAccess} (h : s.mem.wf) : Out.wf (execGuestRegisterAccess tag a s) := by
  have hc := State.wf_countHub (pasid := 0) h
  unfold execGuestRegisterAccess
  generalize ioPlace a.pa = place
  grind -linarith [Out.wf]

/-! ### The mailbox (`Machine/Mailbox`). -/

theorem State.wf_mbWrite {c : Mailbox} {off : Nat} {bytes : List Byte} (h : s.mem.wf) : (s.mbWrite c off bytes).mem.wf :=
  State.wf_storeHw h

theorem State.wf_mbEnd {c : Mailbox} {status : Nat} (h : s.mem.wf) : (s.mbEnd c status).mem.wf := State.wf_mbWrite h

theorem State.wf_mbRefuse {c : Mailbox} {reason : Nat} (h : s.mem.wf) : (s.mbRefuse c reason).mem.wf :=
  State.wf_mbEnd (State.wf_mbWrite h)

theorem State.wf_mbAnswer {c : Mailbox} {l : List (Nat × List Byte)} (h : s.mem.wf) : (s.mbAnswer c l).mem.wf :=
  State.wf_mbEnd (wf_foldl (fun _ _ => State.wf_mbWrite) _ h)

theorem State.wf_mbHold {c : Mailbox} (h : s.mem.wf) : (s.mbHold c).mem.wf := h

theorem State.wf_mbRun {c : Mailbox} {reasons : List (Nat × Bool)} {eff : State → State} (h : s.mem.wf)
    (heff : ∀ s, s.mem.wf → (eff s).mem.wf) : (s.mbRun c reasons eff).mem.wf := by
  unfold State.mbRun
  grind -linarith [State.wf_mbRefuse]

theorem State.wf_mbWhenFree {c : Mailbox} {held : Bool} {run : State → State} (h : s.mem.wf) (hrun : ∀ s, s.mem.wf → (run s).mem.wf) :
    (s.mbWhenFree c held run).mem.wf := by
  unfold State.mbWhenFree
  grind -linarith [State.wf_mbHold]

theorem State.wf_submit {c : Mailbox} {fits : Nat → Bool} {run : Mailbox → State → State} {go : State → State} (h : s.mem.wf)
    (hrun : ∀ c s, s.mem.wf → (run c s).mem.wf) (hgo : ∀ s, s.mem.wf → (go s).mem.wf) : (s.submit c fits run go).mem.wf := by
  unfold State.submit
  grind -linarith [State.wf_countHub]

/-! ### The guest socket (`Machine/Guest`). -/

theorem State.wf_updGuest {f : Guest → Guest} (h : s.mem.wf) : (s.updGuest f).mem.wf := h

theorem State.wf_queueOwes {pasid hdr : Nat} {works : MemQueue → List PacketWork} (h : s.mem.wf) :
    (s.queueOwes pasid hdr works).mem.wf := by
  unfold State.queueOwes
  grind -linarith [State.wf_updQueue, State.wf_storeErr, wf_foldl]

theorem State.wf_fenceQueue {q : MemQueue} (h : s.mem.wf) : (s.fenceQueue q).mem.wf := State.wf_queueOwes h

theorem State.wf_guestGone {queues : State → State} (h : s.mem.wf) (hqueues : ∀ s, s.mem.wf → (queues s).mem.wf) :
    (s.guestGone queues).mem.wf := by
  unfold State.guestGone
  grind -linarith [State.wf_updGuest, State.wf_wakeHeld, State.wf_countHub, State.wf_answered, State.wf_mbRefuse, wf_foldl]

theorem State.wf_fence {cause : Nat} (h : s.mem.wf) : (s.fence cause).mem.wf := by
  unfold State.fence
  grind -linarith [State.wf_updIo, State.wf_updGuest, State.wf_guestGone, State.wf_fenceQueue, State.wf_addRecord, State.wf_interrupt,
    wf_foldl]

theorem State.wf_guestSays {pasid : Nat} {eff : State → State} (h : s.mem.wf) (heff : ∀ s, s.mem.wf → (eff s).mem.wf) :
    Out.wf (s.guestSays pasid eff) := by
  unfold State.guestSays
  grind -linarith [Out.wf, State.wf_countHub, State.wf_fence]

theorem State.wf_guestAnswers {eff : State → State} (h : s.mem.wf) (heff : ∀ s, s.mem.wf → (eff s).mem.wf) :
    Out.wf (s.guestAnswers eff) := by
  unfold State.guestAnswers
  grind -linarith [Out.wf, State.wf_countHub]

theorem State.wf_guestDirties {pasid : Nat} {va : Word} (h : s.mem.wf) : (s.guestDirties pasid va).all (·.mem.wf) := by
  unfold State.guestDirties
  grind -linarith [State.wf_markLeaf]

theorem wf_execGuestTranslationRequest {pasid : Nat} {va : Word} {write : Bool} (h : s.mem.wf) :
    Out.wf (execGuestTranslationRequest pasid va write s) := by
  unfold execGuestTranslationRequest
  grind -linarith [Out.wf, State.wf_guestSays, State.wf_updGuest, State.wf_markLeaf, State.wf_noteHint]

theorem State.wf_guestRead {pasid : Nat} {va : Word} (h : s.mem.wf) : (s.guestRead pasid va).mem.wf := by
  unfold State.guestRead
  grind -linarith [State.wf_fence, State.wf_updGuest, State.wf_lineError, State.wf_shareOut]

theorem State.wf_guestOwn {pasid : Nat} {va : Word} (h : s.mem.wf) : (s.guestOwn pasid va).mem.wf := by
  unfold State.guestOwn
  grind -linarith [State.wf_fence, State.wf_guestDirties, State.wf_dropL2, State.wf_testSignatures, State.wf_updGuest]

theorem State.wf_guestStore {pa : Nat} {data : List Byte} (h : s.mem.wf) : (s.guestStore pa data).1.mem.wf := by
  unfold State.guestStore
  grind -linarith [Logged.wf, State.wf_updGuest, State.wf_wakeHeld, State.wf_logLine, State.wf_storeLine]

theorem State.wf_guestWrite {pasid : Nat} {va : Word} {data : List Byte} (h : s.mem.wf) : (s.guestWrite pasid va data).mem.wf := by
  unfold State.guestWrite
  grind -linarith [State.wf_fence, State.wf_guestStore, State.wf_tellGuest]

theorem State.wf_guestBegin {pasid hdr : Nat} (h : s.mem.wf) : (s.guestBegin pasid hdr).mem.wf := by
  unfold State.guestBegin
  split
  · exact State.wf_fence h
  · next q _ =>
    dsimp only
    split
    · exact State.wf_fence h
    · split
      · exact h
      · have hr := State.wf_engineRead (pasid := pasid) (a := q.slotVa q.next) (n := 64) h
        split
        · next e =>
          rw [e] at hr
          split
          · exact hr
          · exact State.wf_updQueue hr
        · exact h

theorem State.wf_guestEnd {pasid hdr slot : Nat} {reason : Option Nat} (h : s.mem.wf) : (s.guestEnd pasid hdr slot reason).mem.wf := by
  unfold State.guestEnd
  grind -linarith [State.wf_fence, State.wf_updWork, State.wf_completeSlot]

theorem wf_execGuestCoherentRequest {r : GuestRequest} (h : s.mem.wf) : Out.wf (execGuestCoherentRequest r s) := by
  unfold execGuestCoherentRequest
  grind -linarith [Out.wf, State.wf_guestSays, State.wf_guestOwn, State.wf_guestRead, State.wf_guestWrite, State.wf_guestBegin,
    State.wf_guestEnd, State.wf_countHub, State.wf_updGuest]

theorem wf_execGuestKnotArrival {pasid : Nat} {va : Word} (h : s.mem.wf) : Out.wf (execGuestKnotArrival pasid va s) := by
  unfold execGuestKnotArrival
  grind -linarith [Out.wf, State.wf_guestSays, State.wf_arriveFor]

theorem wf_execGuestFaultRecord {r : FaultRecord} (h : s.mem.wf) : Out.wf (execGuestFaultRecord r s) := by
  unfold execGuestFaultRecord
  grind -linarith [Out.wf, State.wf_guestSays, State.wf_fence, State.wf_addRecord, State.wf_queueOwes]

theorem wf_execGuestSaveAck {data : List Byte} (h : s.mem.wf) : Out.wf (execGuestSaveAck data s) := by
  unfold execGuestSaveAck
  grind -linarith [Out.wf, State.wf_guestAnswers, State.wf_fence, State.wf_storeHw, State.wf_updGuest, State.wf_mbEnd]

theorem wf_execGuestInvalidationAck (h : s.mem.wf) : Out.wf (execGuestInvalidationAck s) := by
  unfold execGuestInvalidationAck
  grind -linarith [Out.wf, State.wf_guestAnswers, State.wf_fence, State.wf_updGuest]

theorem wf_execGuestRecallAnswer {line : Nat} {data : List Byte} (h : s.mem.wf) : Out.wf (execGuestRecallAnswer line data s) := by
  unfold execGuestRecallAnswer
  grind -linarith [Out.wf, State.wf_guestAnswers, State.wf_fence, State.wf_guestStore]

theorem wf_execGuestRegisterAnswer {tag : Nat} {data : List Byte} (h : s.mem.wf) : Out.wf (execGuestRegisterAnswer tag data s) := by
  unfold execGuestRegisterAnswer
  grind -linarith [Out.wf, State.wf_guestAnswers, State.wf_answered, State.wf_fence]

theorem wf_execGuestSnoopTimeout {line : Nat} (h : s.mem.wf) : Out.wf (execGuestSnoopTimeout line s) := by
  unfold execGuestSnoopTimeout
  grind -linarith [Out.wf, State.wf_fence]

theorem wf_execGuestInvalidationTimeout (h : s.mem.wf) : Out.wf (execGuestInvalidationTimeout s) := by
  unfold execGuestInvalidationTimeout
  grind -linarith [Out.wf, State.wf_fence]

theorem wf_execGuestSaveTimeout (h : s.mem.wf) : Out.wf (execGuestSaveTimeout s) := by
  unfold execGuestSaveTimeout
  grind -linarith [Out.wf, State.wf_fence]

theorem wf_execGuestLinkDown (h : s.mem.wf) : Out.wf (execGuestLinkDown s) := State.wf_fence h

theorem wf_execGuestReset {who : GuestIdentity} (h : s.mem.wf) : Out.wf (execGuestReset who s) := by
  unfold execGuestReset
  grind -linarith [Out.wf, State.wf_guestGone, State.wf_updIo, State.wf_updGuest, State.wf_fence]

/-! ### Firmware commands (`Machine/Firmware`). -/

theorem State.wf_registerQueue {c : Mailbox} (h : s.mem.wf) : (s.registerQueue c).mem.wf := by
  unfold State.registerQueue
  extract_lets
  exact State.wf_mbWhenFree h fun s hs => State.wf_mbRun hs fun s hs => State.wf_mbEnd hs

theorem State.wf_onQueue {c : Mailbox} {eff : MemQueue → State → State} (h : s.mem.wf) (heff : ∀ q s, s.mem.wf → (eff q s).mem.wf) :
    (s.onQueue c eff).mem.wf := by
  unfold State.onQueue
  grind -linarith [State.wf_mbWhenFree, State.wf_mbRun]

theorem State.wf_deregisterGo {c : Mailbox} (h : s.mem.wf) : (s.deregisterGo c).mem.wf := by
  unfold State.deregisterGo
  grind -linarith [State.wf_mbEnd]

theorem State.wf_deregisterQueue {c : Mailbox} (h : s.mem.wf) : (s.deregisterQueue c).mem.wf := by
  unfold State.deregisterQueue
  grind -linarith [State.wf_onQueue, State.wf_deregisterGo, State.wf_mbHold, State.wf_updQueue]

theorem State.wf_clearGo {c : Mailbox} {q : MemQueue} (h : s.mem.wf) : (s.clearGo c q).mem.wf := by
  unfold State.clearGo
  grind -linarith [EngineRes.state, State.wf_mbEnd, State.wf_mbHold, State.wf_storeErr, State.wf_queueWrite, State.wf_wake,
    State.wf_updQueue, State.wf_queueDenied]

theorem State.wf_clearError {c : Mailbox} (h : s.mem.wf) : (s.clearError c).mem.wf := by
  unfold State.clearError
  grind -linarith [State.wf_onQueue, State.wf_clearGo]

theorem State.wf_regionsUnder {l base len : Nat} (h : s.mem.wf) : (s.regionsUnder l base len).mem.wf := by
  unfold State.regionsUnder
  grind -linarith [State.wf_setRegion, State.wf_putRegion, wf_foldl]

theorem State.wf_rewatch {t : Stream} (h : s.mem.wf) : (s.rewatch t).mem.wf := by
  unfold State.rewatch
  grind -linarith [State.wf_updStream, State.wf_updGang]

theorem State.wf_invalidateGo {c : Mailbox} (h : s.mem.wf) : (s.invalidateGo c).mem.wf := by
  unfold State.invalidateGo
  grind -linarith [State.wf_mbEnd]

theorem State.wf_invalidate {c : Mailbox} (h : s.mem.wf) : (s.invalidate c).mem.wf := by
  unfold State.invalidate
  grind -linarith [State.wf_mbRun, State.wf_rollbackGang, State.wf_rewatch, State.wf_regionsUnder, State.wf_updGuest,
    State.wf_tellGuest, State.wf_invalidateGo, State.wf_mbHold, wf_foldl]

theorem State.wf_removeHwq {c : Mailbox} {q : HwQueue} (h : s.mem.wf) : (s.removeHwq c q).mem.wf := by
  unfold State.removeHwq
  grind -linarith [EngineRes.state, State.wf_engineWrite, State.wf_mbHold, State.wf_mbEnd]

theorem State.wf_hardwareQueue {c : Mailbox} (h : s.mem.wf) : (s.hardwareQueue c).mem.wf := by
  unfold State.hardwareQueue
  grind -linarith [State.wf_mbWhenFree, State.wf_mbRun, State.wf_mbEnd, State.wf_removeHwq]

theorem State.wf_createPlan {c : Mailbox} (h : s.mem.wf) : (s.createPlan c).mem.wf := by
  unfold State.createPlan
  extract_lets
  exact State.wf_mbWhenFree h fun s hs => State.wf_mbRun hs fun s hs => State.wf_mbAnswer hs

theorem State.wf_freePlan {c : Mailbox} (h : s.mem.wf) : (s.freePlan c).mem.wf := by
  unfold State.freePlan
  grind -linarith [State.wf_mbRun, State.wf_mbEnd, State.wf_updPlan]

theorem State.wf_writeBufferEntry {c : Mailbox} (h : s.mem.wf) : (s.writeBufferEntry c).mem.wf := by
  unfold State.writeBufferEntry
  extract_lets
  exact State.wf_mbWhenFree h fun s hs => State.wf_mbRun hs fun s hs => State.wf_mbEnd hs

theorem State.wf_writeImport {c : Mailbox} (h : s.mem.wf) : (s.writeImport c).mem.wf := by
  unfold State.writeImport
  extract_lets
  exact State.wf_mbWhenFree h fun s hs => State.wf_mbRun hs fun s hs => State.wf_mbEnd hs

theorem State.wf_setWindow {c : Mailbox} (h : s.mem.wf) : (s.setWindow c).mem.wf := by
  unfold State.setWindow
  grind -linarith [State.wf_mbRun, State.wf_mbEnd, State.wf_fwStore]

theorem State.wf_writeContext {c : Mailbox} (h : s.mem.wf) : (s.writeContext c).mem.wf := by
  unfold State.writeContext
  grind -linarith [State.wf_mbWhenFree, State.wf_mbRun, State.wf_mbEnd, State.wf_storeHw]

theorem State.wf_stageImage {c : Mailbox} (h : s.mem.wf) : (s.stageImage c).mem.wf := by
  unfold State.stageImage
  grind -linarith [State.wf_mbWhenFree, State.wf_mbRun, State.wf_mbEnd]

theorem State.wf_commitSvn {c : Mailbox} (h : s.mem.wf) : (s.commitSvn c).mem.wf := by
  unfold State.commitSvn
  grind -linarith [State.wf_mbRun, State.wf_mbEnd]

theorem State.wf_preempt {c : Mailbox} (h : s.mem.wf) : (s.preempt c).mem.wf := by
  unfold State.preempt
  grind -linarith [State.wf_mbRun, State.wf_mbHold, State.wf_tellGuest, State.wf_updGuest]

theorem State.wf_reload' {c : Mailbox} (h : s.mem.wf) : (s.reload' c).mem.wf := by
  unfold State.reload'
  grind -linarith [State.wf_mbRun, State.wf_mbEnd, State.wf_tellGuest, State.wf_updGuest]

theorem State.wf_copyIdentity {c : Mailbox} (h : s.mem.wf) : (s.copyIdentity c).mem.wf := by
  unfold State.copyIdentity
  grind -linarith [State.wf_mbWhenFree, State.wf_mbRun, State.wf_mbEnd, State.wf_storeHw]

theorem State.wf_resolveRecord {c : Mailbox} (h : s.mem.wf) : (s.resolveRecord c).mem.wf := by
  unfold State.resolveRecord
  grind -linarith [State.wf_mbWhenFree, State.wf_mbRun, State.wf_storeHw, State.wf_mbEnd, State.wf_writeFresume]

theorem State.wf_writeCounter {c : Mailbox} (h : s.mem.wf) : (s.writeCounter c).mem.wf := by
  unfold State.writeCounter
  grind -linarith [State.wf_mbRun, State.wf_fwStore, State.wf_mbEnd, State.wf_setCounter]

theorem State.wf_writePartition {c : Mailbox} (h : s.mem.wf) : (s.writePartition c).mem.wf := by
  unfold State.writePartition
  grind -linarith [State.wf_mbRun, State.wf_mbEnd, State.wf_fwStore]

theorem State.wf_runOp {c : Mailbox} {op : Nat} (h : s.mem.wf) : (s.runOp c op).mem.wf := by
  unfold State.runOp
  grind -linarith [State.wf_registerQueue, State.wf_deregisterQueue, State.wf_clearError, State.wf_invalidate, State.wf_hardwareQueue,
    State.wf_createPlan, State.wf_freePlan, State.wf_writeBufferEntry, State.wf_writeImport, State.wf_setWindow, State.wf_writeContext,
    State.wf_stageImage, State.wf_commitSvn, State.wf_preempt, State.wf_reload', State.wf_copyIdentity, State.wf_resolveRecord,
    State.wf_writeCounter, State.wf_writePartition, State.wf_mbRefuse]

theorem State.wf_mailboxStep (h : s.mem.wf) : s.mailboxStep.mem.wf := by
  unfold State.mailboxStep
  grind -linarith [State.wf_deregisterGo, State.wf_invalidateGo, State.wf_runOp]

theorem State.wf_submitOp {c : Mailbox} {op : Nat} (h : s.mem.wf) : Out.wf (s.submitOp c op) := by
  unfold State.submitOp
  grind -linarith [Out.wf, State.wf_submit, State.wf_runOp, State.wf_mailboxStep]

theorem wf_execRegisterMemoryQueue {c : Mailbox} (h : s.mem.wf) : Out.wf (execRegisterMemoryQueue c s) := State.wf_submitOp h

theorem wf_execDeregisterMemoryQueue {c : Mailbox} (h : s.mem.wf) : Out.wf (execDeregisterMemoryQueue c s) := State.wf_submitOp h

theorem wf_execClearQueueError {c : Mailbox} (h : s.mem.wf) : Out.wf (execClearQueueError c s) := State.wf_submitOp h

theorem wf_execTranslationInvalidation {c : Mailbox} (h : s.mem.wf) : Out.wf (execTranslationInvalidation c s) := State.wf_submitOp h

theorem wf_execHardwareQueueRegistration {c : Mailbox} (h : s.mem.wf) : Out.wf (execHardwareQueueRegistration c s) :=
  State.wf_submitOp h

theorem wf_execCreateHalyardPlan {c : Mailbox} (h : s.mem.wf) : Out.wf (execCreateHalyardPlan c s) := State.wf_submitOp h

theorem wf_execFreeHalyardPlan {c : Mailbox} (h : s.mem.wf) : Out.wf (execFreeHalyardPlan c s) := State.wf_submitOp h

theorem wf_execWriteBufferTableEntry {c : Mailbox} (h : s.mem.wf) : Out.wf (execWriteBufferTableEntry c s) := State.wf_submitOp h

theorem wf_execWriteFabricImportEntry {c : Mailbox} (h : s.mem.wf) : Out.wf (execWriteFabricImportEntry c s) := State.wf_submitOp h

theorem wf_execSetFormatWindow {c : Mailbox} (h : s.mem.wf) : Out.wf (execSetFormatWindow c s) := State.wf_submitOp h

theorem wf_execWritePasidContext {c : Mailbox} (h : s.mem.wf) : Out.wf (execWritePasidContext c s) := State.wf_submitOp h

theorem wf_execStageFirmwareImage {c : Mailbox} (h : s.mem.wf) : Out.wf (execStageFirmwareImage c s) := State.wf_submitOp h

theorem wf_execCommitSecurityVersion {c : Mailbox} (h : s.mem.wf) : Out.wf (execCommitSecurityVersion c s) := State.wf_submitOp h

theorem wf_execPreemptGuest {c : Mailbox} (h : s.mem.wf) : Out.wf (execPreemptGuest c s) := State.wf_submitOp h

theorem wf_execReloadGuest {c : Mailbox} (h : s.mem.wf) : Out.wf (execReloadGuest c s) := State.wf_submitOp h

theorem wf_execCopyGuestIdentity {c : Mailbox} (h : s.mem.wf) : Out.wf (execCopyGuestIdentity c s) := State.wf_submitOp h

theorem wf_execResolveFaultRecord {c : Mailbox} (h : s.mem.wf) : Out.wf (execResolveFaultRecord c s) := State.wf_submitOp h

theorem wf_execWriteCounterControl {c : Mailbox} (h : s.mem.wf) : Out.wf (execWriteCounterControl c s) := State.wf_submitOp h

theorem wf_execWritePartitionConfig {c : Mailbox} (h : s.mem.wf) : Out.wf (execWritePartitionConfig c s) := State.wf_submitOp h

theorem wf_execMailboxUnlistedOp {c : Mailbox} (h : s.mem.wf) : Out.wf (execMailboxUnlistedOp c s) := by
  unfold execMailboxUnlistedOp
  grind -linarith [Out.wf, State.wf_submit, State.wf_mbRefuse, State.wf_mailboxStep]

/-! ### Host accesses, resets and power (`Machine/HostEvents`). -/

theorem State.wf_hostMem {a : BusAccess} (h : s.mem.wf) : (s.hostMem a).mem.wf := by
  unfold State.hostMem
  grind -linarith [Logged.wf, State.wf_countHub, State.wf_shareOut, State.wf_storeLogged, wf_foldl]

theorem State.wf_mbcmd {v : Word} (h : s.mem.wf) : (s.mbcmd v).mem.wf := by
  unfold State.mbcmd
  grind -linarith [State.wf_submit, State.wf_runOp, State.wf_mailboxStep]

theorem State.wf_hostBar0 {a : BusAccess} (h : s.mem.wf) : (s.hostBar0 a).mem.wf := by
  unfold State.hostBar0
  grind -linarith [State.wf_mbcmd]

theorem wf_execHostMemAccess {a : HostAccess} (h : s.mem.wf) : Out.wf (execHostMemAccess a s) := by
  unfold execHostMemAccess
  grind -linarith [Out.wf, State.wf_hostMem, State.wf_hostBar0]

/-- Every other field is reset; memory stays. -/
theorem wf_execModuleReset {st : SelfTest} (h : s.mem.wf) : Out.wf (execModuleReset st s) := by
  unfold execModuleReset
  grind -linarith [Out.wf]

theorem State.wf_emptyCaches {die : Nat} {hit : Nat → Bool} (h : s.mem.wf) : (s.emptyCaches die hit).mem.wf :=
  wf_foldl (fun _ _ => State.wf_evictL2) _ h

theorem State.wf_flushHost {die : Nat} (h : s.mem.wf) : (s.flushHost die).mem.wf := State.wf_emptyCaches h

theorem wf_execHostLineFlush {die : Nat} (h : s.mem.wf) : Out.wf (execHostLineFlush die s) := State.wf_flushHost h

/-- Memory takes back the bytes that the host last received of the lost lines. -/
theorem wf_execFatalReset {die : Nat} (h : s.mem.wf) : Out.wf (execFatalReset die s) := by
  unfold execFatalReset
  have hw := wf_foldl (f := fun (s : State) (x : HostLine) =>
    { s with mem := Memory.write s.mem x.pa x.old, lostLog := addLost s.lostLog x.pa })
    (fun _ x => Memory.wf_write x.old x.pa) (s.hostLines.filter (·.die == die)) h
  have he := State.wf_emptyCaches (die := die) (hit := fun _ => true) (State.wf_flushHost (die := die) hw)
  dsimp only
  split <;> exact he

theorem wf_execDiePowerGate {die : Nat} (h : s.mem.wf) : Out.wf (execDiePowerGate die s) := by
  unfold execDiePowerGate
  grind -linarith [Out.wf, State.wf_emptyCaches, State.wf_flushHost]

theorem wf_execDieWake {die : Nat} (h : s.mem.wf) : Out.wf (execDieWake die s) := h

theorem wf_execPowerWindow {watts : Nat} (h : s.mem.wf) : Out.wf (execPowerWindow watts s) := by
  unfold execPowerWindow
  grind -linarith [Out.wf]

/-! ### Time, fetch and the machine's own events (`Machine/Run`). -/

theorem State.wf_tick (h : s.mem.wf) : s.tick.mem.wf := h

theorem State.wf_forced (h : s.mem.wf) : s.forced.mem.wf := State.wf_failBad (wf_foldl (fun _ _ => State.wf_closePack) _ h)

theorem State.wf_fetchWord {t : Stream} {core n : Nat} (h : s.mem.wf) : (State.fetchWord t core n s).wf := by
  induction n generalizing s with
  | zero => exact h
  | succ n ih =>
    unfold State.fetchWord
    grind -linarith [Ready.wf, Fetch.wf, State.wf_fetchLine]

theorem wf_changed {o : Out} (h : Out.wf o) : (changed s o).all (·.mem.wf) := by
  unfold changed
  grind -linarith [Out.wf]

/-- The first event of a list that changes the state keeps the form when every event of the list does. -/
theorem wf_firstOf {es : List (State → Out)} (h : s.mem.wf) (h2 : ∀ ev ∈ es, Keeps ev) : (firstOf s es).all (·.mem.wf) := by
  induction es with
  | nil => rfl
  | cons e es ih =>
    have := wf_changed (s := s) (h2 e List.mem_cons_self s h)
    have := ih fun e he => h2 e (List.mem_cons_of_mem _ he)
    unfold firstOf
    grind -linarith

theorem State.wf_cacheEvents : ∀ ev ∈ s.cacheEvents, Keeps ev := by
  simp only [State.cacheEvents, List.forall_mem_append, List.forall_mem_map]
  refine ⟨?_, fun m _ s => State.wf_walkMiss, fun m _ s => State.wf_walkMiss⟩
  split
  · exact List.forall_mem_nil _
  · exact keeps_singleton fun s => State.wf_testDropped

theorem State.wf_streamEvents : ∀ ev ∈ s.streamEvents, Keeps ev := by
  simp only [State.streamEvents, List.forall_mem_append, List.forall_mem_map, List.forall_mem_flatMap, List.forall_mem_cons]
  refine ⟨fun g _ s => wf_execRegisterResultReturn,
    fun t _ => ⟨⟨⟨fun s => wf_execStoreVisibility, fun s => wf_execInstructionCommit, by simp⟩, ?_⟩, ?_⟩⟩
  · split
    · exact keeps_singleton fun s => wf_execWatchReload
    · exact List.forall_mem_nil _
  · split
    · split
      · exact keeps_singleton fun s => wf_execQueuePoolGrant
      · exact List.forall_mem_nil _
    · exact keeps_singleton fun s => State.wf_wakeResize
    · exact List.forall_mem_nil _

theorem wf_workEvents {e : EngineRef} {ws : List PacketWork} : ∀ ev ∈ workEvents e ws, Keeps ev := by
  simp only [workEvents, List.forall_mem_flatMap]
  intro w _
  split
  · exact keeps_singleton fun s => wf_execCopyPacket
  · exact keeps_singleton fun s => wf_execCopyQuantizePacket
  · exact keeps_singleton fun s => wf_execCopyDecodePacket
  · exact keeps_singleton fun s => wf_execReduceCopyPacket
  · exact keeps_singleton fun s => wf_execFillPacket
  · exact List.forall_mem_nil _

theorem State.wf_engineEvents : ∀ ev ∈ s.engineEvents, Keeps ev := by
  simp only [State.engineEvents, List.forall_mem_append, List.forall_mem_map, List.forall_mem_flatMap, List.forall_mem_cons]
  refine ⟨⟨⟨⟨⟨fun q _ => ⟨⟨⟨⟨?_, fun w _ s => wf_execPacketComplete⟩, wf_workEvents⟩, ?_⟩, fun s => wf_execQueueSlotFetch, by simp⟩,
    fun c _ => ⟨fun s => wf_execPacketComplete, wf_workEvents⟩⟩,
    fun c _ => ⟨fun s => wf_execMatrixCommandStart, fun s => wf_execMatrixCommandComplete, by simp⟩⟩,
    fun c _ s => wf_execXnetComplete⟩, fun p _ b _ s => wf_execHalyardBucketComplete⟩, fun x _ i _ s => wf_execCkrollComplete⟩
  · split
    · exact keeps_singleton fun s => wf_execPacketComplete
    · exact List.forall_mem_nil _
  · split
    · exact List.forall_mem_map.mpr fun w _ s => wf_execLaunchPacket
    · exact List.forall_mem_nil _

theorem State.wf_placeEvents : ∀ ev ∈ s.placeEvents, Keeps ev := by
  simp only [State.placeEvents, List.forall_mem_append, List.forall_mem_map, List.forall_mem_flatMap, List.forall_mem_cons]
  refine ⟨⟨⟨⟨⟨⟨fun g _ s => wf_execRegangCombine, fun g _ s => wf_execGangFinish⟩, fun g _ s => wf_execGangEviction⟩,
    fun x _ s => wf_execLaunchComplete⟩, fun s => wf_execFaultRecordPost, fun s => State.wf_mailboxStep, fun s => State.wf_retryHeld,
    fun s => State.wf_closeWindows, fun s => wf_execPlacementDecision, by simp⟩,
    fun c _ => ⟨fun s => wf_execExtendedBlockGrant, fun s => wf_execResidencyDecision, by simp⟩⟩, ?_⟩
  split
  · simpa using ⟨fun s => wf_execRunListTurn, fun s => wf_execRunListTurn⟩
  · exact List.forall_mem_nil _

theorem State.wf_idleEvents : ∀ ev ∈ s.idleEvents, Keeps ev := List.forall_mem_map.mpr fun _ _ _ => wf_execWatchRecheckExpiry

theorem State.wf_internal (h : s.mem.wf) : s.internal.mem.wf := by
  refine wf_getD (wf_firstOf h ?_) h
  simp only [List.forall_mem_append]
  exact ⟨⟨⟨⟨State.wf_cacheEvents, State.wf_streamEvents⟩, State.wf_engineEvents⟩, State.wf_placeEvents⟩, State.wf_idleEvents⟩

/-! ### Every instruction and event (`Machine/Dispatch`). -/

/-- Every instruction and event keeps the form: the lemma of its meaning, by constructor. -/
theorem wf_exec {i : Instr} (h : s.mem.wf) : Out.wf (exec i s) := by
  cases i with
  | nop => exact wf_execNop h
  | iadd16 _ => exact wf_execIadd16 h
  | isub16 _ => exact wf_execIsub16 h
  | and16 _ => exact wf_execAnd16 h
  | or16 _ => exact wf_execOr16 h
  | xor16 _ => exact wf_execXor16 h
  | shl16 _ => exact wf_execShl16 h
  | mov16 _ => exact wf_execMov16 h
  | fadd16 _ => exact wf_execFadd16 h
  | fsub16 _ => exact wf_execFsub16 h
  | fmul16 _ => exact wf_execFmul16 h
  | fmax16 _ => exact wf_execFmax16 h
  | imin16 _ => exact wf_execImin16 h
  | imax16 _ => exact wf_execImax16 h
  | sadd16 _ => exact wf_execSadd16 h
  | smov16 _ => exact wf_execSmov16 h
  | prefixedInstruction _ _ _ => exact wf_execPrefixedInstruction h
  | illegalInstruction _ => exact wf_execIllegalInstruction h
  | iadd _ => exact wf_execIadd h
  | isub _ => exact wf_execIsub h
  | iadds _ => exact wf_execIadds h
  | isubs _ => exact wf_execIsubs h
  | imul _ => exact wf_execImul h
  | imulh _ => exact wf_execImulh h
  | umulh _ => exact wf_execUmulh h
  | imad _ => exact wf_execImad h
  | imin _ => exact wf_execImin h
  | imax _ => exact wf_execImax h
  | umin _ => exact wf_execUmin h
  | umax _ => exact wf_execUmax h
  | iabs _ => exact wf_execIabs h
  | shl _ => exact wf_execShl h
  | shr _ => exact wf_execShr h
  | sar _ => exact wf_execSar h
  | and _ => exact wf_execAnd h
  | or _ => exact wf_execOr h
  | xor _ => exact wf_execXor h
  | andn _ => exact wf_execAndn h
  | popc _ => exact wf_execPopc h
  | clz _ => exact wf_execClz h
  | brev _ => exact wf_execBrev h
  | bfx _ => exact wf_execBfx h
  | bfi _ => exact wf_execBfi h
  | lea _ => exact wf_execLea h
  | icmpeq _ => exact wf_execIcmpeq h
  | icmplt _ => exact wf_execIcmplt h
  | icmpltu _ => exact wf_execIcmpltu h
  | sel _ => exact wf_execSel h
  | mov _ => exact wf_execMov h
  | fadd _ => exact wf_execFadd h
  | fsub _ => exact wf_execFsub h
  | fmul _ => exact wf_execFmul h
  | ffma _ => exact wf_execFfma h
  | fmin _ => exact wf_execFmin h
  | fmax _ => exact wf_execFmax h
  | fabs _ => exact wf_execFabs h
  | fneg _ => exact wf_execFneg h
  | fcmpeq _ => exact wf_execFcmpeq h
  | fcmplt _ => exact wf_execFcmplt h
  | fcmple _ => exact wf_execFcmple h
  | fcmpun _ => exact wf_execFcmpun h
  | frcp _ => exact wf_execFrcp h
  | frsq _ => exact wf_execFrsq h
  | fsqrt _ => exact wf_execFsqrt h
  | fexp2 _ => exact wf_execFexp2 h
  | flog2 _ => exact wf_execFlog2 h
  | fsin _ => exact wf_execFsin h
  | fcos _ => exact wf_execFcos h
  | ftanh _ => exact wf_execFtanh h
  | fround _ => exact wf_execFround h
  | fscale _ => exact wf_execFscale h
  | fclass _ => exact wf_execFclass h
  | fdot2 _ => exact wf_execFdot2 h
  | cvt _ => exact wf_execCvt h
  | cbld _ => exact wf_execCbld h
  | cbst _ => exact wf_execCbst h
  | shfl _ => exact wf_execShfl h
  | bcast _ => exact wf_execBcast h
  | perm _ => exact wf_execPerm h
  | mred _ => exact wf_execMred h
  | scan _ => exact wf_execScan h
  | red _ => exact wf_execRed h
  | ballot _ => exact wf_execBallot h
  | mset _ => exact wf_execMset h
  | movsv _ => exact wf_execMovsv h
  | movvs _ => exact wf_execMovvs h
  | first _ => exact wf_execFirst h
  | iota _ => exact wf_execIota h
  | sadd _ => exact wf_execSadd h
  | ssub _ => exact wf_execSsub h
  | smul _ => exact wf_execSmul h
  | sand _ => exact wf_execSand h
  | sor _ => exact wf_execSor h
  | sxor _ => exact wf_execSxor h
  | sshl _ => exact wf_execSshl h
  | sshr _ => exact wf_execSshr h
  | ssar _ => exact wf_execSsar h
  | scmp _ => exact wf_execScmp h
  | smov _ => exact wf_execSmov h
  | slea _ => exact wf_execSlea h
  | li _ => exact wf_execLi h
  | lih _ => exact wf_execLih h
  | getsr _ => exact wf_execGetsr h
  | setsr _ => exact wf_execSetsr h
  | ld _ => exact wf_execLd h
  | st _ => exact wf_execSt h
  | lds _ => exact wf_execLds h
  | sts _ => exact wf_execSts h
  | sld _ => exact wf_execSld h
  | sst _ => exact wf_execSst h
  | atom _ => exact wf_execAtom h
  | atomx _ => exact wf_execAtomx h
  | satom _ => exact wf_execSatom h
  | pref _ => exact wf_execPref h
  | zero _ => exact wf_execZero h
  | commit _ => exact wf_execCommit h
  | br _ => exact wf_execBr h
  | jmp _ => exact wf_execJmp h
  | jmpReg _ => exact wf_execJmpReg h
  | call _ => exact wf_execCall h
  | callReg _ => exact wf_execCallReg h
  | ret _ => exact wf_execRet h
  | regang _ => exact wf_execRegang h
  | yield _ => exact wf_execYield h
  | yieldContinuation _ => exact wf_execYieldContinuation h
  | exit _ => exact wf_execExit h
  | trap _ => exact wf_execTrap h
  | rte _ => exact wf_execRte h
  | brk _ => exact wf_execBrk h
  | mma _ => exact wf_execMma h
  | mmas _ => exact wf_execMmas h
  | mmat _ => exact wf_execMmat h
  | mfence _ => exact wf_execMfence h
  | mwait _ => exact wf_execMwait h
  | accld _ => exact wf_execAccld h
  | accldZero _ => exact wf_execAccldZero h
  | accst _ => exact wf_execAccst h
  | omset _ => exact wf_execOmset h
  | cpyCopy _ => exact wf_execCpyCopy h
  | cpyQuant _ => exact wf_execCpyQuant h
  | cpyDec _ => exact wf_execCpyDec h
  | cpyRed _ => exact wf_execCpyRed h
  | cpyFill _ => exact wf_execCpyFill h
  | pkt _ => exact wf_execPkt h
  | qpush _ => exact wf_execQpush h
  | qpop _ => exact wf_execQpop h
  | qtry _ => exact wf_execQtry h
  | qlen _ => exact wf_execQlen h
  | spawn _ => exact wf_execSpawn h
  | xput _ => exact wf_execXput h
  | xget _ => exact wf_execXget h
  | xatom _ => exact wf_execXatom h
  | hfire _ => exact wf_execHfire h
  | hstat _ => exact wf_execHstat h
  | knew _ => exact wf_execKnew h
  | kjoin _ => exact wf_execKjoin h
  | kleave _ => exact wf_execKleave h
  | karrive _ => exact wf_execKarrive h
  | kwait _ => exact wf_execKwait h
  | karrw _ => exact wf_execKarrw h
  | kfree _ => exact wf_execKfree h
  | kquery _ => exact wf_execKquery h
  | warm _ => exact wf_execWarm h
  | wwait _ => exact wf_execWwait h
  | wstamp _ => exact wf_execWstamp h
  | racq _ => exact wf_execRacq h
  | rrel _ => exact wf_execRrel h
  | resize _ => exact wf_execResize h
  | ckmark _ => exact wf_execCkmark h
  | cktake _ => exact wf_execCktake h
  | ckroll _ => exact wf_execCkroll h
  | ckdrop _ => exact wf_execCkdrop h
  | instructionFetch _ _ => exact wf_execInstructionFetch h
  | instructionCommit _ => exact wf_execInstructionCommit h
  | registerResultReturn _ _ _ => exact wf_execRegisterResultReturn h
  | storeVisibility _ => exact wf_execStoreVisibility h
  | rollback _ _ => exact wf_execRollback h
  | pageWalk _ _ _ => exact wf_execPageWalk h
  | aliasReadDecode _ => exact wf_execAliasReadDecode h
  | aliasWriteBack _ => exact wf_execAliasWriteBack h
  | hostSnoop _ => exact wf_execHostSnoop h
  | hostMemAccess _ => exact wf_execHostMemAccess h
  | ioHoleAccess _ _ => exact wf_execIoHoleAccess h
  | registerWrite ag pa v => exact (wf_execRegisterWrite h : Out.wf (execRegisterWrite ag pa v s))
  | memcarveWrite _ _ => exact wf_execMemcarveWrite h
  | l2mrgWrite _ _ _ => exact wf_execL2mrgWrite h
  | fwCtlEnable _ _ _ => exact wf_execFwCtlEnable h
  | fwCtlDisable _ _ _ => exact wf_execFwCtlDisable h
  | qpoolWrite _ _ _ => exact wf_execQpoolWrite h
  | harbWrite _ _ _ => exact wf_execHarbWrite h
  | ruqWrite _ _ _ => exact wf_execRuqWrite h
  | schctlWrite _ _ _ => exact wf_execSchctlWrite h
  | hqctlWrite _ _ _ => exact wf_execHqctlWrite h
  | fqctlWrite _ _ => exact wf_execFqctlWrite h
  | fresumeRetry _ _ => exact wf_execFresumeRetry h
  | fresumeFail _ _ => exact wf_execFresumeFail h
  | wdctlWrite _ _ _ => exact wf_execWdctlWrite h
  | gsctlWrite _ _ => exact wf_execGsctlWrite h
  | counterValueStore ag pasid bank n v => exact (wf_execCounterValueStore h : Out.wf (execCounterValueStore ag pasid bank n v s))
  | snapctlArm _ _ => exact wf_execSnapctlArm h
  | snapshotTrigger _ => exact wf_execSnapshotTrigger h
  | powctlWrite _ _ => exact wf_execPowctlWrite h
  | doorbellStore _ _ _ _ => exact wf_execDoorbellStore h
  | halyardDoorbellStore _ _ _ _ _ => exact wf_execHalyardDoorbellStore h
  | guestRegisterAccess _ _ => exact wf_execGuestRegisterAccess h
  | registerMemoryQueue _ => exact wf_execRegisterMemoryQueue h
  | deregisterMemoryQueue _ => exact wf_execDeregisterMemoryQueue h
  | clearQueueError _ => exact wf_execClearQueueError h
  | translationInvalidation _ => exact wf_execTranslationInvalidation h
  | hardwareQueueRegistration _ => exact wf_execHardwareQueueRegistration h
  | createHalyardPlan _ => exact wf_execCreateHalyardPlan h
  | freeHalyardPlan _ => exact wf_execFreeHalyardPlan h
  | writeBufferTableEntry _ => exact wf_execWriteBufferTableEntry h
  | writeFabricImportEntry _ => exact wf_execWriteFabricImportEntry h
  | setFormatWindow _ => exact wf_execSetFormatWindow h
  | writePasidContext _ => exact wf_execWritePasidContext h
  | stageFirmwareImage _ => exact wf_execStageFirmwareImage h
  | commitSecurityVersion _ => exact wf_execCommitSecurityVersion h
  | preemptGuest _ => exact wf_execPreemptGuest h
  | reloadGuest _ => exact wf_execReloadGuest h
  | copyGuestIdentity _ => exact wf_execCopyGuestIdentity h
  | resolveFaultRecord _ => exact wf_execResolveFaultRecord h
  | writeCounterControl _ => exact wf_execWriteCounterControl h
  | writePartitionConfig _ => exact wf_execWritePartitionConfig h
  | mailboxUnlistedOp _ => exact wf_execMailboxUnlistedOp h
  | queueSlotFetch _ _ => exact wf_execQueueSlotFetch h
  | copyPacket _ _ _ => exact wf_execCopyPacket h
  | copyQuantizePacket _ _ _ => exact wf_execCopyQuantizePacket h
  | copyDecodePacket _ _ _ => exact wf_execCopyDecodePacket h
  | reduceCopyPacket _ _ _ => exact wf_execReduceCopyPacket h
  | fillPacket _ _ _ => exact wf_execFillPacket h
  | packetComplete _ _ => exact wf_execPacketComplete h
  | launchPacket _ _ _ => exact wf_execLaunchPacket h
  | queuePoolGrant _ _ => exact wf_execQueuePoolGrant h
  | extendedBlockGrant _ => exact wf_execExtendedBlockGrant h
  | matrixCommandStart _ _ => exact wf_execMatrixCommandStart h
  | matrixCommandComplete _ _ => exact wf_execMatrixCommandComplete h
  | watchReload _ => exact wf_execWatchReload h
  | watchRecheckExpiry _ => exact wf_execWatchRecheckExpiry h
  | spinRecognised _ => exact wf_execSpinRecognised h
  | engineKnotArrival _ _ _ => exact wf_execEngineKnotArrival h
  | residencyDecision _ => exact wf_execResidencyDecision h
  | gangEviction _ _ => exact wf_execGangEviction h
  | fairnessRotation _ _ => exact wf_execFairnessRotation h
  | gangFinish _ _ => exact wf_execGangFinish h
  | launchComplete _ => exact wf_execLaunchComplete h
  | placementDecision => exact wf_execPlacementDecision h
  | spliceAged _ _ _ => exact wf_execSpliceAged h
  | splicePreemption _ _ => exact wf_execSplicePreemption h
  | packWindowClose _ _ _ => exact wf_execPackWindowClose h
  | regangCombine _ _ => exact wf_execRegangCombine h
  | deferredTrap _ => exact wf_execDeferredTrap h
  | watchdogExpiry _ => exact wf_execWatchdogExpiry h
  | faultRecordPost => exact wf_execFaultRecordPost h
  | hwQueueIdleUnmap _ _ => exact wf_execHwQueueIdleUnmap h
  | runListTurn _ => exact wf_execRunListTurn h
  | fabricRequestArrival _ => exact wf_execFabricRequestArrival h
  | fabricResponseArrival _ _ => exact wf_execFabricResponseArrival h
  | fabricRequestTimeout _ => exact wf_execFabricRequestTimeout h
  | xnetComplete _ => exact wf_execXnetComplete h
  | halyardPacketArrival _ => exact wf_execHalyardPacketArrival h
  | halyardBucketComplete _ _ => exact wf_execHalyardBucketComplete h
  | halyardDeadlineExpiry _ _ => exact wf_execHalyardDeadlineExpiry h
  | planFreeDrainExpiry _ => exact wf_execPlanFreeDrainExpiry h
  | planIndexQuarantineEnd _ => exact wf_execPlanIndexQuarantineEnd h
  | ckrollComplete _ _ => exact wf_execCkrollComplete h
  | moduleReset _ => exact wf_execModuleReset h
  | fatalReset _ => exact wf_execFatalReset h
  | hostLineFlush _ => exact wf_execHostLineFlush h
  | diePowerGate _ => exact wf_execDiePowerGate h
  | dieWake _ => exact wf_execDieWake h
  | powerWindow _ => exact wf_execPowerWindow h
  | guestReset _ => exact wf_execGuestReset h
  | guestCoherentRequest _ => exact wf_execGuestCoherentRequest h
  | guestKnotArrival _ _ => exact wf_execGuestKnotArrival h
  | guestTranslationRequest _ _ _ => exact wf_execGuestTranslationRequest h
  | guestFaultRecord _ => exact wf_execGuestFaultRecord h
  | guestSaveAck _ => exact wf_execGuestSaveAck h
  | guestSnoopTimeout _ => exact wf_execGuestSnoopTimeout h
  | guestInvalidationTimeout => exact wf_execGuestInvalidationTimeout h
  | guestSaveTimeout => exact wf_execGuestSaveTimeout h
  | guestLinkDown => exact wf_execGuestLinkDown h
  | launchKill _ => exact wf_execLaunchKill h
  | partitionReset _ => exact wf_execPartitionReset h
  | guestInvalidationAck => exact wf_execGuestInvalidationAck h
  | guestRecallAnswer _ _ => exact wf_execGuestRecallAnswer h
  | guestRegisterAnswer _ _ => exact wf_execGuestRegisterAnswer h

/-! ### The step (`Machine/Step`). -/

theorem wf_issueStep {t : Stream} (h : s.mem.wf) : Out.wf (issueStep t s) := by
  unfold issueStep
  grind -linarith [Out.wf, Ready.wf, wf_execDeferredTrap, wf_execSpinRecognised, State.wf_fetchWord, wf_exec]

/-- Time, what is due, and then an event of the agenda, an instruction, or one of the machine's own events. -/
theorem wf_step (h : s.mem.wf) : Out.wf (step s) := by
  unfold step
  grind -linarith [Out.wf, State.wf_forced, State.wf_tick, wf_exec, State.wf_internal, wf_issueStep]

/-- Settles O59: a step only tells time, closes what is due, and then runs one instruction or event, and each of these keeps the form. -/
theorem stepKeepsInv : Obligations.StepKeepsInv := by
  unfold Obligations.StepKeepsInv State.Inv
  intro s s' h e
  have hw : Out.wf (step s) := wf_step h
  rw [e] at hw
  exact hw

end Sys2Proof.Machine
end

section
/-! SUPPORT. Decoding and encoding agree on every instruction and every word (O57; spec/02_instruction_words.md R20 to R44).

A word is a number, and so each format is a sum of fields at their places; its slices give the fields back, and adjacent slices join to the
word again. With an equation of `decodeFormat` for each range of OP, an encoded word decodes to its instruction, and what a word decodes to
encodes to the word. -/

-- One declaration at a time: elaborated all at once, these proofs need more memory than the check has.
set_option Elab.async false

namespace Sys2Proof

/-! ### Words as numbers: slices and bits of a word, by division. -/

theorem toNat_append_add {m n : Nat} (x : BitVec m) (y : BitVec n) : (x ++ y).toNat = x.toNat * 2 ^ n + y.toNat := by
  rw [BitVec.toNat_append, ← Nat.shiftLeft_add_eq_or_of_lt y.isLt, Nat.shiftLeft_eq]

theorem toNat_slice {n : Nat} (w : BitVec n) (s l : Nat) : (w.extractLsb' s l).toNat = w.toNat / 2 ^ s % 2 ^ l := by
  rw [BitVec.extractLsb'_toNat, Nat.shiftRight_eq_div_pow]

theorem slice_eq_iff {n s l : Nat} {w : BitVec n} {x : BitVec l} : w.extractLsb' s l = x ↔ w.toNat / 2 ^ s % 2 ^ l = x.toNat := by
  rw [← BitVec.toNat_inj, toNat_slice]

theorem toNat_bit1 {n : Nat} (w : BitVec n) (i : Nat) : (bit1 w i).toNat = w.toNat / 2 ^ i % 2 := by
  rw [bit1, BitVec.getLsbD, Nat.toNat_testBit]

theorem bit1_eq_iff {n i : Nat} {w : BitVec n} {b : Bool} : bit1 w i = b ↔ w.toNat / 2 ^ i % 2 = b.toNat := by
  rw [← toNat_bit1]
  exact ⟨congrArg _, fun h => by cases b <;> cases h' : bit1 w i <;> simp_all⟩

/-! ### Each format (R23 to R40) as a number. -/

theorem toNat_encVR (op : BitVec 7) (f : VRFields) : (encVR op f).toNat =
    f.x.toNat * 2 ^ 30 + f.b.toNat * 2 ^ 24 + f.a.toNat * 2 ^ 18 + f.d.toNat * 2 ^ 12 + f.t.toNat * 2 ^ 9 + op.toNat * 2 ^ 2
      + f.h.toNat * 2 + 1 :=
  (toNat_append_add _ _).trans (by simp only [toNat_append_add, BitVec.toNat_ofBool, BitVec.toNat_ofNat]; omega)

theorem toNat_encSI (op : BitVec 7) (f : SIFields) : (encSI op f).toNat =
    f.imm.toNat * 2 ^ 16 + f.d.toNat * 2 ^ 10 + op.toNat * 2 ^ 2 + f.h.toNat * 2 + 1 :=
  (toNat_append_add _ _).trans (by simp only [toNat_append_add, BitVec.toNat_ofBool, BitVec.toNat_ofNat]; omega)

theorem toNat_encSR (op : BitVec 7) (f : SRFields) : (encSR op f).toNat =
    f.n.toNat * 2 ^ 24 + f.d.toNat * 2 ^ 10 + op.toNat * 2 ^ 2 + f.h.toNat * 2 + 1 :=
  (toNat_append_add _ _).trans (by simp only [toNat_append_add, BitVec.toNat_ofBool, BitVec.toNat_ofNat]; omega)

theorem toNat_encM (op : BitVec 7) (f : MFields) : (encM op f).toNat =
    f.mode.toNat * 2 ^ 30 + f.b.toNat * 2 ^ 24 + f.a.toNat * 2 ^ 18 + f.d.toNat * 2 ^ 12 + f.w.toNat * 2 ^ 9 + op.toNat * 2 ^ 2
      + f.h.toNat * 2 + 1 :=
  (toNat_append_add _ _).trans (by simp only [toNat_append_add, BitVec.toNat_ofBool, BitVec.toNat_ofNat]; omega)

theorem toNat_encBR (f : BRFields) : (encBR f).toNat =
    f.off.toNat * 2 ^ 18 + f.c.toNat * 2 ^ 13 + f.n.toNat * 2 ^ 12 + f.w.toNat * 2 ^ 11 + f.p.toNat * 2 ^ 10 + f.u.toNat * 2 ^ 9
      + 0x68 * 2 ^ 2 + f.h.toNat * 2 + 1 :=
  (toNat_append_add _ _).trans (by simp only [toNat_append_add, BitVec.toNat_ofBool, BitVec.toNat_ofNat]; omega)

theorem toNat_encJ (op : BitVec 7) (sub : BitVec 3) (f : JFields) : (encJ op sub f).toNat =
    f.imm.toNat * 2 ^ 18 + f.a.toNat * 2 ^ 12 + sub.toNat * 2 ^ 9 + op.toNat * 2 ^ 2 + f.h.toNat * 2 + 1 :=
  (toNat_append_add _ _).trans (by simp only [toNat_append_add, BitVec.toNat_ofBool, BitVec.toNat_ofNat]; omega)

theorem toNat_encX (op : BitVec 7) (sub : BitVec 3) (f : XFields) : (encX op sub f).toNat =
    f.sg.toNat * 2 ^ 31 + f.clr.toNat * 2 ^ 30 + f.aux.toNat * 2 ^ 24 + f.bm.toNat * 2 ^ 21 + f.am.toNat * 2 ^ 18 + f.c.toNat * 2 ^ 12
      + sub.toNat * 2 ^ 9 + op.toNat * 2 ^ 2 + f.h.toNat * 2 + 1 :=
  (toNat_append_add _ _).trans (by simp only [toNat_append_add, BitVec.toNat_ofBool, BitVec.toNat_ofNat]; omega)

theorem toNat_encK (op : BitVec 7) (sub : BitVec 3) (f : KFields) : (encK op sub f).toNat =
    f.b.toNat * 2 ^ 24 + f.a.toNat * 2 ^ 18 + f.d.toNat * 2 ^ 12 + sub.toNat * 2 ^ 9 + op.toNat * 2 ^ 2 + f.h.toNat * 2 + 1 :=
  (toNat_append_add _ _).trans (by simp only [toNat_append_add, BitVec.toNat_ofBool, BitVec.toNat_ofNat]; omega)

theorem toNat_encHalf (opc : BitVec 4) (f : HalfFields) : (encHalf opc f).toNat =
    f.a.toNat * 2 ^ 11 + f.d.toNat * 2 ^ 6 + opc.toNat * 2 ^ 2 + f.h.toNat * 2 :=
  (toNat_append_add _ _).trans (by simp only [toNat_append_add, BitVec.toNat_ofBool, BitVec.toNat_ofNat]; omega)

theorem toNat_encPrefix (p : Prefix) : (encPrefix p).toNat =
    p.sat.toNat * 2 ^ 24 + p.z.toNat * 2 ^ 23 + p.cv.toNat * 2 ^ 22 + p.c.toNat * 2 ^ 16 + p.mask.toNat * 2 ^ 12 + p.rnd.toNat * 2 ^ 9
      + 0x7F * 2 ^ 2 + 1 :=
  (toNat_append_add _ _).trans (by simp only [toNat_append_add, BitVec.toNat_ofBool, BitVec.toNat_ofNat]; omega)

/-! ### The fields of an encoded word are those it was made of. -/

/-- The fields of a 16-bit word (R23), as `decode16` takes them. -/
def halfFields (w : BitVec 16) : HalfFields := { a := w.extractLsb' 11 5, d := w.extractLsb' 6 5, h := bit1 w 1 }

theorem vrFields_encVR (op : BitVec 7) (f : VRFields) : vrFields (encVR op f) = f := by
  obtain ⟨x, b, a, d, t, h⟩ := f
  simp only [vrFields, VRFields.mk.injEq, slice_eq_iff, bit1_eq_iff, toNat_encVR]
  have := op.isLt
  have := h.toNat_lt
  refine ⟨?_, ?_, ?_, ?_, ?_, ?_⟩ <;> omega

theorem reserved_encSI (op : BitVec 7) (f : SIFields) : bit1 (encSI op f) 9 = false := by
  have := f.h.toNat_lt
  rw [bit1_eq_iff, toNat_encSI, Bool.toNat_false]
  omega

theorem reserved_encSR (op : BitVec 7) (f : SRFields) : bit1 (encSR op f) 9 = false ∧ (encSR op f).extractLsb' 16 8 = 0#8 := by
  have := f.h.toNat_lt
  rw [bit1_eq_iff, slice_eq_iff, toNat_encSR, Bool.toNat_false, BitVec.toNat_ofNat]
  omega

theorem reserved_encK (op : BitVec 7) (sub : BitVec 3) (f : KFields) : (encK op sub f).extractLsb' 30 2 = 0#2 := by
  have := f.h.toNat_lt
  rw [slice_eq_iff, toNat_encK, BitVec.toNat_ofNat]
  omega

theorem reserved_encPrefix (p : Prefix) : (encPrefix p).extractLsb' 25 7 = 0#7 ∧ bit1 (encPrefix p) 1 = false := by
  have := p.sat.toNat_lt
  have := p.z.toNat_lt
  have := p.cv.toNat_lt
  rw [bit1_eq_iff, slice_eq_iff, toNat_encPrefix, Bool.toNat_false, BitVec.toNat_ofNat]
  omega

theorem siFields_encSI (op : BitVec 7) (f : SIFields) : siFields (encSI op f) = some f := by
  obtain ⟨imm, d, h⟩ := f
  have := op.isLt
  have := h.toNat_lt
  simp only [siFields, reserved_encSI, Bool.false_eq_true, if_false, Option.some.injEq, SIFields.mk.injEq, slice_eq_iff, bit1_eq_iff, toNat_encSI]
  refine ⟨?_, ?_, ?_⟩ <;> omega

theorem srFields_encSR (op : BitVec 7) (f : SRFields) : srFields (encSR op f) = some f := by
  obtain ⟨n, d, h⟩ := f
  have := op.isLt
  have := h.toNat_lt
  simp only [srFields, reserved_encSR, bne_self_eq_false, Bool.or_self, Bool.false_eq_true, if_false, Option.some.injEq, SRFields.mk.injEq,
    slice_eq_iff, bit1_eq_iff, toNat_encSR]
  refine ⟨?_, ?_, ?_⟩ <;> omega

theorem mFields_encM (op : BitVec 7) (f : MFields) : mFields (encM op f) = f := by
  obtain ⟨mode, b, a, d, w, h⟩ := f
  have := op.isLt
  have := h.toNat_lt
  simp only [mFields, MFields.mk.injEq, slice_eq_iff, bit1_eq_iff, toNat_encM]
  refine ⟨?_, ?_, ?_, ?_, ?_, ?_⟩ <;> omega

theorem brFields_encBR (f : BRFields) : brFields (encBR f) = f := by
  obtain ⟨off, c, n, w, p, u, h⟩ := f
  have := h.toNat_lt
  have := u.toNat_lt
  have := p.toNat_lt
  have := w.toNat_lt
  have := n.toNat_lt
  simp only [brFields, BRFields.mk.injEq, slice_eq_iff, bit1_eq_iff, toNat_encBR]
  refine ⟨?_, ?_, ?_, ?_, ?_, ?_, ?_⟩ <;> omega

theorem jFields_encJ (op : BitVec 7) (sub : BitVec 3) (f : JFields) : jFields (encJ op sub f) = f := by
  obtain ⟨imm, a, h⟩ := f
  have := h.toNat_lt
  simp only [jFields, JFields.mk.injEq, slice_eq_iff, bit1_eq_iff, toNat_encJ]
  refine ⟨?_, ?_, ?_⟩ <;> omega

theorem xFields_encX (op : BitVec 7) (f : XFields) : xFields (encX op f.sub f) = f := by
  obtain ⟨sg, clr, aux, bm, am, c, sub, h⟩ := f
  have := h.toNat_lt
  have := clr.toNat_lt
  have := sg.toNat_lt
  simp only [xFields, XFields.mk.injEq, slice_eq_iff, bit1_eq_iff, toNat_encX]
  refine ⟨?_, ?_, ?_, ?_, ?_, ?_, ?_, ?_⟩ <;> omega

theorem kFields_encK (op : BitVec 7) (sub : BitVec 3) (f : KFields) : kFields (encK op sub f) = some f := by
  obtain ⟨b, a, d, h⟩ := f
  have := h.toNat_lt
  simp only [kFields, reserved_encK, bne_self_eq_false, Bool.false_eq_true, if_false, Option.some.injEq, KFields.mk.injEq, slice_eq_iff,
    bit1_eq_iff, toNat_encK]
  refine ⟨?_, ?_, ?_, ?_⟩ <;> omega

theorem halfFields_encHalf (opc : BitVec 4) (f : HalfFields) : halfFields (encHalf opc f) = f := by
  obtain ⟨a, d, h⟩ := f
  have := h.toNat_lt
  simp only [halfFields, HalfFields.mk.injEq, slice_eq_iff, bit1_eq_iff, toNat_encHalf]
  refine ⟨?_, ?_, ?_⟩ <;> omega

theorem decodePrefix_encPrefix (p : Prefix) : decodePrefix (encPrefix p) = some p := by
  obtain ⟨sat, z, cv, c, mask, rnd⟩ := p
  have := sat.toNat_lt
  have := z.toNat_lt
  have := cv.toNat_lt
  simp only [decodePrefix, reserved_encPrefix, bne_self_eq_false, Bool.or_self, Bool.false_eq_true, if_false, Option.some.injEq, Prefix.mk.injEq,
    slice_eq_iff, bit1_eq_iff, toNat_encPrefix]
  refine ⟨?_, ?_, ?_, ?_, ?_, ?_⟩ <;> omega

/-! ### OP and bit 0 of an encoded word (R20, R26). -/

/-- A 32-bit word (bit 0 is set, R20) with this OP (R26). -/
def WordOf (op : BitVec 7) (w : BitVec 32) : Prop := w.extractLsb' 2 7 = op ∧ bit1 w 0 = true

theorem wordOf_iff {op : BitVec 7} {w : BitVec 32} : WordOf op w ↔ w.toNat / 2 ^ 2 % 2 ^ 7 = op.toNat ∧ w.toNat / 2 ^ 0 % 2 = 1 := by
  rw [WordOf, slice_eq_iff, bit1_eq_iff, Bool.toNat_true]

theorem wordOf_encVR (op : BitVec 7) (f : VRFields) : WordOf op (encVR op f) := by
  have := f.h.toNat_lt
  rw [wordOf_iff, toNat_encVR]
  omega

theorem wordOf_encSI (op : BitVec 7) (f : SIFields) : WordOf op (encSI op f) := by
  have := f.h.toNat_lt
  rw [wordOf_iff, toNat_encSI]
  omega

theorem wordOf_encSR (op : BitVec 7) (f : SRFields) : WordOf op (encSR op f) := by
  have := f.h.toNat_lt
  rw [wordOf_iff, toNat_encSR]
  omega

theorem wordOf_encM (op : BitVec 7) (f : MFields) : WordOf op (encM op f) := by
  have := f.h.toNat_lt
  rw [wordOf_iff, toNat_encM]
  omega

theorem wordOf_encBR (f : BRFields) : WordOf 0x68#7 (encBR f) := by
  have := f.h.toNat_lt
  rw [wordOf_iff, toNat_encBR, BitVec.toNat_ofNat]
  omega

theorem wordOf_encJ (op : BitVec 7) (sub : BitVec 3) (f : JFields) : WordOf op (encJ op sub f) := by
  have := f.h.toNat_lt
  rw [wordOf_iff, toNat_encJ]
  omega

theorem sub_encJ (op : BitVec 7) (sub : BitVec 3) (f : JFields) : (encJ op sub f).extractLsb' 9 3 = sub := by
  have := f.h.toNat_lt
  rw [slice_eq_iff, toNat_encJ]
  omega

theorem wordOf_encX (op : BitVec 7) (sub : BitVec 3) (f : XFields) : WordOf op (encX op sub f) := by
  have := f.h.toNat_lt
  rw [wordOf_iff, toNat_encX]
  omega

theorem wordOf_encK (op : BitVec 7) (sub : BitVec 3) (f : KFields) : WordOf op (encK op sub f) := by
  have := f.h.toNat_lt
  rw [wordOf_iff, toNat_encK]
  omega

theorem sub_encK (op : BitVec 7) (sub : BitVec 3) (f : KFields) : (encK op sub f).extractLsb' 9 3 = sub := by
  have := f.h.toNat_lt
  rw [slice_eq_iff, toNat_encK]
  omega

theorem wordOf_encPrefix (p : Prefix) : WordOf 0x7F#7 (encPrefix p) := by
  rw [wordOf_iff, toNat_encPrefix, BitVec.toNat_ofNat]
  omega

theorem code_encHalf (opc : BitVec 4) (f : HalfFields) : (encHalf opc f).extractLsb' 2 4 = opc := by
  have := f.h.toNat_lt
  rw [slice_eq_iff, toNat_encHalf]
  omega

theorem bit0_encHalf (opc : BitVec 4) (f : HalfFields) : bit1 (encHalf opc f) 0 = false := by
  rw [bit1_eq_iff, toNat_encHalf, Bool.toNat_false]
  omega

/-! ### A word is the encoding of its fields: adjacent slices join. -/

theorem ofBool_bit1 {n : Nat} (w : BitVec n) (i : Nat) : BitVec.ofBool (bit1 w i) = w.extractLsb' i 1 := by
  rw [eq_comm, slice_eq_iff, BitVec.toNat_ofBool, toNat_bit1, pow_one]

theorem slice_zero {n : Nat} {w : BitVec n} {i : Nat} (h : bit1 w i = false) : 0#1 = w.extractLsb' i 1 := by
  rw [← ofBool_bit1, h]
  rfl

theorem slice_one {n : Nat} {w : BitVec n} {i : Nat} (h : bit1 w i = true) : 1#1 = w.extractLsb' i 1 := by
  rw [← ofBool_bit1, h]
  rfl

theorem encVR_vrFields {op : BitVec 7} {w : BitVec 32} (h : WordOf op w) : encVR op (vrFields w) = w := by
  obtain ⟨rfl, hb⟩ := h
  rw [encVR, slice_one hb]
  simp (disch := rfl) only [vrFields, ofBool_bit1, BitVec.extractLsb'_append_extractLsb'_eq_extractLsb', -Nat.reduceAdd]
  exact BitVec.extractLsb'_eq_self

theorem encSI_of_siFields {op : BitVec 7} {w : BitVec 32} {f : SIFields} (h : WordOf op w) (hf : siFields w = some f) : encSI op f = w := by
  obtain ⟨rfl, hb⟩ := h
  unfold siFields at hf
  split at hf
  · simp at hf
  · next h9 =>
    cases hf
    rw [encSI, slice_one hb, slice_zero (Bool.eq_false_iff.2 h9)]
    simp (disch := rfl) only [ofBool_bit1, BitVec.extractLsb'_append_extractLsb'_eq_extractLsb', -Nat.reduceAdd]
    exact BitVec.extractLsb'_eq_self

theorem encSR_of_srFields {op : BitVec 7} {w : BitVec 32} {f : SRFields} (h : WordOf op w) (hf : srFields w = some f) : encSR op f = w := by
  obtain ⟨rfl, hb⟩ := h
  unfold srFields at hf
  split at hf
  · simp at hf
  · next hr =>
    simp only [Bool.or_eq_true, bne_iff_ne, not_or, Bool.not_eq_true, not_not] at hr
    obtain ⟨h9, h16⟩ := hr
    cases hf
    rw [encSR, slice_one hb, slice_zero h9, ← h16]
    simp (disch := rfl) only [ofBool_bit1, BitVec.extractLsb'_append_extractLsb'_eq_extractLsb', -Nat.reduceAdd]
    exact BitVec.extractLsb'_eq_self

theorem encM_mFields {op : BitVec 7} {w : BitVec 32} (h : WordOf op w) : encM op (mFields w) = w := by
  obtain ⟨rfl, hb⟩ := h
  rw [encM, slice_one hb]
  simp (disch := rfl) only [mFields, ofBool_bit1, BitVec.extractLsb'_append_extractLsb'_eq_extractLsb', -Nat.reduceAdd]
  exact BitVec.extractLsb'_eq_self

theorem encBR_brFields {w : BitVec 32} (h : WordOf 0x68#7 w) : encBR (brFields w) = w := by
  obtain ⟨ho, hb⟩ := h
  rw [encBR, slice_one hb, ← ho]
  simp (disch := rfl) only [brFields, ofBool_bit1, BitVec.extractLsb'_append_extractLsb'_eq_extractLsb', -Nat.reduceAdd]
  exact BitVec.extractLsb'_eq_self

theorem encJ_jFields {op : BitVec 7} {w : BitVec 32} (h : WordOf op w) : encJ op (w.extractLsb' 9 3) (jFields w) = w := by
  obtain ⟨rfl, hb⟩ := h
  rw [encJ, slice_one hb]
  simp (disch := rfl) only [jFields, ofBool_bit1, BitVec.extractLsb'_append_extractLsb'_eq_extractLsb', -Nat.reduceAdd]
  exact BitVec.extractLsb'_eq_self

theorem encX_xFields {op : BitVec 7} {w : BitVec 32} (h : WordOf op w) : encX op (xFields w).sub (xFields w) = w := by
  obtain ⟨rfl, hb⟩ := h
  rw [encX, slice_one hb]
  simp (disch := rfl) only [xFields, ofBool_bit1, BitVec.extractLsb'_append_extractLsb'_eq_extractLsb', -Nat.reduceAdd]
  exact BitVec.extractLsb'_eq_self

theorem encK_of_kFields {op : BitVec 7} {w : BitVec 32} {f : KFields} (h : WordOf op w) (hf : kFields w = some f) :
    encK op (w.extractLsb' 9 3) f = w := by
  obtain ⟨rfl, hb⟩ := h
  unfold kFields at hf
  split at hf
  · simp at hf
  · next h30 =>
    cases hf
    rw [bne_iff_ne, not_not] at h30
    rw [encK, slice_one hb, ← h30]
    simp (disch := rfl) only [ofBool_bit1, BitVec.extractLsb'_append_extractLsb'_eq_extractLsb', -Nat.reduceAdd]
    exact BitVec.extractLsb'_eq_self

theorem encPrefix_of_decodePrefix {w : BitVec 32} {p : Prefix} (h : WordOf 0x7F#7 w) (hp : decodePrefix w = some p) : encPrefix p = w := by
  obtain ⟨ho, hb⟩ := h
  unfold decodePrefix at hp
  split at hp
  · simp at hp
  · next hr =>
    simp only [Bool.or_eq_true, bne_iff_ne, not_or, Bool.not_eq_true, not_not] at hr
    obtain ⟨h25, h1⟩ := hr
    cases hp
    rw [encPrefix, slice_one hb, slice_zero h1, ← h25, ← ho]
    simp (disch := rfl) only [ofBool_bit1, BitVec.extractLsb'_append_extractLsb'_eq_extractLsb', -Nat.reduceAdd]
    exact BitVec.extractLsb'_eq_self

theorem encHalf_halfFields {w : BitVec 16} (h : bit1 w 0 = false) : encHalf (w.extractLsb' 2 4) (halfFields w) = w := by
  rw [encHalf, slice_zero h]
  simp (disch := rfl) only [halfFields, ofBool_bit1, BitVec.extractLsb'_append_extractLsb'_eq_extractLsb', -Nat.reduceAdd]
  exact BitVec.extractLsb'_eq_self

/-! ### Bytes and words (R3). -/

theorem leNat_leBytes : ∀ n v, leNat (leBytes n v) = v % 256 ^ n
  | 0, v => by simp [leBytes, leNat, Nat.mod_one]
  | n + 1, v => by
    rw [leBytes, leNat, leNat_leBytes n, BitVec.toNat_ofNat, Nat.pow_succ' (m := 256), Nat.mod_mul]

theorem leBytes_leNat : ∀ bs, leBytes bs.length (leNat bs) = bs
  | [] => rfl
  | b :: bs => by
    have hb : (b.toNat + 256 * leNat bs) / 256 = leNat bs := by
      have := b.isLt
      omega
    rw [List.length_cons, leBytes, leNat, hb, leBytes_leNat bs]
    congr 1
    refine BitVec.eq_of_toNat_eq ?_
    rw [BitVec.toNat_ofNat]
    have := b.isLt
    omega

theorem leNat_lt : ∀ bs, leNat bs < 256 ^ bs.length
  | [] => Nat.one_pos
  | b :: bs => by
    have := leNat_lt bs
    have := b.isLt
    rw [leNat, List.length_cons, Nat.pow_succ']
    omega

theorem bytes16_ofNat (b0 b1 : Byte) : bytes16 (BitVec.ofNat 16 (leNat [b0, b1])) = [b0, b1] := by
  have h : leNat [b0, b1] < 2 ^ 16 := by simpa using leNat_lt [b0, b1]
  rw [bytes16, BitVec.toNat_ofNat, Nat.mod_eq_of_lt h]
  exact leBytes_leNat [b0, b1]

theorem bytes32_ofNat (b0 b1 b2 b3 : Byte) : bytes32 (BitVec.ofNat 32 (leNat [b0, b1, b2, b3])) = [b0, b1, b2, b3] := by
  have h : leNat [b0, b1, b2, b3] < 2 ^ 32 := by simpa using leNat_lt [b0, b1, b2, b3]
  rw [bytes32, BitVec.toNat_ofNat, Nat.mod_eq_of_lt h]
  exact leBytes_leNat [b0, b1, b2, b3]

theorem ofNat_bytes16 (w : BitVec 16) : BitVec.ofNat 16 (leNat (bytes16 w)) = w := by
  rw [bytes16, leNat_leBytes, Nat.mod_eq_of_lt (b := 256 ^ 2) (by have := w.isLt; omega), BitVec.ofNat_toNat, BitVec.setWidth_eq]

theorem ofNat_bytes32 (w : BitVec 32) : BitVec.ofNat 32 (leNat (bytes32 w)) = w := by
  rw [bytes32, leNat_leBytes, Nat.mod_eq_of_lt (b := 256 ^ 4) (by have := w.isLt; omega), BitVec.ofNat_toNat, BitVec.setWidth_eq]

theorem bit0_leNat (b : Byte) (bs : List Byte) : (leNat (b :: bs)).testBit 0 = b.getLsbD 0 := by
  rw [leNat, BitVec.getLsbD, Nat.testBit_zero, Nat.testBit_zero, show (b.toNat + 256 * leNat bs) % 2 = b.toNat % 2 by omega]

theorem bit0_ofNat (n v : Nat) : (BitVec.ofNat (n + 1) v).getLsbD 0 = v.testBit 0 := by
  rw [BitVec.getLsbD_ofNat]
  simp

/-! ### What the decoder makes of a word's bytes (R20, R41). -/

theorem decode_bytes16 {w : BitVec 16} {i : Instr} (hb : bit1 w 0 = false) (h : decode16 w = some i) (rest : List Byte) :
    decode (bytes16 w ++ rest) = .instr i 2 := by
  have e : BitVec.ofNat 16 (leNat [BitVec.ofNat 8 w.toNat, BitVec.ofNat 8 (w.toNat / 256)]) = w := ofNat_bytes16 w
  have hb' : (BitVec.ofNat 8 w.toNat).getLsbD 0 = false := (bit0_ofNat 7 _).trans hb
  simp only [bytes16, leBytes, List.cons_append, List.nil_append, decode, e, hb', h, Bool.false_eq_true, if_false]

theorem decode_bytes32 {w : BitVec 32} {i : Instr} {op : BitVec 7} (hw : WordOf op w) (hp : op ≠ 0x7F#7) (h : decode32 w = some i)
    (rest : List Byte) : decode (bytes32 w ++ rest) = .instr i 4 := by
  obtain ⟨rfl, hb⟩ := hw
  have e : BitVec.ofNat 32 (leNat [BitVec.ofNat 8 w.toNat, BitVec.ofNat 8 (w.toNat / 256), BitVec.ofNat 8 (w.toNat / 256 / 256),
    BitVec.ofNat 8 (w.toNat / 256 / 256 / 256)]) = w := ofNat_bytes32 w
  have hb' : (BitVec.ofNat 8 w.toNat).getLsbD 0 = true := (bit0_ofNat 7 _).trans hb
  simp only [bytes32, leBytes, List.cons_append, List.nil_append, decode, e, hb', h, hp, if_true, if_false]

theorem decode_pairBytes {p w : BitVec 32} {i : Instr} (hp : WordOf 0x7F#7 p) (hb : bit1 w 0 = true) (h : decodePair p w = some i)
    (rest : List Byte) : decode (bytes32 p ++ bytes32 w ++ rest) = .instr i 8 := by
  obtain ⟨ho, hb1⟩ := hp
  have e : ∀ w : BitVec 32, BitVec.ofNat 32 (leNat [BitVec.ofNat 8 w.toNat, BitVec.ofNat 8 (w.toNat / 256),
    BitVec.ofNat 8 (w.toNat / 256 / 256), BitVec.ofNat 8 (w.toNat / 256 / 256 / 256)]) = w := ofNat_bytes32
  have hb' : ∀ w : BitVec 32, bit1 w 0 = true → (BitVec.ofNat 8 w.toNat).getLsbD 0 = true := fun w h => (bit0_ofNat 7 _).trans h
  simp only [bytes32, leBytes, List.cons_append, List.nil_append, decode, e, hb' p hb1, hb' w hb, h, ho, if_true]

/-- What bytes decode to an instruction: a 16-bit word, a 32-bit word other than the Prefix word, or that word and the next one. -/
theorem decode_cases {bs : List Byte} {i : Instr} {n : Nat} (h : decode bs = .instr i n) :
    (∃ w rest, bs = bytes16 w ++ rest ∧ bit1 w 0 = false ∧ decode16 w = some i ∧ n = 2) ∨
    (∃ w rest, bs = bytes32 w ++ rest ∧ bit1 w 0 = true ∧ decode32 w = some i ∧ n = 4) ∨
    (∃ p w rest, bs = bytes32 p ++ bytes32 w ++ rest ∧ WordOf 0x7F#7 p ∧ bit1 w 0 = true ∧ decodePair p w = some i ∧ n = 8) := by
  have bit16 : ∀ b0 b1 : Byte, bit1 (BitVec.ofNat 16 (leNat [b0, b1])) 0 = b0.getLsbD 0 := fun b0 b1 =>
    (bit0_ofNat 15 _).trans (bit0_leNat b0 _)
  have bit32 : ∀ b0 b1 b2 b3 : Byte, bit1 (BitVec.ofNat 32 (leNat [b0, b1, b2, b3])) 0 = b0.getLsbD 0 := fun b0 b1 b2 b3 =>
    (bit0_ofNat 31 _).trans (bit0_leNat b0 _)
  unfold decode at h
  split at h
  · next b0 b1 rest =>
    split at h
    · next hb0 =>
      split at h
      · next b2 b3 rest =>
        dsimp only at h
        split at h
        · next hp =>
          split at h
          · next b4 b5 rest =>
            split at h
            · next hb4 =>
              split at h
              · next b6 b7 rest =>
                split at h
                · next hi =>
                  cases h
                  exact .inr (.inr ⟨_, _, rest, by rw [bytes32_ofNat, bytes32_ofNat]; rfl, ⟨hp, (bit32 ..).trans hb0⟩, (bit32 ..).trans hb4, hi, rfl⟩)
                · simp at h
              · simp at h
            · simp at h
          · simp at h
        · split at h
          · next hi =>
            cases h
            exact .inr (.inl ⟨_, rest, by rw [bytes32_ofNat]; rfl, (bit32 ..).trans hb0, hi, rfl⟩)
          · simp at h
      · simp at h
    · next hb0 =>
      dsimp only at h
      split at h
      · next hi =>
        cases h
        exact .inl ⟨_, rest, by rw [bytes16_ofNat]; rfl, (bit16 ..).trans (Bool.eq_false_iff.2 hb0), hi, rfl⟩
      · simp at h
  · simp at h

/-! ### What the decoder makes of a 32-bit word, by its OP (R26, R42). -/

section
variable {op : BitVec 7} {w : BitVec 32} (hw : WordOf op w)
include hw

theorem decodeFormat_VR (h : op.toNat < 0x4C) : decodeFormat w = (VROp.ofCode op).map (·.toInstr (vrFields w)) := by
  simp (disch := omega) only [decodeFormat, hw.1, if_pos]

theorem decodeFormat_S (h : 0x4C ≤ op.toNat ∧ op.toNat < 0x58) : decodeFormat w = decodeS op.toNat (vrFields w) := by
  simp (disch := omega) only [decodeFormat, hw.1, if_pos, if_neg]

theorem decodeFormat_li (h : op.toNat = 0x58) : decodeFormat w = (siFields w).map .li := by
  simp (disch := omega) only [decodeFormat, hw.1, if_pos, if_neg]

theorem decodeFormat_lih (h : op.toNat = 0x59) : decodeFormat w = (siFields w).map .lih := by
  simp (disch := omega) only [decodeFormat, hw.1, if_pos, if_neg]

theorem decodeFormat_getsr (h : op.toNat = 0x5A) : decodeFormat w = (srFields w).map .getsr := by
  simp (disch := omega) only [decodeFormat, hw.1, if_pos, if_neg]

theorem decodeFormat_setsr (h : op.toNat = 0x5B) : decodeFormat w = (srFields w).map .setsr := by
  simp (disch := omega) only [decodeFormat, hw.1, if_pos, if_neg]

theorem decodeFormat_M (h : 0x5C ≤ op.toNat ∧ op.toNat < 0x68) : decodeFormat w = decodeM op.toNat (mFields w) := by
  simp (disch := omega) only [decodeFormat, hw.1, if_pos, if_neg]

theorem decodeFormat_br (h : op.toNat = 0x68) : decodeFormat w = some (.br (brFields w)) := by
  simp (disch := omega) only [decodeFormat, hw.1, if_pos, if_neg]

theorem decodeFormat_J (h : 0x69 ≤ op.toNat ∧ op.toNat < 0x70) :
    decodeFormat w = decodeJ op.toNat (w.extractLsb' 9 3).toNat (jFields w) := by
  simp (disch := omega) only [decodeFormat, hw.1, if_pos, if_neg]

theorem decodeFormat_X (h : 0x70 ≤ op.toNat ∧ op.toNat < 0x78) : decodeFormat w = decodeX op.toNat (xFields w) := by
  simp (disch := omega) only [decodeFormat, hw.1, if_pos, if_neg]

theorem decodeFormat_K (h : 0x78 ≤ op.toNat ∧ op.toNat < 0x7F) :
    decodeFormat w = (kFields w).bind (decodeK op.toNat (w.extractLsb' 9 3).toNat) := by
  simp (disch := omega) only [decodeFormat, hw.1, if_pos, if_neg]

theorem decodeFormat_prefix (h : op.toNat = 0x7F) : decodeFormat w = none := by
  simp (disch := omega) only [decodeFormat, hw.1, if_neg]

end

/-! ### The encoding of what a word decodes to is the word. -/

theorem ofNat_toNat_self {n : Nat} (c : BitVec n) : BitVec.ofNat n c.toNat = c := by
  rw [BitVec.ofNat_toNat, BitVec.setWidth_eq]

theorem VROp.ofCode_code (op : VROp) : VROp.ofCode op.code = some op := by
  cases op <;> rfl

theorem VROp.code_of_ofCode {c : BitVec 7} {op : VROp} (h : VROp.ofCode c = some op) : op.code = c := by
  have all : ∀ c : BitVec 7, ∀ op ∈ VROp.ofCode c, op.code = c := by decide
  exact all c op h

theorem encode_toInstr (op : VROp) (f : VRFields) : encode (op.toInstr f) = bytes32 (encVR op.code f) := by
  cases op <;> rfl

theorem encode_of_decodeS {n : Nat} {f : VRFields} {i : Instr} (h : decodeS n f = some i) :
    encode i = bytes32 (encVR (BitVec.ofNat 7 n) f) := by
  unfold decodeS at h
  split at h <;> cases h <;> rfl

theorem encode_of_decodeM {n : Nat} {f : MFields} {i : Instr} (h : decodeM n f = some i) :
    encode i = bytes32 (encM (BitVec.ofNat 7 n) f) := by
  unfold decodeM at h
  split at h <;> cases h <;> rfl

theorem encode_of_decodeJ {n k : Nat} {f : JFields} {i : Instr} (h : decodeJ n k f = some i) :
    encode i = bytes32 (encJ (BitVec.ofNat 7 n) (BitVec.ofNat 3 k) f) := by
  unfold decodeJ at h
  split at h <;> cases h <;> rfl

theorem encode_of_decodeK {n k : Nat} {f : KFields} {i : Instr} (h : decodeK n k f = some i) :
    encode i = bytes32 (encK (BitVec.ofNat 7 n) (BitVec.ofNat 3 k) f) := by
  unfold decodeK at h
  split at h <;> cases h <;> rfl

theorem encode_of_decodeX {n : Nat} {f : XFields} {i : Instr} (h : decodeX n f = some i) :
    encode i = bytes32 (encX (BitVec.ofNat 7 n) f.sub f) := by
  have sub {k : Nat} (hk : f.sub.toNat = k) : BitVec.ofNat 3 k = f.sub := by rw [← hk, ofNat_toNat_self]
  unfold decodeX at h
  split at h <;> cases h
  case h_2 | h_3 => rfl
  all_goals exact congrArg (fun k => bytes32 (encX _ k f)) (sub ‹_›)

theorem encode_of_decodeFormat {w : BitVec 32} {i : Instr} (hb : bit1 w 0 = true) (hi : decodeFormat w = some i) :
    encode i = bytes32 w := by
  obtain ⟨op, hw⟩ : ∃ op, WordOf op w := ⟨_, rfl, hb⟩
  have code {n : Nat} (hn : op.toNat = n) : op = BitVec.ofNat 7 n := by rw [← hn, ofNat_toNat_self]
  have ranges : op.toNat < 0x4C ∨ (0x4C ≤ op.toNat ∧ op.toNat < 0x58) ∨ op.toNat = 0x58 ∨ op.toNat = 0x59 ∨ op.toNat = 0x5A ∨
      op.toNat = 0x5B ∨ (0x5C ≤ op.toNat ∧ op.toNat < 0x68) ∨ op.toNat = 0x68 ∨ (0x69 ≤ op.toNat ∧ op.toNat < 0x70) ∨
      (0x70 ≤ op.toNat ∧ op.toNat < 0x78) ∨ (0x78 ≤ op.toNat ∧ op.toNat < 0x7F) ∨ op.toNat = 0x7F := by omega
  rcases ranges with h | h | h | h | h | h | h | h | h | h | h | h
  · rw [decodeFormat_VR hw h] at hi
    obtain ⟨vop, hop, rfl⟩ := Option.map_eq_some_iff.1 hi
    rw [encode_toInstr, VROp.code_of_ofCode hop, encVR_vrFields hw]
  · rw [decodeFormat_S hw h] at hi
    rw [encode_of_decodeS hi, ofNat_toNat_self, encVR_vrFields hw]
  · rw [decodeFormat_li hw h] at hi
    obtain ⟨f, hf, rfl⟩ := Option.map_eq_some_iff.1 hi
    exact congrArg bytes32 (encSI_of_siFields (code h ▸ hw) hf)
  · rw [decodeFormat_lih hw h] at hi
    obtain ⟨f, hf, rfl⟩ := Option.map_eq_some_iff.1 hi
    exact congrArg bytes32 (encSI_of_siFields (code h ▸ hw) hf)
  · rw [decodeFormat_getsr hw h] at hi
    obtain ⟨f, hf, rfl⟩ := Option.map_eq_some_iff.1 hi
    exact congrArg bytes32 (encSR_of_srFields (code h ▸ hw) hf)
  · rw [decodeFormat_setsr hw h] at hi
    obtain ⟨f, hf, rfl⟩ := Option.map_eq_some_iff.1 hi
    exact congrArg bytes32 (encSR_of_srFields (code h ▸ hw) hf)
  · rw [decodeFormat_M hw h] at hi
    rw [encode_of_decodeM hi, ofNat_toNat_self, encM_mFields hw]
  · rw [decodeFormat_br hw h] at hi
    cases hi
    exact congrArg bytes32 (encBR_brFields (code h ▸ hw))
  · rw [decodeFormat_J hw h] at hi
    rw [encode_of_decodeJ hi, ofNat_toNat_self, ofNat_toNat_self, encJ_jFields hw]
  · rw [decodeFormat_X hw h] at hi
    rw [encode_of_decodeX hi, ofNat_toNat_self, encX_xFields hw]
  · rw [decodeFormat_K hw h] at hi
    obtain ⟨f, hf, hk⟩ := Option.bind_eq_some_iff.1 hi
    rw [encode_of_decodeK hk, ofNat_toNat_self, ofNat_toNat_self, encK_of_kFields hw hf]
  · rw [decodeFormat_prefix hw h] at hi
    cases hi

theorem encode_of_decode16 {w : BitVec 16} {i : Instr} (hb : bit1 w 0 = false) (h : decode16 w = some i) : encode i = bytes16 w := by
  suffices encode i = bytes16 (encHalf (BitVec.ofNat 4 (w.extractLsb' 2 4).toNat) (halfFields w)) by
    rwa [ofNat_toNat_self, encHalf_halfFields hb] at this
  unfold decode16 at h
  dsimp only at h
  generalize (w.extractLsb' 2 4).toNat = n at h ⊢
  split at h
  case h_1 =>
    split at h <;> cases h
    next hw =>
    subst hw
    rfl
  all_goals cases h <;> rfl

theorem wf_of_decode16 {w : BitVec 16} {i : Instr} (h : decode16 w = some i) : i.wf = true := by
  unfold decode16 at h
  dsimp only at h
  split at h
  · split at h <;> cases h
    rfl
  all_goals cases h <;> rfl

theorem wf_of_decode32 {w : BitVec 32} {i : Instr} (h : decode32 w = some i) : decodeFormat w = some i ∧ i.wf = true :=
  Option.filter_eq_some_iff.1 h

theorem decodePair_eq_some {p w : BitVec 32} {i : Instr} (h : decodePair p w = some i) :
    ∃ pf op, decodePrefix p = some pf ∧ VROp.ofCode (w.extractLsb' 2 7) = some op ∧ i = .prefixedInstruction pf op (vrFields w) ∧
      i.wf = true := by
  unfold decodePair at h
  split at h
  · next pf op hp ho =>
    dsimp only at h
    split at h <;> cases h
    exact ⟨pf, op, hp, ho, rfl, ‹_›⟩
  · cases h

/-! ### Decode undoes encode. -/

theorem decode_word {op : BitVec 7} {w : BitVec 32} {i : Instr} (hw : WordOf op w) (hp : op ≠ 0x7F#7) (h : decodeFormat w = some i)
    (hi : i.wf = true) (rest : List Byte) : decode (bytes32 w ++ rest) = .instr i 4 :=
  decode_bytes32 hw hp (Option.filter_eq_some_iff.2 ⟨h, hi⟩) rest

theorem decode_pair (p : Prefix) (op : VROp) (f : VRFields) (h : (Instr.prefixedInstruction p op f).wf = true) (rest : List Byte) :
    decode (bytes32 (encPrefix p) ++ bytes32 (encVR op.code f) ++ rest) = .instr (.prefixedInstruction p op f) 8 := by
  refine decode_pairBytes (wordOf_encPrefix p) (wordOf_encVR _ f).2 ?_ rest
  simp only [decodePair, decodePrefix_encPrefix, (wordOf_encVR _ f).1, VROp.ofCode_code, vrFields_encVR, h, if_true]

/-! A well-formed instruction of each format, from what its format's table gives. -/

section
variable {op : BitVec 7} {i : Instr} (hi : i.wf = true) (rest : List Byte)
include hi

theorem decode_encVR {f : VRFields} (h : op.toNat < 0x4C) (ho : (VROp.ofCode op).map (·.toInstr f) = some i) :
    decode (bytes32 (encVR op f) ++ rest) = .instr i 4 :=
  decode_word (wordOf_encVR op f) (by rintro rfl; simp at h) (by rw [decodeFormat_VR (wordOf_encVR op f) h, vrFields_encVR, ho]) hi rest

theorem decode_encS {f : VRFields} (h : 0x4C ≤ op.toNat ∧ op.toNat < 0x58) (ho : decodeS op.toNat f = some i) :
    decode (bytes32 (encVR op f) ++ rest) = .instr i 4 :=
  decode_word (wordOf_encVR op f) (by rintro rfl; simp at h) (by rw [decodeFormat_S (wordOf_encVR op f) h, vrFields_encVR, ho]) hi rest

theorem decode_encM {f : MFields} (h : 0x5C ≤ op.toNat ∧ op.toNat < 0x68) (ho : decodeM op.toNat f = some i) :
    decode (bytes32 (encM op f) ++ rest) = .instr i 4 :=
  decode_word (wordOf_encM op f) (by rintro rfl; simp at h) (by rw [decodeFormat_M (wordOf_encM op f) h, mFields_encM, ho]) hi rest

theorem decode_encJ {sub : BitVec 3} {f : JFields} (h : 0x69 ≤ op.toNat ∧ op.toNat < 0x70)
    (ho : decodeJ op.toNat sub.toNat f = some i) : decode (bytes32 (encJ op sub f) ++ rest) = .instr i 4 :=
  decode_word (wordOf_encJ op sub f) (by rintro rfl; simp at h)
    (by rw [decodeFormat_J (wordOf_encJ op sub f) h, sub_encJ, jFields_encJ, ho]) hi rest

theorem decode_encX {sub : BitVec 3} {f : XFields} (hs : f.sub = sub) (h : 0x70 ≤ op.toNat ∧ op.toNat < 0x78)
    (ho : decodeX op.toNat f = some i) : decode (bytes32 (encX op sub f) ++ rest) = .instr i 4 := by
  subst hs
  exact decode_word (wordOf_encX op _ f) (by rintro rfl; simp at h)
    (by rw [decodeFormat_X (wordOf_encX op _ f) h, xFields_encX, ho]) hi rest

theorem decode_encK {sub : BitVec 3} {f : KFields} (h : 0x78 ≤ op.toNat ∧ op.toNat < 0x7F)
    (ho : decodeK op.toNat sub.toNat f = some i) : decode (bytes32 (encK op sub f) ++ rest) = .instr i 4 :=
  decode_word (wordOf_encK op sub f) (by rintro rfl; simp at h)
    (by rw [decodeFormat_K (wordOf_encK op sub f) h, sub_encK, kFields_encK, Option.bind_some, ho]) hi rest

end

theorem decode_encode {i : Instr} (hi : i.wf = true) (he : encode i ≠ []) (rest : List Byte) :
    decode (encode i ++ rest) = .instr i (encode i).length := by
  cases i with
  | nop => exact decode_bytes16 (w := 0#16) rfl rfl rest
  | iadd16 f | isub16 f | and16 f | or16 f | xor16 f | shl16 f | mov16 f | fadd16 f | fsub16 f | fmul16 f | fmax16 f | imin16 f
  | imax16 f | sadd16 f | smov16 f =>
    exact decode_bytes16 (bit0_encHalf _ f) (by unfold decode16; rw [code_encHalf]; exact congrArg some (congrArg _ (halfFields_encHalf _ f))) rest
  | prefixedInstruction p op f => exact decode_pair p op f hi rest
  | iadd f | isub f | iadds f | isubs f | imul f | imulh f | umulh f | imad f | imin f | imax f | umin f | umax f | iabs f | shl f
  | shr f | sar f | and f | or f | xor f | andn f | popc f | clz f | brev f | bfx f | bfi f | lea f | icmpeq f | icmplt f | icmpltu f
  | sel f | mov f | fadd f | fsub f | fmul f | ffma f | fmin f | fmax f | fabs f | fneg f | fcmpeq f | fcmplt f | fcmple f | fcmpun f
  | frcp f | frsq f | fsqrt f | fexp2 f | flog2 f | fsin f | fcos f | ftanh f | fround f | fscale f | fclass f | fdot2 f | cvt f | cbld f
  | cbst f | shfl f | bcast f | perm f | mred f | scan f | red f | ballot f | mset f | movsv f | movvs f | first f | iota f =>
    exact decode_encVR hi rest (by decide) rfl
  | sadd f | ssub f | smul f | sand f | sor f | sxor f | sshl f | sshr f | ssar f | scmp f | smov f | slea f =>
    exact decode_encS hi rest (by decide) rfl
  | li f => exact decode_word (wordOf_encSI _ f) (by decide) (by rw [decodeFormat_li (wordOf_encSI _ f) rfl, siFields_encSI]; rfl) hi rest
  | lih f => exact decode_word (wordOf_encSI _ f) (by decide) (by rw [decodeFormat_lih (wordOf_encSI _ f) rfl, siFields_encSI]; rfl) hi rest
  | getsr f =>
    exact decode_word (wordOf_encSR _ f) (by decide) (by rw [decodeFormat_getsr (wordOf_encSR _ f) rfl, srFields_encSR]; rfl) hi rest
  | setsr f =>
    exact decode_word (wordOf_encSR _ f) (by decide) (by rw [decodeFormat_setsr (wordOf_encSR _ f) rfl, srFields_encSR]; rfl) hi rest
  | ld f | st f | lds f | sts f | sld f | sst f | atom f | atomx f | satom f | pref f | zero f | commit f =>
    exact decode_encM hi rest (by decide) rfl
  | br f => exact decode_word (wordOf_encBR f) (by decide) (by rw [decodeFormat_br (wordOf_encBR f) rfl, brFields_encBR]) hi rest
  | jmp f | jmpReg f | call f | callReg f | ret f | regang f | yield f | yieldContinuation f | exit f | trap f | rte f | brk f =>
    exact decode_encJ hi rest (by decide) rfl
  | cpyCopy f | cpyQuant f | cpyDec f | cpyRed f | cpyFill f | pkt f | qpush f | qpop f | qtry f | qlen f | spawn f | xput f | xget f
  | xatom f | hfire f | hstat f | knew f | kjoin f | kleave f | karrive f | kwait f | karrw f | kfree f | kquery f | warm f | wwait f
  | wstamp f | racq f | rrel f | resize f | ckmark f | cktake f | ckroll f | ckdrop f =>
    exact decode_encK hi rest (by decide) rfl
  | mma f | mmat f | mfence f | mwait f | accld f | accst f | omset f =>
    have hs : f.sub = 0#3 := by
      simp only [Instr.wf, Bool.and_eq_true, beq_iff_eq] at hi
      tauto
    exact decode_encX hi rest hs (by decide) (by unfold decodeX; rw [hs]; rfl)
  | accldZero f =>
    have hs : f.sub = 1#3 := by
      simp only [Instr.wf, Bool.and_eq_true, beq_iff_eq] at hi
      tauto
    exact decode_encX hi rest hs (by decide) (by unfold decodeX; rw [hs]; rfl)
  | mmas f =>
    have hs : f.sub.toNat ≤ 1 := by
      simp only [Instr.wf, Bool.and_eq_true, decide_eq_true_eq] at hi
      tauto
    refine decode_encX hi rest rfl (by decide) ?_
    rcases Nat.le_one_iff_eq_zero_or_eq_one.1 hs with hs | hs <;> (unfold decodeX; rw [hs]; rfl)
  | _ => exact absurd rfl he

/-! ### Encode undoes decode. -/

theorem encode_of_decodePair {p w : BitVec 32} {i : Instr} (hp : WordOf 0x7F#7 p) (hb : bit1 w 0 = true) (h : decodePair p w = some i) :
    encode i = bytes32 p ++ bytes32 w := by
  obtain ⟨pf, op, hpf, ho, rfl, -⟩ := decodePair_eq_some h
  rw [encode, encPrefix_of_decodePrefix hp hpf, VROp.code_of_ofCode ho, encVR_vrFields ⟨rfl, hb⟩]

theorem head_bytes16 (w : BitVec 16) (rest : List Byte) : ((bytes16 w ++ rest).headD 0).getLsbD 0 = bit1 w 0 := bit0_ofNat 7 _

theorem head_bytes32 (w : BitVec 32) (rest : List Byte) : ((bytes32 w ++ rest).headD 0).getLsbD 0 = bit1 w 0 := bit0_ofNat 7 _

theorem encode_of_decode {bs : List Byte} {i : Instr} {n : Nat} (h : decode bs = .instr i n) :
    i.wf = true ∧ encode i = bs.take n ∧ (n = 2 ∨ n = 4 ∨ n = 8) ∧ (n = 2 ↔ (bs.headD 0).getLsbD 0 = false) := by
  rcases decode_cases h with ⟨w, rest, rfl, hb, hi, rfl⟩ | ⟨w, rest, rfl, hb, hi, rfl⟩ | ⟨p, w, rest, rfl, hp, hb, hi, rfl⟩
  · rw [head_bytes16, hb]
    exact ⟨wf_of_decode16 hi, encode_of_decode16 hb hi, by simp⟩
  · rw [head_bytes32, hb]
    obtain ⟨hf, hwf⟩ := wf_of_decode32 hi
    exact ⟨hwf, encode_of_decodeFormat hb hf, by simp⟩
  · rw [List.append_assoc, head_bytes32, hp.2]
    obtain ⟨-, -, -, -, -, hwf⟩ := decodePair_eq_some hi
    exact ⟨hwf, encode_of_decodePair hp hb hi, by simp⟩

/-- Eight bytes hold the Prefix word and the word after it (R41): the decoder asks for no more. -/
theorem decode_ne_more {bs : List Byte} (h : 8 ≤ bs.length) (n : Nat) : decode bs ≠ .more n := by
  match bs, h with
  | b0 :: b1 :: b2 :: b3 :: b4 :: b5 :: b6 :: b7 :: rest, _ =>
    unfold decode
    dsimp only
    split
    · split
      · split
        · split <;> simp
        · simp
      · split <;> simp
    · split <;> simp

/-- Settles O57: the fields of a word and their encoding determine each other, format by format (R23 to R40). -/
theorem decodeEncode : Obligations.DecodeEncode := by
  unfold Obligations.DecodeEncode
  exact ⟨fun _ rest hi he => decode_encode hi he rest, fun _ _ _ => encode_of_decode, fun _ n h => decode_ne_more h n⟩

/-- Settles O56: each word is evaluated. -/
theorem decodedWords : Obligations.DecodedWords := by
  unfold Obligations.DecodedWords
  exact ⟨rfl, rfl, rfl, rfl, rfl, rfl, rfl, rfl⟩

end Sys2Proof
end

section
/-! SUPPORT. The end of an instruction (R44, R163, R305): what `State.completed` leaves of streams, gangs and all else (O55), and with it
NOP (O1). -/

namespace Sys2Proof.Machine

/-! ### `OnlyStreams`: what the operations on streams, gangs and counters leave alone. -/

theorem OnlyStreams.refl (s : State) : OnlyStreams s s := rfl

theorem OnlyStreams.trans {a b c : State} (h : OnlyStreams a b) (k : OnlyStreams b c) : OnlyStreams a c := by
  unfold OnlyStreams at h k ⊢
  rw [h] at k
  exact k

theorem State.countCore_onlyStreams (s : State) (core : Option Nat) (ev pasid n : Nat) : OnlyStreams s (s.countCore core ev pasid n) := by
  cases core <;> rfl

/-! ### Counting changes neither streams nor gangs. -/

@[simp] theorem State.countCore_streams (s : State) (core : Option Nat) (ev pasid n : Nat) :
    (s.countCore core ev pasid n).streams = s.streams := by
  cases core <;> rfl

@[simp] theorem State.countCore_gangs (s : State) (core : Option Nat) (ev pasid n : Nat) :
    (s.countCore core ev pasid n).gangs = s.gangs := by
  cases core <;> rfl

@[simp] theorem State.countCore_seq (s : State) (core : Option Nat) (ev pasid n : Nat) :
    (s.countCore core ev pasid n).seq = s.seq := by
  cases core <;> rfl

@[simp] theorem State.countCore_nextSid (s : State) (core : Option Nat) (ev pasid n : Nat) :
    (s.countCore core ev pasid n).nextSid = s.nextSid := by
  cases core <;> rfl

@[simp] theorem State.stream?_countCore (s : State) (core : Option Nat) (ev pasid n sid : Nat) :
    (s.countCore core ev pasid n).stream? sid = s.stream? sid := by
  cases core <;> rfl

@[simp] theorem State.gang?_countCore (s : State) (core : Option Nat) (ev pasid n l k : Nat) :
    (s.countCore core ev pasid n).gang? l k = s.gang? l k := by
  cases core <;> rfl

/-! ### The results of a stream return (`State.settle`). -/

/-- A home gang whose results of stream t have returned (R161, R163). -/
def Gang.returned (t : Stream) (g : Gang) : Gang := { g with pending := g.pending.filter fun p => !p.sids.contains t.sid }

/-- One home gang's part of `State.settle`. -/
def State.settleHome (t : Stream) (s : State) (k : Nat) : State :=
  match s.gang? t.launch k with
  | none => s
  | some g =>
    let lost := (g.pending.filter fun p => p.sids.contains t.sid && g.stale p).length
    (if lost = 0 then s else s.countCore g.core 4 (s.pasidOf t.launch) lost).updGang t.launch k (Gang.returned t)

theorem State.settle_eq_foldl (s : State) (t : Stream) : s.settle t = t.homes.foldl (State.settleHome t) s := rfl

theorem State.settleHome_eq (s : State) (t : Stream) (k : Nat) : s.settleHome t k = s ∨
    ∃ core n, s.settleHome t k = (s.countCore core 4 (s.pasidOf t.launch) n).updGang t.launch k (Gang.returned t) := by
  unfold State.settleHome
  split
  · exact .inl rfl
  · next g _ =>
    dsimp only
    split
    · exact .inr ⟨none, 0, rfl⟩
    · exact .inr ⟨g.core, _, rfl⟩

theorem State.settleHome_onlyStreams (s : State) (t : Stream) (k : Nat) : OnlyStreams s (s.settleHome t k) := by
  rcases s.settleHome_eq t k with h | ⟨core, n, h⟩ <;> rw [h]
  · exact .refl s
  · exact (s.countCore_onlyStreams ..).trans rfl

@[simp] theorem State.settleHome_streams (s : State) (t : Stream) (k : Nat) : (s.settleHome t k).streams = s.streams := by
  rcases s.settleHome_eq t k with h | ⟨core, n, h⟩ <;> simp [h]

@[simp] theorem State.settleHome_seq (s : State) (t : Stream) (k : Nat) : (s.settleHome t k).seq = s.seq := by
  rcases s.settleHome_eq t k with h | ⟨core, n, h⟩ <;> simp [h]

@[simp] theorem State.settleHome_nextSid (s : State) (t : Stream) (k : Nat) : (s.settleHome t k).nextSid = s.nextSid := by
  rcases s.settleHome_eq t k with h | ⟨core, n, h⟩ <;> simp [h]

@[simp] theorem State.stream?_settleHome (s : State) (t : Stream) (k n : Nat) : (s.settleHome t k).stream? n = s.stream? n := by
  simp [State.stream?]

theorem State.gang?_settleHome (s : State) (t : Stream) (k : Nat) :
    (s.settleHome t k).gang? t.launch k = (s.gang? t.launch k).map (Gang.returned t) := by
  unfold State.settleHome
  split
  · next h => simp [h]
  · next g h =>
    dsimp only
    split <;> simp [State.gang?_updGang _ _ _ (Gang.returned t) fun _ => ⟨rfl, rfl⟩]

theorem State.gang?_settleHome_other (s : State) (t : Stream) (k : Nat) {l j : Nat} (h : l ≠ t.launch ∨ j ≠ k) :
    (s.settleHome t k).gang? l j = s.gang? l j := by
  rcases s.settleHome_eq t k with e | ⟨core, n, e⟩ <;> rw [e]
  rw [State.gang?_updGang_other _ _ _ _ _ (Gang.returned t) (fun _ => ⟨rfl, rfl⟩) (by tauto), State.gang?_countCore]

/-! ### An instruction that commits as it ends (`State.retire`), in a stream that is not packed. -/

/-- A home gang in which the stores of instruction `seq` have committed (R305). -/
def Gang.committedStores (seq : Nat) (g : Gang) : Gang :=
  { g with sb := g.sb.map fun e => if e.seq == seq then { e with committed := true } else e }

/-- The stream's counts of rollbacks after the commit of its instruction at `pc` (R309). -/
def Stream.counted (i : Issue) (pc : Word) (t : Stream) : Stream :=
  if i.irrevocable then { t with rbCount := 0, careful := 0 } else t.committedAt pc

/-- The stream keeps nothing of an instruction that is done, but for its spin detector (R282). -/
def Stream.cleared (i : Issue) (t : Stream) : Stream :=
  { t with
    answers := [], walkFails := [], partsDone := [], loading := false, claim := none, grant := none, operands := [], popped := none
    spin := { t.spin with instrs := t.spin.instrs + 1, ok := t.spin.ok && i.spinOk } }

@[simp] theorem Stream.counted_sid (i : Issue) (pc : Word) (t : Stream) : (t.counted i pc).sid = t.sid := by
  unfold Stream.counted
  split <;> rfl

/-- The stores of instruction `s.seq` of gang k committed, and the instruction counted (R305, R363). -/
def State.commitHome (s : State) (t : Stream) (k : Nat) : State :=
  let s1 := s.updGang t.launch k (Gang.committedStores s.seq)
  s1.countCore ((s1.gang? t.launch k).bind Gang.core) 1 (s1.pasidOf t.launch) 1

/-- The instruction of a stream of home gang k has committed, and the stream keeps nothing of it. -/
def State.committedHome (s : State) (t : Stream) (k : Nat) (i : Issue) : State :=
  ((s.commitHome t k).updStream t.sid (Stream.counted i t.pc)).updStream t.sid (Stream.cleared i)

/-- Besides, under H, the stream's results have returned (R22, R305). -/
def State.retiredHome (s : State) (t : Stream) (k : Nat) (i : Issue) : State :=
  if i.hold then (s.committedHome t k i).settleHome t k else s.committedHome t k i

/-- The next instruction's number. -/
def State.nextSeq (s : State) : State := { s with seq := s.seq + 1 }

theorem State.settle_single {t : Stream} {k : Nat} (hk : t.homes = [k]) (s : State) : s.settle t = s.settleHome t k := by
  rw [State.settle_eq_foldl, hk, List.foldl_cons, List.foldl_nil]

/-- `State.retire` at a commit point, for a stream of one home gang. -/
theorem State.retire_single {t : Stream} {k : Nat} (hk : t.homes = [k]) (s : State) (i : Issue) :
    s.retire t i false = (s.retiredHome t k i).nextSeq := by
  have h : s.retire t i false =
      { (if i.hold then (s.committedHome t k i).settle t else s.committedHome t k i) with seq := (s.committedHome t k i).seq + 1 } := by
    unfold State.retire
    rw [hk]
    rfl
  rw [h, State.settle_single hk, State.nextSeq, State.retiredHome]
  cases i.hold
  · rfl
  · simp

section
variable (s : State) (t : Stream) (k : Nat) (i : Issue)

theorem State.commitHome_onlyStreams : OnlyStreams s (s.commitHome t k) :=
  OnlyStreams.trans (b := s.updGang t.launch k (Gang.committedStores s.seq)) rfl (State.countCore_onlyStreams ..)

theorem State.retiredHome_onlyStreams : OnlyStreams s (s.retiredHome t k i) := by
  have h : OnlyStreams s (s.committedHome t k i) := (s.commitHome_onlyStreams t k).trans rfl
  unfold State.retiredHome
  split
  · exact h.trans (State.settleHome_onlyStreams ..)
  · exact h

theorem State.retiredHome_seq : (s.retiredHome t k i).seq = s.seq := by
  unfold State.retiredHome State.committedHome State.commitHome
  dsimp only
  split <;> simp

theorem State.retiredHome_nextSid : (s.retiredHome t k i).nextSid = s.nextSid := by
  unfold State.retiredHome State.committedHome State.commitHome
  dsimp only
  split <;> simp

theorem State.stream?_retiredHome : (s.retiredHome t k i).stream? t.sid = (s.stream? t.sid).map fun u => (u.counted i t.pc).cleared i := by
  unfold State.retiredHome State.committedHome State.commitHome
  dsimp only
  split <;>
    simp [State.stream?_updStream _ _ (Stream.cleared i) fun _ => rfl,
      State.stream?_updStream _ _ (Stream.counted i t.pc) (Stream.counted_sid i t.pc), Function.comp_def]

theorem State.stream?_retiredHome_other {n : Nat} (h : n ≠ t.sid) : (s.retiredHome t k i).stream? n = s.stream? n := by
  unfold State.retiredHome State.committedHome State.commitHome
  dsimp only
  split <;>
    simp [State.stream?_updStream_other _ _ _ (Stream.cleared i) (fun _ => rfl) h,
      State.stream?_updStream_other _ _ _ (Stream.counted i t.pc) (Stream.counted_sid i t.pc) h]

/-- The home gang after the instruction: its stores committed and, under H, the stream's results returned. -/
def Gang.retired (seq : Nat) (g : Gang) : Gang :=
  if i.hold then (g.committedStores seq).returned t else g.committedStores seq

theorem State.gang?_retiredHome : (s.retiredHome t k i).gang? t.launch k = (s.gang? t.launch k).map (Gang.retired t i s.seq) := by
  unfold State.retiredHome State.committedHome State.commitHome Gang.retired
  dsimp only
  split <;>
    simp [State.gang?_settleHome, State.gang?_updGang _ _ _ (Gang.committedStores s.seq) fun _ => ⟨rfl, rfl⟩, Function.comp_def]

theorem State.gang?_retiredHome_other {l j : Nat} (h : l ≠ t.launch ∨ j ≠ k) : (s.retiredHome t k i).gang? l j = s.gang? l j := by
  have h' : ¬(l = t.launch ∧ j = k) := by tauto
  unfold State.retiredHome State.committedHome State.commitHome
  dsimp only
  split <;>
    simp [State.gang?_settleHome_other _ _ _ h, State.gang?_updGang_other _ _ _ _ _ (Gang.committedStores s.seq) (fun _ => ⟨rfl, rfl⟩) h']

end

/-! ### `State.completed`. -/

/-- `State.completed`, for a stream of one home gang. -/
theorem State.completed_single {t : Stream} {k : Nat} (hk : t.homes = [k]) (s : State) (i : Issue) :
    s.completed t i = ((s.advance t.sid i.len).retiredHome t k i).nextSeq := State.retire_single hk ..

theorem State.stream?_advance (s : State) (n len : Nat) :
    (s.advance n len).stream? n = (s.stream? n).map fun t => { t with pc := t.pc + toWord len } :=
  State.stream?_updStream _ _ _ fun _ => rfl

theorem State.stream?_advance_other (s : State) {n m : Nat} (len : Nat) (h : m ≠ n) : (s.advance n len).stream? m = s.stream? m :=
  State.stream?_updStream_other _ _ _ _ (fun _ => rfl) h

theorem Stream.counted_eq (i : Issue) (pc : Word) (t : Stream) : ∃ n c, t.counted i pc = { t with rbCount := n, careful := c } := by
  unfold Stream.counted
  split
  · exact ⟨_, _, rfl⟩
  · exact ⟨_, _, rfl⟩

theorem Gang.committedStores_eq (seq : Nat) (g : Gang) :
    g.committedStores seq = { g with sb := g.sb.map fun e => { e with committed := e.committed || e.seq == seq } } := by
  unfold Gang.committedStores
  congr 1
  refine List.map_congr_left fun e _ => ?_
  cases h : e.seq == seq
  · simp
  · simp

/-- Settles O55: what `State.retire` leaves of the stream and its gang, the PC having moved past the word. -/
theorem completionFrame : Obligations.CompletionFrame := by
  unfold Obligations.CompletionFrame
  intro s t g i hs hk hg
  dsimp only
  rw [State.completed_single hk]
  have stream : ((s.advance t.sid i.len).retiredHome t g.idx i).stream? t.sid =
      some (({ t with pc := t.pc + toWord i.len } : Stream).counted i t.pc |>.cleared i) := by
    rw [State.stream?_retiredHome, State.stream?_advance, hs]
    rfl
  have gang : ((s.advance t.sid i.len).retiredHome t g.idx i).gang? t.launch g.idx = some (Gang.retired t i s.seq g) := by
    rw [State.gang?_retiredHome]
    exact congrArg (Option.map _) hg
  refine ⟨?_, ?_, ?_, ⟨_, stream, ?_⟩, ⟨_, gang, ?_⟩, ?_, ?_⟩
  · exact OnlyStreams.trans (b := s.advance t.sid i.len) rfl ((State.retiredHome_onlyStreams ..).trans rfl)
  · exact congrArg (· + 1) (State.retiredHome_seq ..)
  · exact State.retiredHome_nextSid ..
  · obtain ⟨n, c, h⟩ := Stream.counted_eq i t.pc { t with pc := t.pc + toWord i.len }
    rw [h]
    exact ⟨rfl, rfl, rfl, rfl, rfl, rfl, rfl, rfl, rfl, rfl, rfl, rfl, rfl⟩
  · rw [Gang.retired, Gang.committedStores_eq]
    split <;> rfl
  · intro n hn
    exact (State.stream?_retiredHome_other _ _ _ _ hn).trans (State.stream?_advance_other _ _ hn)
  · intro l k h
    exact State.gang?_retiredHome_other _ _ _ _ h

/-! ### An instruction of a stream that issues undisturbed. -/

theorem Issues.issuing {s : State} {t : Stream} {g : Gang} (h : Issues s t g) : s.cur.bind s.stream? = some t := by
  rw [h.cur, Option.bind_some, h.stream]

theorem Issues.fits {s : State} {t : Stream} {g : Gang} (h : Issues s t g) : s.fits t = true := by
  simp [State.fits, h.homes, h.gang, h.belay, h.stores]

/-- It runs at once, at a commit point. -/
theorem Issues.issue {s : State} {t : Stream} {g : Gang} (h : Issues s t g) {i : Issue} (hi : i.settleFirst = false)
    (eff : Stream → Who → State → Res) :
    ∃ w : Who, w.sid = t.sid ∧ w.tick = s.ticks ∧ w.spec = false ∧ s.issue i eff = .next (s.finish t i false (eff t w s)) :=
  ⟨_, rfl, rfl, rfl, s.issue_drained i eff h.issuing h.drained hi⟩

/-- Settles O1: NOP has no effect of its own, so that only its end is left. -/
theorem nopOnlyMovesPc : Obligations.NopOnlyMovesPc := by
  unfold Obligations.NopOnlyMovesPc
  intro s t g h
  have hx : exec .nop s = execNop s := rfl
  rw [hx, execNop, s.issue_drained _ _ h.issuing h.drained rfl, State.finish, h.fits, if_pos rfl, State.completed]

end Sys2Proof.Machine
end

section
/-! SUPPORT. What a step runs (O58; spec/02_instruction_words.md R20, R21, R44): the word that the fetched bytes decode to. -/

namespace Sys2Proof.Machine

/-! Bytes of memory. -/

theorem Memory.length_read (m : Memory) : ∀ n a, (m.read a n).length = n
  | 0, _ => rfl
  | n + 1, a => by simp [Memory.read, Memory.length_read m n (a + 1)]

theorem Memory.drop_read (m : Memory) : ∀ k n a, (m.read a n).drop k = m.read (a + k) (n - k)
  | 0, _, _ => rfl
  | k + 1, 0, a => by simp [Memory.read]
  | k + 1, n + 1, a => by
    rw [Memory.read, List.drop_succ_cons, Memory.drop_read m k n (a + 1), Nat.add_sub_add_right, show a + 1 + k = a + (k + 1) by omega]

/-! The line that a fetch puts into the buffer. -/

theorem State.touchTlb_cached (s : State) (core : Option Nat) (pasid va : Nat) (acc : Access) : Cached s (s.touchTlb core pasid va acc) := by
  unfold State.touchTlb
  cases core with
  | none => exact Cached.refl s
  | some c =>
    simp only
    split
    · exact Cached.refl s
    · split
      · exact ⟨rfl, rfl⟩
      · exact Cached.refl s

/-- A translation that a core finds comes from its TLBs, whichever stream asks for it. -/
theorem State.translate_ok_of_tlbHit {s s' : State} {c pasid va : Nat} {acc : Access} {x : Xlat}
    (h : s'.tlbHit c pasid va acc = s.tlbHit c pasid va acc) (hx : s.translate (some c) pasid va acc = .ok x) :
    s'.translate (some c) pasid va acc = .ok x := by
  simp only [State.translate, h] at hx ⊢
  split at hx
  · exact hx
  · nomatch hx

/-- A line's bytes put into a core's buffer for a launch (R21). -/
def State.buffered (s : State) (core launch line : Nat) (bytes : List Byte) : List FetchedLine :=
  { core := core, launch := launch, va := line, bytes := bytes } ::
    s.ibuf.filter fun y => !(y.core == core && y.launch == launch && y.va == line)

/-- A fetch of a line that core's translation finds: its bytes come into the buffer, and only caches change besides (R21). -/
theorem State.fetchLine_ok {s : State} {t : Stream} {core line : Nat} {pc : Word} {x : Xlat} (calm : Calm s) (hc : canonical pc = true)
    (hx : s.translate (some core) (s.pasidOf t.launch) line .fetch = .ok x) :
    ∃ u, Cached s u ∧ s.fetchLine t core line pc =
      .line { u with ibuf := u.buffered core t.launch line (s.mem.read (lineOf x.pa) 64) } := by
  refine ⟨(s.touchTlb (some core) (s.pasidOf t.launch) line .fetch).readL2 (dieOf core) (s.pasidOf t.launch) (lineOf x.pa), ?_, ?_⟩
  · exact (s.touchTlb_cached ..).trans (State.readL2_cached ..)
  · have cached := (s.touchTlb_cached (some core) (s.pasidOf t.launch) line .fetch).trans
      (State.readL2_cached _ (dieOf core) (s.pasidOf t.launch) (lineOf x.pa))
    simp [State.fetchLine, hc, hx, calm.errors, calm.guest, State.buffered, cached.mem]

theorem State.fetched_buffered (s : State) (core launch line : Nat) (bytes : List Byte) :
    ({ s with ibuf := s.buffered core launch line bytes } : State).fetched core launch line = some bytes := by
  simp [State.fetched, State.buffered]

/-- Where the buffer holds the line of the PC and eight bytes of it are left, they are what is decoded. -/
theorem State.codeBytes_of_fetched {s : State} {t : Stream} {core : Nat} {pc : Word} {bytes : List Byte}
    (h : s.fetched core t.launch (lineOf (vaOf pc)) = some bytes) (hl : vaOf pc % 64 + 8 ≤ bytes.length) :
    s.codeBytes t core pc = bytes.drop (vaOf pc % 64) := by
  simp only [State.codeBytes, h, List.length_drop, if_pos (show 8 ≤ bytes.length - vaOf pc % 64 by omega)]

theorem State.codeBytes_of_not_fetched {s : State} {t : Stream} {core : Nat} {pc : Word}
    (h : s.fetched core t.launch (lineOf (vaOf pc)) = none) : s.codeBytes t core pc = [] := by
  simp only [State.codeBytes, h]

/-! The word at the PC. -/

theorem State.fetchWord_decoded {s : State} {t : Stream} {core fuel : Nat} (h : ∀ n, decode (s.codeBytes t core t.pc) ≠ .more n) :
    s.fetchWord t core (fuel + 1) = .word s (decode (s.codeBytes t core t.pc)) := by
  rw [State.fetchWord]
  cases hd : decode (s.codeBytes t core t.pc) with
  | more n => exact absurd hd (h n)
  | instr i n => rfl
  | illegal info n => rfl

theorem State.fetchWord_miss {s u : State} {t : Stream} {core fuel : Nat} (h : s.codeBytes t core t.pc = [])
    (hf : s.fetchLine t core (lineOf (vaOf t.pc)) t.pc = .line u) : s.fetchWord t core (fuel + 1) = u.fetchWord t core fuel := by
  have h0 : t.pc + toWord 0 = t.pc := BitVec.add_zero _
  have hd : decode [] = .more 2 := rfl
  rw [State.fetchWord]
  simp only [h, hd, List.length_nil, h0, hf]

/-! The step. -/

/-- With no window that is to close and no gang in error, nothing is due. -/
theorem State.forced_eq {s : State} (hw : s.dueWindows = []) (hb : ∀ g ∈ s.gangs, g.bad = false) : s.forced = s := by
  have none : (s.gangs.filter fun g => g.bad && g.place.isSome) = [] := List.filter_eq_nil_iff.mpr fun g hg => by simp [hb g hg]
  simp [State.forced, hw, State.failBad, none]

theorem step_agenda {s : State} {i : Instr} {rest : List Instr} (h : s.tick.forced.agenda = i :: rest) :
    step s = exec i { s.tick.forced with agenda := rest, cur := none } := by
  simp only [step, h]

/-- In an instruction's turn, with nothing on the agenda, the next stream issues. -/
theorem step_issue {s : State} {t : Stream} (ha : s.tick.forced.agenda = []) (ht : s.turn = true)
    (hn : s.tick.forced.nextStream = some t) : step s = issueStep t { s.tick.forced with cur := some t.sid, last := t.sid } := by
  simp only [step, ha, ht, Bool.true_or, if_true, hn]

theorem issueStep_word {s u : State} {t : Stream} {c : Nat} {d : Decoded} (hr : s.report? t = false) (hs : t.spin.count < 16)
    (hc : s.streamCore t = some c) (hw : s.fetchWord t c 3 = .word u d) :
    issueStep t s = match (generalizing := false) d with
      | .instr i _ => exec i u
      | .illegal info _ => exec (.illegalInstruction info) u
      | .more _ => .next u := by
  rw [issueStep, if_neg (by simp [hr]), if_neg (by omega)]
  simp only [hc, hw]
  cases d <;> rfl

/-- The bytes at the PC decode to an instruction: it is executed. -/
theorem issueStep_instr {s : State} {t : Stream} {c : Nat} {i : Instr} {n : Nat} (hr : s.report? t = false) (hs : t.spin.count < 16)
    (hc : s.streamCore t = some c) (hd : decode (s.codeBytes t c t.pc) = .instr i n) : issueStep t s = exec i s := by
  have hw : s.fetchWord t c 3 = .word s (.instr i n) := hd ▸ State.fetchWord_decoded fun k => by rw [hd]; nofun
  rw [issueStep_word hr hs hc hw]

/-- The bytes at the PC are illegal: the trap's event is executed (R43). -/
theorem issueStep_illegal {s : State} {t : Stream} {c : Nat} {info : Word} {n : Nat} (hr : s.report? t = false) (hs : t.spin.count < 16)
    (hc : s.streamCore t = some c) (hd : decode (s.codeBytes t c t.pc) = .illegal info n) :
    issueStep t s = exec (.illegalInstruction info) s := by
  have hw : s.fetchWord t c 3 = .word s (.illegal info n) := hd ▸ State.fetchWord_decoded fun k => by rw [hd]; nofun
  rw [issueStep_word hr hs hc hw]

/-- The buffer has not the line of the PC, and translation finds it: what the line's bytes from the PC on decode to is executed. -/
theorem issueStep_fetch {s : State} {t : Stream} {c : Nat} {x : Xlat} {i : Instr} {n : Nat} (hr : s.report? t = false)
    (hs : t.spin.count < 16) (hc : s.streamCore t = some c) (calm : Calm s) (hcan : canonical t.pc = true)
    (hf : s.fetched c t.launch (lineOf (vaOf t.pc)) = none) (hl : vaOf t.pc % 64 ≤ 56)
    (hx : s.translate (some c) (s.pasidOf t.launch) (lineOf (vaOf t.pc)) .fetch = .ok x)
    (hd : decode (s.mem.read (x.pa / 64 * 64 + vaOf t.pc % 64) (64 - vaOf t.pc % 64)) = .instr i n) :
    ∃ u buffer, Cached s u ∧ issueStep t s = exec i { u with ibuf := buffer } := by
  obtain ⟨u, cached, hline⟩ := State.fetchLine_ok calm hcan hx
  refine ⟨u, u.buffered c t.launch (lineOf (vaOf t.pc)) (s.mem.read (lineOf x.pa) 64), cached, ?_⟩
  have held := u.fetched_buffered c t.launch (lineOf (vaOf t.pc)) (s.mem.read (lineOf x.pa) 64)
  generalize ({ u with ibuf := _ } : State) = v at hline held ⊢
  have hbytes : decode (v.codeBytes t c t.pc) = .instr i n := by
    rw [State.codeBytes_of_fetched held (by rw [Memory.length_read]; omega), Memory.drop_read]
    exact hd
  have hw : s.fetchWord t c 3 = .word v (.instr i n) := by
    rw [State.fetchWord_miss (State.codeBytes_of_not_fetched hf) hline, State.fetchWord_decoded fun k => by rw [hbytes]; nofun, hbytes]
  rw [issueStep_word hr hs hc hw]

/-- Settles O58: what the fetched bytes decode to is executed, and a line that the buffer has not is fetched first. -/
theorem stepRunsDecodedInstruction : Obligations.StepRunsDecodedInstruction := by
  unfold Obligations.StepRunsDecodedInstruction
  intro s ticked now
  refine ⟨State.forced_eq, fun i rest h => step_agenda h, ?_⟩
  intro t c ha ht hn hr hs hc issuing
  have hstep : step s = issueStep t issuing := step_issue ha ht hn
  clear_value now
  rw [hstep]
  exact ⟨fun i n => issueStep_instr (s := issuing) hr hs hc, fun info n => issueStep_illegal (s := issuing) hr hs hc,
    fun x i n calm hcan hf hl hx => issueStep_fetch (s := issuing) hr hs hc
      ⟨calm.signatures, calm.windows, calm.regions, calm.guest, calm.errors⟩ hcan hf hl (State.translate_ok_of_tlbHit (s := now) rfl hx)⟩

end Sys2Proof.Machine
end

section
/-! SUPPORT. Translation, fetch and snoop (O31; spec R21, R76, R78, R81, R82, R93). -/

namespace Sys2Proof.Machine

/-! Words in memory. -/

theorem length_leBytes : ∀ n v, (leBytes n v).length = n
  | 0, _ => rfl
  | n + 1, v => by rw [leBytes, List.length_cons, length_leBytes n]

theorem length_wordBytes (w : Word) : (wordBytes w).length = 8 := length_leBytes 8 _

theorem Memory.read_write_same : ∀ (bs : List Byte) {m : Memory} (a : Nat), m.wf = true → (m.write a bs).read a bs.length = bs
  | [], _, _, _ => rfl
  | b :: bs, m, a, w => by
    rw [List.length_cons, Memory.read, Memory.write, Memory.read_write_same bs (a + 1) (Memory.wf_set a b w),
      Memory.get_write_other bs (Memory.wf_set a b w) (.inl (Nat.lt_succ_self a)), Memory.get_set w, if_pos rfl]

theorem Memory.word_write_same {m : Memory} (h : m.wf = true) (a : Nat) (w : Word) : (m.write a (wordBytes w)).word a = w := by
  have hr : (m.write a (wordBytes w)).read a 8 = wordBytes w := by
    simpa [length_wordBytes] using Memory.read_write_same (wordBytes w) a h
  rw [Memory.word, Memory.nat, hr, wordBytes, leNat_leBytes, Nat.mod_eq_of_lt (by exact w.isLt), BitVec.ofNat_toNat, BitVec.setWidth_eq]

/-! Hardware's own writes. -/

/-- Bytes that hardware itself writes in a calm state: caches and watches change besides. -/
theorem State.storeRaw_calm {s : State} (c : Calm s) (a : Nat) (bytes : List Byte) :
    CachedWith s (s.mem.write a bytes) (s.storeRaw a bytes) := by
  have fold : ∀ (gs : List (List Host.Cell)) (s : State), Calm s →
      CachedWith s (gs.flatten.foldl (fun (m : Memory) (c : Host.Cell) => m.set c.1 c.2) s.mem)
        (gs.foldl (fun s g => s.storeLine none none false g) s) := by
    intro gs
    induction gs with
    | nil => exact fun s _ => ⟨rfl, rfl⟩
    | cons g gs ih =>
      intro s c
      have first := State.storeLine_calm c none none false g
      have others := ih _ (first.calm c)
      rw [first.mem] at others
      simpa [List.foldl_append] using first.trans others
  have stored := fold (byLine (cellsOf a bytes)) s c
  rwa [byLine_flatten, Memory.foldl_cells] at stored

/-- The bits that a walk sets in a leaf: A, and D for a write (R78). -/
def Access.marks (acc : Access) : Word := if acc.writes then 0x600#64 else 0x200#64

/-- A, and D for a write, are set in the leaf that memory holds (R78). -/
theorem State.markLeaf_calm {s : State} (inv : s.Inv) (c : Calm s) {x : Xlat} (hl : x.leaf = s.mem.word x.leafPa) (acc : Access) :
    ∃ m, CachedWith s m (s.markLeaf x acc) ∧ m.word x.leafPa = s.mem.word x.leafPa ||| acc.marks ∧
      ∀ a, a < x.leafPa ∨ x.leafPa + 8 ≤ a → m.get a = s.mem.get a := by
  change ∃ m, CachedWith s m (if x.leaf ||| acc.marks = x.leaf then s else
    s.storeRaw x.leafPa (wordBytes (s.mem.word x.leafPa ||| acc.marks))) ∧ _
  split
  · next h => exact ⟨s.mem, ⟨rfl, rfl⟩, hl ▸ h.symm, fun _ _ => rfl⟩
  · exact ⟨_, State.storeRaw_calm c _ _, Memory.word_write_same inv _ _,
      fun a ha => Memory.get_write_other _ inv (by rw [length_wordBytes]; exact ha)⟩

/-! What a change of caches leaves of a stream. -/

theorem Cached.map_stream? {s s' : State} (h : Cached s s') (n : Nat) :
    (s'.stream? n).map Stream.unnoted = (s.stream? n).map Stream.unnoted := by
  have find (l : List Stream) :
      (l.find? fun t => t.sid == n).map Stream.unnoted = (l.map Stream.unnoted).find? fun t => t.sid == n := by
    rw [List.find?_map]; rfl
  rw [State.stream?, State.stream?, find, find, h.1]

/-- A stream of the state before, as it is now: what it notes may differ. -/
theorem Cached.stream? {s s' : State} (h : Cached s s') {n : Nat} {t : Stream} (ht : s.stream? n = some t) :
    ∃ u, s'.stream? n = some u ∧ u.unnoted = t.unnoted := by
  have k := h.map_stream? n
  rw [ht] at k
  simpa using k

theorem Cached.misses {s s' : State} (h : Cached s s') : s'.misses = s.misses := (congrArg State.misses h.2 :)

theorem State.streamCore_congr {s s' : State} {t u : Stream} (hg : s'.gangs = s.gangs) (hu : u.unnoted = t.unnoted) :
    s'.streamCore u = s.streamCore t := by
  have homes : u.homes = t.homes := (congrArg Stream.homes hu :)
  have launch : u.launch = t.launch := (congrArg Stream.launch hu :)
  simp only [State.streamCore, State.coreOf, State.gang?, homes, launch, hg]

/-! The end of a walk. -/

theorem State.countCore_cached (s : State) (core : Option Nat) (ev pasid n : Nat) : Cached s (s.countCore core ev pasid n) := by
  cases core with
  | none => exact Cached.refl s
  | some c => exact s.count_cached ..


theorem State.cacheWalk_cached (s : State) (die : Option Nat) (pasid root va : Nat) : Cached s (s.cacheWalk die pasid root va) := by
  unfold State.cacheWalk
  cases die with
  | none => exact Cached.refl s
  | some d =>
    simp only
    split
    · exact Cached.refl s
    · split
      · exact Cached.refl s
      · split_ifs
        all_goals first | exact Cached.refl s | exact ⟨rfl, rfl⟩

/-- The only outstanding miss is served by a walker of its die. -/
theorem State.walking_single {s : State} {m : TlbMiss} (h : s.misses = [m]) (hd : m.die < 2) : s.walking 0 ++ s.walking 1 = [m] := by
  have cases : m.die = 0 ∨ m.die = 1 := by omega
  rcases cases with hd | hd <;> simp [State.walking, h, hd]

/-- The stream as the end of a miss leaves it: it tries again if it waited for a walk of the die (R82). -/
theorem State.stream?_endMiss (s : State) (m : TlbMiss) (r : Except XFail Xlat) (n : Nat) {t : Stream} (ht : s.stream? n = some t) :
    ∃ fails, (s.endMiss m r).stream? n = some { t with
      walkFails := fails
      wait := if t.wait = .walk && (s.streamCore t).any fun c => dieOf c == m.die then .none else t.wait } := by
  refine ⟨t.walkFails ++ m.waiters.filterMap fun w => if w.1 = t.sid then (walkResult r w.2).map fun e => (m.page, w.2, e) else none, ?_⟩
  simp only [State.endMiss, State.stream?, List.find?_map] at ht ⊢
  exact congrArg (Option.map _) ht

/-- The walk of the only miss ends in a translation that its one access may use: the marks are set in the leaf, the entry is in the TLBs
of the stream's core, and the miss is over (R76, R78, R81, R82). -/
theorem State.walkMiss_one {s : State} {t : Stream} {c : Nat} {m : TlbMiss} {acc : Access} {x : Xlat} (ht : s.stream? t.sid = some t)
    (hc : s.streamCore t = some c) (hw : m.waiters = [(t.sid, acc)])
    (hx : s.walkFor (some m.die) m.pasid (m.page * 65536) = .ok x) (hp : permits acc x.kind x.w x.x = true) :
    ∃ v, Cached (s.markLeaf x acc) v ∧
      s.walkMiss m = (v.installTlb c (x.entry c m.pasid (x.leaf.getLsbD 10 || acc.writes))).endMiss m (.ok x) := by
  have passed : (m.waiters.filter fun w => (walkResult (.ok x) w.2).isNone) = [(t.sid, acc)] := by
    simp [hw, walkResult, hp]
  have cores : ([(t.sid, acc)].filterMap fun w => (s.stream? w.1).bind s.streamCore).eraseDups = [c] := by
    simp [ht, hc, List.eraseDups_cons]
  simp only [State.walkMiss, hx, passed, cores, List.foldl_cons, List.foldl_nil, List.any_cons, List.any_nil, Bool.or_false]
  refine ⟨_, ?_, rfl⟩
  split
  · exact (State.cacheWalk_cached ..).trans (State.countCore_cached ..)
  · exact State.cacheWalk_cached ..

/-- PAGE_WALK of the only miss, for which one access of the stream waits. -/
theorem exec_pageWalk {s : State} {t : Stream} {c : Nat} {va : Word} {m : TlbMiss} {acc : Access} {x : Xlat} (inv : s.Inv)
    (calm : Calm s) (ht : s.stream? t.sid = some t) (hc : s.streamCore t = some c) (hdie : m.die = c / 128) (hd : m.die < 2)
    (hpage : m.page = vaOf va / 65536) (hw : m.waiters = [(t.sid, acc)]) (hm : s.misses = [m])
    (hx : s.walkFor (some m.die) m.pasid (m.page * 65536) = .ok x) (hp : permits acc x.kind x.w x.x = true)
    (hleaf : x.leaf = s.mem.word x.leafPa) :
    ∃ s' e u, exec (.pageWalk t.sid va acc.writes) s = .next s' ∧
       s'.mem.word x.leafPa = s.mem.word x.leafPa ||| acc.marks ∧
       (∀ a, a < x.leafPa ∨ x.leafPa + 8 ≤ a → s'.mem.get a = s.mem.get a) ∧ s'.tlb.head? = some e ∧
       e = { x.entry c m.pasid (acc.writes || x.leaf.getLsbD 10) with core := c } ∧
       s'.misses = [] ∧ s'.stream? t.sid = some u ∧ (t.wait = .walk → u.wait = .none) ∧ u.pc = t.pc ∧ s'.gangs = s.gangs := by
  obtain ⟨mem, marked, hword, hget⟩ := State.markLeaf_calm inv calm hleaf acc
  obtain ⟨v, cached, hv⟩ := State.walkMiss_one ht hc hw hx hp
  have all : Cached { s with mem := mem } v := Cached.trans marked cached
  obtain ⟨u, hu, unnoted⟩ := Cached.stream? all (n := t.sid) (t := t) ht
  generalize he : x.entry c m.pasid (x.leaf.getLsbD 10 || acc.writes) = e at hv
  obtain ⟨fails, hend⟩ := State.stream?_endMiss (v.installTlb c e) m (.ok x) t.sid (t := u) hu
  have hexec : exec (.pageWalk t.sid va acc.writes) s = .next (s.walkMiss m) := by
    change execPageWalk _ _ _ s = _
    simp [execPageWalk, State.walking_single hm hd, hpage, hw]
  refine ⟨_, _, _, hexec, ?_, ?_, ?_, rfl, ?_, hv ▸ hend, ?_, ?_, ?_⟩
  · rw [hv]; exact all.mem ▸ hword
  · rw [hv]; exact all.mem ▸ hget
  · rw [hv, ← he, Bool.or_comm]; rfl
  · rw [hv]
    change v.misses.filter (· != m) = []
    rw [Cached.misses all]
    simp [hm]
  · intro h
    have same : u.wait = t.wait := (congrArg Stream.wait unnoted :)
    have core : (v.installTlb c e).streamCore u = some c :=
      (State.streamCore_congr (s := s) (s' := v.installTlb c e) (Cached.gangs all :) unnoted).trans hc
    simp [same, h, core, dieOf, hdie]
  · exact (congrArg Stream.pc unnoted :)
  · rw [hv]; exact (Cached.gangs all :)

/-! A fetch by itself. -/

/-- Nothing of a line's address is lost in a word, and it is canonical. -/
theorem canonical_toWord {line : Nat} (h : line < 2 ^ 54) : canonical (toWord line) = true := by
  have lt : line < 2 ^ 64 := by omega
  simp only [canonical, bits, field, toWord, BitVec.toNat_ofNat, Nat.mod_eq_of_lt lt, Nat.div_eq_of_lt h]
  rfl

/-- INSTRUCTION_FETCH of a line that the core's translation finds. -/
theorem exec_instructionFetch {s : State} {t : Stream} {c line : Nat} {x : Xlat} (calm : Calm s) (ht : s.stream? t.sid = some t)
    (hc : s.streamCore t = some c) (hw : t.wait = .none) (hs : t.stopped = false) (ha : line % 64 = 0) (hl : line < 2 ^ 54)
    (hcan : canonical t.pc = true) (hx : s.translate (some c) (s.pasidOf t.launch) line .fetch = .ok x) :
    ∃ u buffer, Cached s u ∧ exec (.instructionFetch t.sid line) s = .next { u with ibuf := buffer } ∧
      { u with ibuf := buffer }.fetched c t.launch line = some (s.mem.read (lineOf x.pa) 64) := by
  have hline : lineOf (line % 2 ^ 55) = line := by unfold lineOf; omega
  have aligned : lineOf line = line := by unfold lineOf; omega
  have pc : canonical (if lineOf (vaOf t.pc) = line then t.pc else toWord line) = true := by
    split
    · exact hcan
    · exact canonical_toWord hl
  obtain ⟨u, cached, fetched⟩ := State.fetchLine_ok (core := c) calm pc hx
  refine ⟨u, _, cached, ?_, u.fetched_buffered c t.launch line _⟩
  change execInstructionFetch _ _ s = _
  simp only [execInstructionFetch, ht, hc, hw, hs, hline, aligned, fetched, bne_self_eq_false, Bool.or_self, Bool.false_eq_true, if_false]

/-! A snoop. -/

theorem State.dropL2_l2 (s : State) (die pa : Nat) : (s.dropL2 die pa).l2 = s.l2.filter fun x => !(x.die == die && x.pa == pa) := rfl

theorem State.dropL2_l1 (s : State) (die pa : Nat) : (s.dropL2 die pa).l1 = s.l1.filter fun x => !(x.pa == pa && dieOf x.core == die) := rfl

theorem State.dropL2_hostLines (s : State) (die pa : Nat) :
    (s.dropL2 die pa).hostLines = s.hostLines.filter fun x => !(x.die == die && x.pa == pa) := rfl

/-- The state after both dies have dropped a line. -/
def State.dropBoth (s : State) (line : Nat) : State := (s.dropL2 0 line).dropL2 1 line

theorem State.dropBoth_l2 {s : State} {line : Nat} : ∀ x ∈ (s.dropBoth line).l2, x.die < 2 → x.pa ≠ line := by
  intro x hx hd
  simp only [State.dropBoth, State.dropL2_l2, List.mem_filter] at hx
  have dies : x.die = 0 ∨ x.die = 1 := by omega
  rcases dies with dies | dies <;> simp_all

theorem State.dropBoth_hostLines {s : State} {line : Nat} : ∀ x ∈ (s.dropBoth line).hostLines, x.die < 2 → x.pa ≠ line := by
  intro x hx hd
  simp only [State.dropBoth, State.dropL2_hostLines, List.mem_filter] at hx
  have dies : x.die = 0 ∨ x.die = 1 := by omega
  rcases dies with dies | dies <;> simp_all

theorem State.dropBoth_l1 {s : State} {line : Nat} : ∀ x ∈ (s.dropBoth line).l1, x.core < 256 → x.pa ≠ line := by
  intro x hx hd
  simp only [State.dropBoth, State.dropL2_l1, List.mem_filter] at hx
  have dies : dieOf x.core = 0 ∨ dieOf x.core = 1 := by unfold dieOf; omega
  rcases dies with dies | dies <;> simp_all

theorem State.dropBoth_cached (s : State) (line : Nat) : Cached s (s.dropBoth line) :=
  (s.dropL2_cached 0 line).trans (State.dropL2_cached _ 1 line)

/-- What a snoop of a line leaves, before its watchers look again: no copy here, and the host's bytes in its memory (R93). -/
def State.snooped (s : State) (a : Snoop) : State :=
  let line := lineOf a.pa
  { s.dropBoth line with
    guest := { (s.dropBoth line).guest with shared := (s.dropBoth line).guest.shared.filter (· != line) }
    mem := if isHostPa a.pa then (s.dropBoth line).mem.write line (a.data.take 64) else (s.dropBoth line).mem }

/-- HOST_SNOOP in a calm state, where no signature answers to it. -/
theorem exec_hostSnoop {s : State} (calm : Calm s) (a : Snoop) :
    exec (.hostSnoop a) s = .next ((s.snooped a).touchWatch none fun _ p => p.isLine (lineOf a.pa)) := by
  have cached := s.dropBoth_cached (lineOf a.pa)
  have quiet : ∀ g ∈ ((s.snooped a).touchWatch none fun _ p => p.isLine (lineOf a.pa)).gangs, g.sig = [] :=
    fun g hg => calm.signatures g (cached.gangs ▸ hg)
  rw [← State.testSignatures_quiet quiet none fun _ p => p.isLine (lineOf a.pa)]
  change execHostSnoop a s = _
  rw [execHostSnoop, if_neg (by simp [calm.guest]), State.snooped]
  cases isHostPa a.pa <;> rfl

/-- Settles O31: one theorem for each event. -/
theorem translationAndLines : Obligations.TranslationAndLines := by
  unfold Obligations.TranslationAndLines
  refine ⟨?_, ?_, fun s pa data calm => ?_⟩
  · intro s t c va m acc x inv calm ht hc hdie hd hpage hw hm hx hp _ hleaf
    exact exec_pageWalk inv calm ht hc hdie hd hpage hw hm hx hp hleaf
  · intro s t c line x calm ht hc hw hs ha hl hcan hx
    exact exec_instructionFetch calm ht hc hw hs ha hl hcan hx
  · refine ⟨_, exec_hostSnoop calm ⟨pa, data⟩, ?_, (s.dropBoth_cached (lineOf pa)).gangs, State.dropBoth_hostLines (s := s) (line := lineOf pa),
      State.dropBoth_l2 (s := s) (line := lineOf pa), State.dropBoth_l1 (s := s) (line := lineOf pa), ?_⟩
    · change (if isHostPa pa then (s.dropBoth (lineOf pa)).mem.write _ _ else (s.dropBoth (lineOf pa)).mem) = _
      rw [(s.dropBoth_cached (lineOf pa)).mem]
      simp [isHostPa, lineOf]
    · change lineOf pa ∉ (s.dropBoth (lineOf pa)).guest.shared.filter (· != lineOf pa)
      simp

end Sys2Proof.Machine
end

section
/-! SUPPORT. What a gang leaves and finds as it takes a trap (O18; spec R251, R264, R319 to R321): the streams of a gang and their slots,
the condition of a branch by lane, and `State.raiseTrap` where the launch has a handler. -/

namespace Sys2Proof.Machine

/-! ### The home gangs of a stream. -/

theorem mem_insertBy {le : α → α → Bool} {a x : α} : ∀ {l : List α}, a ∈ insertBy le x l ↔ a = x ∨ a ∈ l
  | [] => by simp [insertBy]
  | b :: l => by
    unfold insertBy
    split
    · simp
    · simp only [List.mem_cons, mem_insertBy (l := l)]
      tauto

theorem mem_sortNat {a : Nat} {l : List Nat} : a ∈ sortNat l ↔ a ∈ l := by
  unfold sortNat sortBy
  induction l with
  | nil => rfl
  | cons x l ih => rw [List.foldr_cons, mem_insertBy, ih, List.mem_cons]

/-- Keeping only the first of equal elements loses none. -/
theorem mem_foldr_first {a : Nat} {l : List Nat} : a ∈ l.foldr (fun k acc => k :: acc.filter (· != k)) [] ↔ a ∈ l := by
  induction l with
  | nil => rfl
  | cons x l ih =>
    rw [List.foldr_cons, List.mem_cons, List.mem_cons, List.mem_filter, ih, bne_iff_ne]
    tauto

theorem Stream.mem_slotsOf {t : Stream} {k i : Nat} : i ∈ t.slotsOf k ↔ i < 8 ∧ vget t.slots i none = some k := by
  simp [Stream.slotsOf]

theorem Stream.mem_homes {t : Stream} {k : Nat} : k ∈ t.homes ↔ ∃ i < 8, vget t.slots i none = some k := by
  rw [Stream.homes, mem_sortNat, mem_foldr_first]
  simp [List.mem_filterMap]

theorem Stream.has_iff_mem_homes {t : Stream} {k : Nat} : t.has k = true ↔ k ∈ t.homes := by
  rw [Stream.mem_homes, Stream.has, Bool.not_eq_true', List.isEmpty_eq_false_iff_exists_mem]
  exact exists_congr fun i => Stream.mem_slotsOf

theorem State.mem_streamsOf {s : State} {l k : Nat} {t : Stream} : t ∈ s.streamsOf l k ↔ t ∈ s.streams ∧ t.launch = l ∧ k ∈ t.homes := by
  rw [State.streamsOf, List.mem_filter, Bool.and_eq_true, beq_iff_eq, Stream.has_iff_mem_homes]

theorem State.mem_of_stream? {s : State} {n : Nat} {t : Stream} (h : s.stream? n = some t) : t ∈ s.streams ∧ t.sid = n :=
  ⟨List.mem_of_find?_eq_some h, by simpa using List.find?_some h⟩

/-- A stream that is not packed has its lanes in its one home gang. -/
theorem Stream.lanes_single {t : Stream} {k : Nat} (h : t.homes = [k]) : lanesOf (t.slotsOf k) = t.active := by
  refine congrArg lanesOf (List.filter_congr fun i hi => ?_)
  cases hv : vget t.slots i none with
  | none => rfl
  | some j =>
    have mem : j ∈ t.homes := Stream.mem_homes.mpr ⟨i, List.mem_range.mp hi, hv⟩
    rw [h, List.mem_singleton] at mem
    simp [mem]

/-! ### Bits and lanes. -/

theorem vget_vtab {n : Nat} (f : Nat → α) (d : α) {i : Nat} (h : i < n) : vget (vtab n f) i d = f i := by
  simp [vget, vtab, h]

theorem lane_byLane (f : Nat → Word) {l : Nat} (h : l < 32) : lane (byLane f) l = f l := vget_vtab f 0#64 h

theorem getLsbD_one_shiftLeft {w j : Nat} (i : Nat) (h : j < w) : (1#w <<< i).getLsbD j = (j == i) := by
  rw [← BitVec.twoPow_eq, BitVec.getLsbD_twoPow]
  by_cases e : j = i
  · simp [e ▸ h, e]
  · simp [e, Ne.symm e]

theorem getLsbD_maskOf (f : Nat → Bool) {i : Nat} (h : i < 32) : (maskOf f).getLsbD i = f i := by
  have upto (n : Nat) : ((List.range n).foldl (fun m l => if f l then m ||| (1#32 <<< l) else m) 0#32).getLsbD i =
      ((List.range n).contains i && f i) := by
    induction n with
    | zero => simp
    | succ n ih =>
      have step (m : BitVec 32) : (if f n then m ||| (1#32 <<< n) else m).getLsbD i = (m.getLsbD i || i == n && f i) := by
        by_cases e : i = n
        · subst e; cases hf : f i <;> simp [getLsbD_one_shiftLeft _ h]
        · cases f n <;> simp [getLsbD_one_shiftLeft _ h, beq_eq_false_iff_ne.mpr e]
      rw [List.range_succ, List.foldl_append, List.foldl_cons, List.foldl_nil, step, ih, List.contains_append, Bool.and_or_distrib_right,
        List.contains_cons, List.contains_nil, Bool.or_false]
  rw [maskOf, upto 32]
  simp [h]

/-- The slices of some slots, as HMSLICES has them. -/
theorem getLsbD_slices {k : Nat} (h : k < 8) (slots : List Nat) :
    (slots.foldl (fun m i => m ||| (1#8 <<< i)) 0#8).getLsbD k = slots.contains k := by
  have onto (m : BitVec 8) : (slots.foldl (fun m i => m ||| (1#8 <<< i)) m).getLsbD k = (m.getLsbD k || slots.contains k) := by
    induction slots generalizing m with
    | nil => simp
    | cons i slots ih => rw [List.foldl_cons, ih, BitVec.getLsbD_or, getLsbD_one_shiftLeft i h, List.contains_cons, Bool.or_assoc]
  simpa using onto 0#8

/-! ### The condition of a branch in a gang with nothing outstanding (R251). -/

/-- With no result in flight and no unordered write, a read gives the register file's value. -/
theorem Gang.read_quiet {g : Gang} (hp : g.pending = []) (hr : g.races = []) (sid tick : Nat) (r : RegRef) (w : Nat) :
    g.read sid tick r w = g.reg r := by
  simp [Gang.read, Gang.racesOf, Gang.pendingOf, hp, hr, mixAll]

theorem Issues.getLsbD_branchCond {s : State} {t : Stream} {g : Gang} (h : Issues s t g) (f : BRFields) (tick : Nat) {l : Nat}
    (hl : l < 32) : (s.branchCond t tick f &&& t.active).getLsbD l = (t.active.getLsbD l && laneCond t g f.c.toNat l) := by
  have rows : lanesOf (t.slotsOf g.idx) = t.active := Stream.lanes_single h.homes
  rw [BitVec.getLsbD_and, Bool.and_comm, State.branchCond, laneCond]
  by_cases low : f.c.toNat < 16
  · by_cases zero : f.c.toNat = 0
    · simp [zero, State.maskRows]
    · rw [if_pos low, if_neg zero, if_pos low, State.maskRows, if_neg zero]
      simp only [h.homes, List.foldl_cons, List.foldl_nil, h.gang, Gang.readM, Gang.read_quiet h.quiet h.joined, Gang.reg, rows]
      rw [BitVec.zero_or, BitVec.getLsbD_and, Bool.and_comm ((vget g.m f.c.toNat 0).getLsbD l), ← Bool.and_assoc, Bool.and_self]
  · have zero : f.c.toNat ≠ 0 := by omega
    rw [if_neg low, if_neg zero, if_neg low, getLsbD_maskOf _ hl]
    simp only [State.scalarRows, h.homes, lane_byLane _ hl, State.gangS, h.gang, Gang.readS, Gang.read_quiet h.quiet h.joined, Gang.reg]

/-- What sr_trapinfo holds of a branch with U (R252): lane by lane the condition, and above it the active mask. -/
theorem getLsbD_branchWord (c m : Mask) {l : Nat} (hl : l < 32) :
    (toWord (c.toNat + m.toNat * 2 ^ 32)).getLsbD l = c.getLsbD l ∧ (toWord (c.toNat + m.toNat * 2 ^ 32)).getLsbD (32 + l) = m.getLsbD l := by
  have word : toWord (c.toNat + m.toNat * 2 ^ 32) = m ++ c := by
    apply BitVec.eq_of_toNat_eq
    rw [toNat_append_add, toWord, BitVec.toNat_ofNat]
    omega
  rw [word, BitVec.getLsbD_append, BitVec.getLsbD_append, if_pos hl, if_neg (by omega), Nat.add_sub_cancel_left]
  exact ⟨rfl, rfl⟩

/-- A branch with U whose condition differs among the active lanes is not uniform (R252). -/
theorem Issues.nonUniform {s : State} {t : Stream} {g : Gang} (h : Issues s t g) {f : BRFields} (hd : disagrees t g f = true) (tick : Nat) :
    nonUniform f (s.branchCond t tick f) t.active =
      some (toWord ((s.branchCond t tick f &&& t.active).toNat + t.active.toNat * 2 ^ 32)) := by
  simp only [disagrees, Bool.and_eq_true, List.any_eq_true, List.mem_range, Bool.not_eq_true'] at hd
  obtain ⟨⟨hu, i, hi, hiact, hicond⟩, j, hj, hjact, hjcond⟩ := hd
  have taken : s.branchCond t tick f &&& t.active ≠ 0#32 := by
    intro e
    have bit := h.getLsbD_branchCond f tick hi
    simp [e, hiact, hicond] at bit
  have notAll : s.branchCond t tick f &&& t.active ≠ t.active := by
    intro e
    have bit := h.getLsbD_branchCond f tick hj
    simp [e, hjact, hjcond] at bit
  simp [Machine.nonUniform, hu, taken, notAll]

/-! ### A trap that the launch's handler takes. -/

theorem foldl_eq_self {f : β → α → β} {b : β} : ∀ {l : List α}, (∀ a ∈ l, f b a = b) → l.foldl f b = b
  | [], _ => rfl
  | a :: l, h => by
    rw [List.foldl_cons, h a List.mem_cons_self]
    exact foldl_eq_self fun a ha => h a (List.mem_cons_of_mem _ ha)

/-- The first element of some kind is also the first of a narrower kind that it is of. -/
theorem find?_narrow {p q : α → Bool} {a : α} {l : List α} (h : l.find? p = some a) (ha : q a = true) (hq : ∀ x ∈ l, q x = true → p x = true) :
    l.find? q = some a := by
  obtain ⟨hp, as, bs, rfl, no⟩ := List.find?_eq_some_iff_append.mp h
  refine List.find?_eq_some_iff_append.mpr ⟨ha, as, bs, rfl, fun x hx => ?_⟩
  cases hx' : q x with
  | false => rfl
  | true =>
    have other := no x hx
    rw [hq x (List.mem_append_left _ hx) hx'] at other
    exact absurd other (by decide)

/-- Stream t of gang g alone can raise a trap that the launch's handler takes: the gang is outside it, and the gang's other streams have
nothing uncommitted and other slices. -/
structure Trapping (s : State) (t : Stream) (g : Gang) (x : Launch) : Prop where
  stream : s.stream? t.sid = some t
  homes : t.homes = [g.idx]
  gang : s.gang? t.launch g.idx = some g
  launch : s.launch? t.launch = some x
  handler : x.hpc ≠ 0
  outside : g.hm = false
  others : ∀ u ∈ s.streamsOf t.launch g.idx, u.sid ≠ t.sid → s.stream? u.sid = some u ∧ u.unc = [] ∧ u.homes = [g.idx] ∧
    u.slotsOf g.idx ≠ t.slotsOf g.idx

theorem TrapReady.trapping {s : State} {t : Stream} {g : Gang} {x : Launch} (h : Issues s t g) (r : TrapReady s t g x) : Trapping s t g x where
  stream := h.stream
  homes := h.homes
  gang := h.gang
  launch := r.launch
  handler := r.handler
  outside := r.outside
  others u hu hn := by
    obtain ⟨found, same | ⟨unc, homes, slots⟩⟩ := r.others u hu
    · exact absurd same hn
    · exact ⟨found, unc, homes, slots⟩

/-- No stream of the gang is packed, so that no store of one holds the trap up (R102). -/
theorem TrapReady.unflushed {s : State} {t : Stream} {g : Gang} {x : Launch} (h : Issues s t g) (r : TrapReady s t g x) :
    s.unflushed t t.homes = none := by
  rw [State.unflushed, List.find?_eq_none]
  intro u hu packed
  simp only [h.homes, List.any_cons, List.any_nil, Bool.or_false, Bool.and_eq_true, beq_iff_eq, decide_eq_true_eq,
    Stream.has_iff_mem_homes] at packed
  obtain ⟨⟨⟨launch, long⟩, has⟩, -⟩ := packed
  have single : u.homes = [g.idx] := by
    obtain ⟨found, same | ⟨-, homes, -⟩⟩ := r.others u (State.mem_streamsOf.mpr ⟨hu, launch, has⟩)
    · rw [same, h.stream] at found
      rw [← Option.some.inj found, h.homes]
    · exact homes
  simp [single] at long

/-- A stream that a trap of its gang stops (R320). -/
def Stream.halted (t : Stream) : Stream := { t with stopped := true }

/-- Some streams stopped where they are. -/
def State.haltAll (s : State) (sids : List Nat) : State := sids.foldl (fun s n => s.updStream n Stream.halted) s

theorem State.haltAll_streams (s : State) (sids : List Nat) : s.haltAll sids = { s with streams := (s.haltAll sids).streams } := by
  induction sids generalizing s with
  | nil => rfl
  | cons n sids ih => exact ih (s.updStream n Stream.halted)

theorem State.stream?_haltAll (s : State) (sids : List Nat) (m : Nat) :
    (s.haltAll sids).stream? m = if m ∈ sids then (s.stream? m).map Stream.halted else s.stream? m := by
  induction sids generalizing s with
  | nil => rfl
  | cons n sids ih =>
    rw [State.haltAll, List.foldl_cons, ← State.haltAll, ih]
    by_cases e : m = n
    · subst e
      rw [State.stream?_updStream _ _ Stream.halted fun _ => rfl, Option.map_map, show Stream.halted ∘ Stream.halted = Stream.halted from rfl]
      simp
    · simp [State.stream?_updStream_other _ _ _ Stream.halted (fun _ => rfl) e, e]

/-- Streams with nothing uncommitted have nothing to roll back as they stop. -/
theorem State.foldl_stopStream {n : Nat} : ∀ {us : List Stream} (s : State), (∀ u ∈ us, u.sid ≠ n → u.unc = []) →
    us.foldl (fun s u => if u.sid != n then s.stopStream u else s) s = s.haltAll ((us.filter fun u => u.sid != n).map (·.sid))
  | [], _, _ => rfl
  | u :: us, s, h => by
    rw [List.foldl_cons, State.foldl_stopStream _ fun v hv => h v (List.mem_cons_of_mem _ hv)]
    by_cases e : u.sid = n
    · simp [e]
    · have unc : u.unc = [] := h u List.mem_cons_self e
      have stopped : s.stopStream u = s.updStream u.sid Stream.halted := by
        simp [State.stopStream, State.rollbackStream, State.rollbackStreams, unc]
        rfl
      simp [e, State.haltAll, stopped]

/-- In a gang whose streams are not packed, none splits. -/
theorem foldl_splitParts {n : Nat} {us : List Stream} (s : State) (h : ∀ u ∈ us, u.sid ≠ n → u.homes.length ≤ 1) :
    us.foldl (fun s u => if u.sid != n && decide (1 < u.homes.length) then s.splitParts u else s) s = s := by
  refine foldl_eq_self fun u hu => if_neg ?_
  simp only [Bool.and_eq_true, bne_iff_ne, decide_eq_true_eq, not_and, Nat.not_lt]
  exact h u hu

/-- The gang in its handler (R319). -/
def Gang.trapped (slots : List Nat) (cause : Nat) (info pc : Word) (g : Gang) : Gang :=
  { g with
    trapCause := toWord cause, trapInfo := info, trapPc := pc, hm := true
    hmSlices := slots.foldl (fun m i => m ||| (1#8 <<< i)) 0#8 }

/-- The stream at the handler's address (R319). -/
def Stream.handling (hpc : Word) (t : Stream) : Stream :=
  { t with
    pc := hpc, wait := .none, spin := Spin.empty, answers := [], walkFails := [], partsDone := [], loading := false, claim := none, grant := none
    operands := [] }

section
variable {s : State} {t : Stream} {g : Gang} {x : Launch} (h : Trapping s t g x)
include h

/-- Of the gang's streams, the one that raised the trap is found by its PC and slots (R320). -/
theorem Trapping.raiser : (s.streamsOf t.launch g.idx).find? (fun u => u.pc == t.pc && u.slotsOf g.idx == t.slotsOf g.idx) = some t := by
  have has : t.has g.idx = true := Stream.has_iff_mem_homes.mpr (by simp [h.homes])
  rw [State.streamsOf, List.find?_filter]
  refine find?_narrow h.stream (by simp [has]) fun u hu same => ?_
  simp only [Bool.and_eq_true, beq_iff_eq, Stream.has_iff_mem_homes, decide_eq_true_eq] at same
  obtain ⟨⟨launch, has⟩, -, slots⟩ := same
  by_contra other
  obtain ⟨-, -, -, differ⟩ := h.others u (State.mem_streamsOf.mpr ⟨hu, launch, has⟩) (by simpa using other)
  exact differ slots

theorem Trapping.raiseTrap_eq (cause : Nat) (info pc : Word) : s.raiseTrap t t.homes cause info pc =
    (((s.haltAll (((s.streamsOf t.launch g.idx).filter fun u => u.sid != t.sid).map (·.sid))).updGang t.launch g.idx
      (Gang.trapped (t.slotsOf g.idx) cause info pc)).updStream t.sid (Stream.handling x.hpc)) := by
  have whole : ¬1 < t.homes.length := by simp [h.homes]
  have handled : ¬((decide (x.hpc = 0) || g.hm || false) = true) := by
    rw [h.outside, decide_eq_false h.handler]
    decide
  have split := foldl_splitParts (n := t.sid) (us := s.streamsOf t.launch g.idx) s fun u hu other => by
    obtain ⟨-, -, homes, -⟩ := h.others u hu other
    simp [homes]
  have stop := State.foldl_stopStream (n := t.sid) (us := s.streamsOf t.launch g.idx) s fun u hu other => (h.others u hu other).2.1
  have found : (s.haltAll (((s.streamsOf t.launch g.idx).filter fun u => u.sid != t.sid).map (·.sid))).stream? t.sid = some t := by
    rw [State.stream?_haltAll, if_neg (by simp), h.stream]
  rw [State.raiseTrap, if_neg whole]
  simp only [h.homes, List.foldl_cons, List.foldl_nil, h.raiser]
  simp only [State.takeTrap, h.launch, h.gang, split, stop, found, if_neg handled]
  rfl

/-- The handler takes the trap (R319 to R321). -/
theorem Trapping.taken (cause : Nat) (info pc : Word) : TrapTaken s t g x cause info pc (s.raiseTrap t t.homes cause info pc) := by
  rw [h.raiseTrap_eq]
  generalize hl : ((s.streamsOf t.launch g.idx).filter fun u => u.sid != t.sid).map (·.sid) = sids
  have mine : t.sid ∉ sids := by simp [← hl]
  have gang : (s.haltAll sids).gang? t.launch g.idx = some g := by rw [State.haltAll_streams]; exact h.gang
  refine ⟨⟨g.trapped (t.slotsOf g.idx) cause info pc, ?_, rfl, fun k hk => getLsbD_slices hk _⟩,
    ⟨t.handling x.hpc, ?_, rfl⟩, fun u hu other => ?_, ?_⟩
  · rw [State.gang?_updStream, State.gang?_updGang _ _ _ (Gang.trapped _ _ _ _) fun _ => ⟨rfl, rfl⟩, gang]
    rfl
  · rw [State.stream?_updStream _ _ (Stream.handling x.hpc) fun _ => rfl, State.stream?_updGang, State.stream?_haltAll, if_neg mine, h.stream]
    rfl
  · have stops : u.sid ∈ sids := by
      rw [← hl]
      exact List.mem_map_of_mem (List.mem_filter.mpr ⟨hu, by simpa using other⟩)
    rw [State.stream?_updStream_other _ _ _ (Stream.handling x.hpc) (fun _ => rfl) other, State.stream?_updGang, State.stream?_haltAll,
      if_pos stops, (h.others u hu other).1]
    rfl
  · rw [State.haltAll_streams]
    rfl

end

/-! ### The end of TRAP and BRK, before their trap (R264). -/

theorem mem_updFirst {p : α → Bool} {f : α → α} {a : α} : ∀ {l : List α}, a ∈ updFirst p f l → a ∈ l ∨ ∃ b ∈ l, p b = true ∧ a = f b
  | b :: l, h => by
    unfold updFirst at h
    split at h
    · next hb =>
      rcases List.mem_cons.mp h with rfl | h
      · exact .inr ⟨b, List.mem_cons_self, hb, rfl⟩
      · exact .inl (List.mem_cons_of_mem _ h)
    · rcases List.mem_cons.mp h with rfl | h
      · exact .inl List.mem_cons_self
      · rcases mem_updFirst h with h | ⟨c, hc, e⟩
        · exact .inl (List.mem_cons_of_mem _ h)
        · exact .inr ⟨c, List.mem_cons_of_mem _ hc, e⟩

theorem State.mem_streams_of_updStream {s : State} {n : Nat} {f : Stream → Stream} {u : Stream} (hf : ∀ t, (f t).sid = t.sid)
    (h : u ∈ (s.updStream n f).streams) (other : u.sid ≠ n) : u ∈ s.streams := by
  rcases mem_updFirst h with h | ⟨b, -, hb, rfl⟩
  · exact h
  · rw [beq_iff_eq] at hb
    exact absurd ((hf b).trans hb) other

section
variable {s : State} {t : Stream} {k : Nat} (hk : t.homes = [k]) (i : Issue)
include hk

/-- The end of an instruction replaces its stream alone. -/
theorem State.mem_streams_of_completed {u : Stream} (h : u ∈ (s.completed t i).streams) (other : u.sid ≠ t.sid) : u ∈ s.streams := by
  have committed : (s.completed t i).streams = ((s.advance t.sid i.len).committedHome t k i).streams := by
    rw [State.completed_single hk, State.nextSeq, State.retiredHome]
    dsimp only
    split <;> simp
  rw [committed, State.committedHome] at h
  have h := State.mem_streams_of_updStream (f := Stream.cleared i) (fun _ => rfl) h other
  have h := State.mem_streams_of_updStream (Stream.counted_sid i t.pc) h other
  rw [State.commitHome, State.countCore_streams] at h
  exact State.mem_streams_of_updStream (f := fun t => { t with pc := t.pc + toWord i.len }) (fun _ => rfl) h other

/-- The stream at the end of its instruction. -/
theorem State.stream?_completed (hs : s.stream? t.sid = some t) : ∃ u, (s.completed t i).stream? t.sid = some u ∧
    u.sid = t.sid ∧ u.launch = t.launch ∧ u.slots = t.slots ∧ u.pc = t.pc + toWord i.len ∧ u.wait = t.wait := by
  refine ⟨({ t with pc := t.pc + toWord i.len } : Stream).counted i t.pc |>.cleared i, ?_, ?_⟩
  · rw [State.completed_single hk]
    change ((s.advance t.sid i.len).retiredHome t k i).stream? t.sid = _
    rw [State.stream?_retiredHome, State.stream?_advance, hs]
    rfl
  · obtain ⟨n, c, h⟩ := Stream.counted_eq i t.pc { t with pc := t.pc + toWord i.len }
    rw [h]
    exact ⟨rfl, rfl, rfl, rfl, rfl⟩

theorem State.stream?_completed_other {n : Nat} (h : n ≠ t.sid) : (s.completed t i).stream? n = s.stream? n := by
  rw [State.completed_single hk]
  exact (State.stream?_retiredHome_other _ _ _ _ h).trans (State.stream?_advance_other _ _ h)

theorem State.gang?_completed : (s.completed t i).gang? t.launch k = (s.gang? t.launch k).map (Gang.retired t i s.seq) := by
  rw [State.completed_single hk]
  exact State.gang?_retiredHome ..

theorem State.completed_launches : (s.completed t i).launches = s.launches := by
  rw [State.completed_single hk]
  exact (congrArg State.launches (State.retiredHome_onlyStreams (s.advance t.sid i.len) t k i) :)

end

theorem Gang.retired_eq (t : Stream) (i : Issue) (seq : Nat) (g : Gang) :
    ∃ sb pending, Gang.retired t i seq g = { g with sb := sb, pending := pending } := by
  unfold Gang.retired Gang.returned Gang.committedStores
  split
  · exact ⟨_, _, rfl⟩
  · exact ⟨_, _, rfl⟩

theorem Stream.homes_congr {t u : Stream} (h : u.slots = t.slots) : u.homes = t.homes := by rw [Stream.homes, Stream.homes, h]
theorem Stream.slotsOf_congr {t u : Stream} (h : u.slots = t.slots) (k : Nat) : u.slotsOf k = t.slotsOf k := by
  rw [Stream.slotsOf, Stream.slotsOf, h]

/-- A stream whose instruction has ended can raise a trap that the launch's handler takes if it could before. -/
theorem Trapping.completed {s : State} {t : Stream} {g : Gang} {x : Launch} (h : Trapping s t g x) (i : Issue) :
    ∃ u g', (s.completed t i).stream? t.sid = some u ∧ (s.completed t i).gang? t.launch g.idx = some g' ∧ u.pc = t.pc + toWord i.len ∧
      Trapping (s.completed t i) u g' x := by
  obtain ⟨u, hu, sid, launch, slots, pc, -⟩ := State.stream?_completed h.homes i h.stream
  obtain ⟨sb, pending, hg⟩ := Gang.retired_eq t i s.seq g
  have gang : (s.completed t i).gang? t.launch g.idx = some { g with sb := sb, pending := pending } := by
    rw [State.gang?_completed h.homes, h.gang, Option.map_some, hg]
  refine ⟨u, _, hu, gang, pc, ?_⟩
  exact {
    stream := sid ▸ hu
    homes := (Stream.homes_congr slots).trans h.homes
    gang := launch ▸ gang
    launch := by rw [State.launch?, State.completed_launches h.homes, launch]; exact h.launch
    handler := h.handler
    outside := h.outside
    others := fun v hv other => by
      rw [sid] at other
      obtain ⟨mem, vl, vh⟩ := State.mem_streamsOf.mp hv
      obtain ⟨found, unc, homes, differ⟩ := h.others v
        (State.mem_streamsOf.mpr ⟨State.mem_streams_of_completed h.homes i mem other, vl.trans launch, vh⟩) other
      exact ⟨(State.stream?_completed_other h.homes i other).trans found, unc, homes, Stream.slotsOf_congr slots _ ▸ differ⟩ }

/-! ### Instructions that raise a trap. -/

section
variable {s : State} {t : Stream} {g : Gang} {x : Launch} (h : Issues s t g) (r : TrapReady s t g x)
include h r

/-- A precise trap of an instruction that issues at a commit point (R319). -/
theorem Issues.trap_taken (i : Issue) (cause : Nat) (info : Word) :
    TrapTaken s t g x cause info t.pc (s.finish t i false (.trap cause info t.homes)) := by
  have raises : s.finish t i false (.trap cause info t.homes) = s.raiseTrap t t.homes cause info t.pc := by
    simp only [State.finish, State.raiseWhenFlushed, r.unflushed h]
    rfl
  rw [raises]
  exact (r.trapping h).taken cause info t.pc

/-- A trap of an instruction that first completes (R264). -/
theorem Issues.trapNext_taken (i : Issue) (cause : Nat) (info : Word) :
    ∃ u g', (s.completed t i).stream? t.sid = some u ∧ (s.completed t i).gang? t.launch g.idx = some g' ∧
      TrapTaken (s.completed t i) u g' x cause info (t.pc + toWord i.len) (s.finish t i false (.trapNext cause info)) := by
  obtain ⟨u, g', hu, hg, pc, ready⟩ := (r.trapping h).completed i
  have raises : s.finish t i false (.trapNext cause info) = (s.completed t i).raiseTrap u u.homes cause info u.pc := by
    simp only [State.finish, r.unflushed h]
    rw [show (s.advance t.sid i.len).retire t i false = s.completed t i from rfl, hu]
  refine ⟨u, g', hu, hg, ?_⟩
  rw [raises, pc]
  exact ready.taken cause info _

/-- An instruction whose effect is a precise trap. -/
theorem Issues.exec_trap {ins : Instr} {i : Issue} {eff : Stream → Who → State → Res} {cause : Nat} {info : Word}
    (hx : exec ins s = s.issue i eff) (hi : i.settleFirst = false) (he : ∀ w : Who, w.tick = s.ticks → eff t w s = .trap cause info t.homes) :
    ∃ s', exec ins s = .next s' ∧ TrapTaken s t g x cause info t.pc s' := by
  obtain ⟨w, -, tick, -, runs⟩ := h.issue hi eff
  rw [hx, runs, he w tick]
  exact ⟨_, rfl, h.trap_taken r i cause info⟩

/-- An instruction whose effect is a trap past it. -/
theorem Issues.exec_trapNext {ins : Instr} {i : Issue} {eff : Stream → Who → State → Res} {cause : Nat} {info : Word}
    (hx : exec ins s = s.issue i eff) (hi : i.settleFirst = false) (he : ∀ w : Who, eff t w s = .trapNext cause info) :
    ∃ s' u g', exec ins s = .next s' ∧ (s.completed t i).stream? t.sid = some u ∧ (s.completed t i).gang? t.launch g.idx = some g' ∧
      TrapTaken (s.completed t i) u g' x cause info (t.pc + toWord i.len) s' := by
  obtain ⟨w, -, -, -, runs⟩ := h.issue hi eff
  obtain ⟨u, g', hu, hg, taken⟩ := h.trapNext_taken r i cause info
  rw [hx, runs, he w]
  exact ⟨_, u, g', rfl, hu, hg, taken⟩

/-- BR with U whose condition differs (R251, R252): with P or without it, the trap comes before anything else. -/
theorem Issues.exec_br_disagrees {f : BRFields} (hd : disagrees t g f = true) : ∃ info : Word,
    (∃ s', exec (.br f) s = .next s' ∧ TrapTaken s t g x 0x02 info t.pc s') ∧ ∀ l, l < 32 →
      info.getLsbD l = (t.active.getLsbD l && laneCond t g f.c.toNat l) ∧ info.getLsbD (32 + l) = t.active.getLsbD l := by
  have uniform := h.nonUniform hd s.ticks
  refine ⟨toWord ((s.branchCond t s.ticks f &&& t.active).toNat + t.active.toNat * 2 ^ 32), ?_, fun l hl => ?_⟩
  · have hx : exec (.br f) s = execBr f s := rfl
    rw [execBr] at hx
    by_cases hp : f.p = true
    · rw [if_pos hp] at hx
      refine h.exec_trap r hx rfl fun w tick => ?_
      simp only [branchPack, h.homes, List.any_cons, List.any_nil, h.gang, r.outside, tick, uniform]
      rfl
    · rw [if_neg hp] at hx
      refine h.exec_trap r hx rfl fun w tick => ?_
      simp only [branchPlain, tick, uniform]
  · obtain ⟨low, high⟩ := getLsbD_branchWord (s.branchCond t s.ticks f &&& t.active) t.active hl
    exact ⟨low.trans (h.getLsbD_branchCond f s.ticks hl), high⟩

/-- RTE outside a handler (R321). -/
theorem Issues.exec_rte_outside (f : JFields) : ∃ s', exec (.rte f) s = .next s' ∧ TrapTaken s t g x 0x01 (wordInfo (.rte f)) t.pc s' := by
  have hx : exec (.rte f) s = execRte f s := rfl
  rw [execRte] at hx
  refine h.exec_trap r hx rfl fun w _ => ?_
  simp only [h.homes, State.returnFromTrap, h.gang, r.outside, Bool.false_and, Bool.false_eq_true, if_false]

end

end Sys2Proof.Machine
end

section
/-! SUPPORT. A trap that ends its launch (O18; spec R264, R322): a launch of which no store and no knot is left goes at once. -/

namespace Sys2Proof.Machine

/-! ### What holds up the end of a launch. -/

/-- Gang g keeps no buffered store and is in no knot. -/
def Gang.Idle (g : Gang) : Prop := g.sb = [] ∧ ∀ m ∈ g.members.toList, m.handle = 0

/-- Nothing holds up the end of launch l: its gangs keep no store and are in no knot, and each of its streams, none waiting at a knot, has
slices of gangs that there are. -/
structure Doomed (s : State) (l : Nat) : Prop where
  gangs : ∀ g ∈ s.gangs, g.launch = l → g.Idle
  waits : ∀ t ∈ s.streams, t.launch = l → ∀ a n, t.wait ≠ .knot a n
  homes : ∀ t ∈ s.streams, t.launch = l → t.homes ≠ [] ∧ ∀ k ∈ t.homes, ∃ g ∈ s.gangs, g.launch = l ∧ g.idx = k

theorem State.mem_of_gang? {s : State} {l k : Nat} {g : Gang} (h : s.gang? l k = some g) : g ∈ s.gangs ∧ g.launch = l ∧ g.idx = k := by
  have found := List.find?_some h
  simp only [Bool.and_eq_true, beq_iff_eq] at found
  exact ⟨List.mem_of_find?_eq_some h, found⟩

theorem mem_updFirst_of_mem {p : α → Bool} {f : α → α} {a : α} : ∀ {l : List α}, a ∈ l → a ∈ updFirst p f l ∨ f a ∈ updFirst p f l
  | b :: l, h => by
    unfold updFirst
    rcases List.mem_cons.mp h with rfl | h
    · split
      · exact .inr List.mem_cons_self
      · exact .inl List.mem_cons_self
    · split
      · exact .inl (List.mem_cons_of_mem _ h)
      · exact (mem_updFirst_of_mem h).imp (List.mem_cons_of_mem _) (List.mem_cons_of_mem _)

section
variable {s : State} {l : Nat}

/-- Only gangs and streams matter. -/
theorem Doomed.congr {s' : State} (h : Doomed s l) (hg : s'.gangs = s.gangs) (hs : s'.streams = s.streams) : Doomed s' l :=
  ⟨hg ▸ h.gangs, hs ▸ h.waits, hs ▸ hg ▸ h.homes⟩

theorem Doomed.countCore (h : Doomed s l) (core : Option Nat) (ev pasid n : Nat) : Doomed (s.countCore core ev pasid n) l :=
  h.congr (s.countCore_gangs ..) (s.countCore_streams ..)

/-- A gang changed that keeps its names and stays idle. -/
theorem Doomed.updGang (h : Doomed s l) (l' k : Nat) {f : Gang → Gang} (names : ∀ g, (f g).launch = g.launch ∧ (f g).idx = g.idx)
    (idle : ∀ g, g.Idle → (f g).Idle) : Doomed (s.updGang l' k f) l where
  gangs g hg hl := by
    rcases mem_updFirst hg with hg | ⟨b, hb, -, rfl⟩
    · exact h.gangs g hg hl
    · exact idle b (h.gangs b hb ((names b).1.symm.trans hl))
  waits := h.waits
  homes t ht hl := by
    obtain ⟨some, all⟩ := h.homes t ht hl
    refine ⟨some, fun k hk => ?_⟩
    obtain ⟨g, hg, gl, gk⟩ := all k hk
    rcases mem_updFirst_of_mem (f := f) hg with hg | hg
    · exact ⟨g, hg, gl, gk⟩
    · exact ⟨f g, hg, (names g).1.trans gl, (names g).2.trans gk⟩

/-- A stream changed that keeps its launch and slots and comes to wait at no knot. -/
theorem Doomed.updStream (h : Doomed s l) (n : Nat) {f : Stream → Stream} (names : ∀ t, (f t).launch = t.launch ∧ (f t).slots = t.slots)
    (wait : ∀ t, (∀ a n, t.wait ≠ .knot a n) → ∀ a n, (f t).wait ≠ .knot a n) : Doomed (s.updStream n f) l where
  gangs := h.gangs
  waits t ht hl := by
    rcases mem_updFirst ht with ht | ⟨b, hb, -, rfl⟩
    · exact h.waits t ht hl
    · exact wait b (h.waits b hb ((names b).1.symm.trans hl))
  homes t ht hl := by
    rcases mem_updFirst ht with ht | ⟨b, hb, -, rfl⟩
    · exact h.homes t ht hl
    · rw [Stream.homes_congr (names b).2]
      exact h.homes b hb ((names b).1.symm.trans hl)

theorem Doomed.gang? (h : Doomed s l) {k : Nat} {g : Gang} (hg : s.gang? l k = some g) : g.Idle := by
  obtain ⟨mem, launch, -⟩ := State.mem_of_gang? hg
  exact h.gangs g mem launch

/-- No stream of the launch has a buffered store. -/
theorem Doomed.storesOf (h : Doomed s l) {t : Stream} (ht : t.launch = l) : s.storesOf t = [] := by
  rw [State.storesOf, List.flatMap_eq_nil_iff]
  intro k _
  rw [ht]
  cases hg : s.gang? l k with
  | none => rfl
  | some g => simp [(h.gang? hg).1]

theorem Doomed.ite {c : Prop} [Decidable c] {s' : State} (h : Doomed s l) (h' : Doomed s' l) : Doomed (if c then s else s') l := by
  split
  · exact h
  · exact h'

theorem Doomed.foldl {f : State → α → State} {as : List α} (step : ∀ s, ∀ a ∈ as, Doomed s l → Doomed (f s a) l) (h : Doomed s l) :
    Doomed (as.foldl f s) l := by
  induction as generalizing s with
  | nil => exact h
  | cons a as ih => exact ih (fun s b hb => step s b (List.mem_cons_of_mem _ hb)) (step s a List.mem_cons_self h)

/-! ### A gang is killed (R322). -/

theorem Doomed.unlinkWaiters (h : Doomed s l) {g : Gang} (hg : g.launch = l) : s.unlinkWaiters g = s := by
  refine foldl_eq_self fun t ht => ?_
  obtain ⟨mem, launch, -⟩ := State.mem_streamsOf.mp ht
  have free := h.waits t mem (launch.trans hg)
  unfold State.unlinkWaiter
  split
  · next a n hw => exact absurd hw (free a n)
  · rfl

/-- g' is the gang that g is, with its buffered stores and knots. -/
def Gang.Alike (g g' : Gang) : Prop := g'.launch = g.launch ∧ g'.idx = g.idx ∧ g'.sb = g.sb ∧ g'.members = g.members

theorem Gang.putBack_alike (m : Mask) (g : Gang) (e : BelayEntry) : g.Alike (Gang.putBack m g e) := by
  unfold Gang.putBack
  dsimp only
  split
  all_goals exact ⟨rfl, rfl, rfl, rfl⟩

theorem Gang.foldl_putBack_alike (m : BelayEntry → Mask) (es : List BelayEntry) (g : Gang) :
    g.Alike (es.foldl (fun g e => Gang.putBack (m e) g e) g) := by
  induction es generalizing g with
  | nil => exact ⟨rfl, rfl, rfl, rfl⟩
  | cons e es ih =>
    obtain ⟨l1, k1, b1, m1⟩ := Gang.putBack_alike (m e) g e
    obtain ⟨l2, k2, b2, m2⟩ := ih (Gang.putBack (m e) g e)
    exact ⟨l2.trans l1, k2.trans k1, b2.trans b1, m2.trans m1⟩

/-- A rollback leaves the gang's names, its knots, and of its stores some. -/
theorem Gang.rollback_names (ds : List Discard) (clear : Bool) (g : Gang) :
    (Gang.rollback ds clear g).launch = g.launch ∧ (Gang.rollback ds clear g).idx = g.idx := by
  obtain ⟨launch, idx, -, -⟩ := Gang.foldl_putBack_alike (fun e => ((ds.find? (·.sid == e.sid)).map (·.rows)).getD 0)
    (g.belay.filter fun e => ds.any (·.sid == e.sid)) g
  exact ⟨launch, idx⟩

theorem Gang.Idle.rollback {g : Gang} (h : g.Idle) (ds : List Discard) (clear : Bool) : (Gang.rollback ds clear g).Idle := by
  obtain ⟨-, -, stores, members⟩ := Gang.foldl_putBack_alike (fun e => ((ds.find? (·.sid == e.sid)).map (·.rows)).getD 0)
    (g.belay.filter fun e => ds.any (·.sid == e.sid)) g
  obtain ⟨none, left⟩ := h
  refine ⟨?_, fun m hm => left m (members ▸ hm)⟩
  change List.filter _ (List.foldl _ g _).sb = []
  rw [stores, none, List.filter_nil]

theorem Doomed.countReused (h : Doomed s l) (g : Gang) : Doomed (s.countReused g) l := by
  unfold State.countReused
  dsimp only
  split
  · exact h
  · exact h.countCore ..

theorem Doomed.rollbackHome (h : Doomed s l) (l' k : Nat) (ts : List Stream) : Doomed (s.rollbackHome l' k ts) l := by
  unfold State.rollbackHome
  split
  · exact h
  · next g _ =>
    exact (h.countReused g).updGang l' k (fun g => Gang.rollback_names _ _ g) fun g idle => idle.rollback _ _

theorem Doomed.rewind (h : Doomed s l) (t : Stream) : Doomed (s.rewind t) l := by
  unfold State.rewind
  split
  · exact h
  · dsimp only
    exact Doomed.updStream (Doomed.ite ((h.countCore ..).countCore ..) (h.countCore ..)) _ (fun t => ⟨rfl, rfl⟩) fun t _ => nofun

theorem Doomed.rollbackStreams (h : Doomed s l) (ts : List Stream) : Doomed (s.rollbackStreams ts) l := by
  unfold State.rollbackStreams
  exact Doomed.foldl (fun s t _ h => h.rewind t) (Doomed.foldl (fun s a _ h => h.rollbackHome a.1 a.2 _) h)

theorem Doomed.flushCommitted (h : Doomed s l) {t : Stream} (ht : t.launch = l) : s.flushCommitted t = s := by
  refine foldl_eq_self fun _ _ => ?_
  rw [h.storesOf ht]
  rfl

theorem Doomed.killGang (h : Doomed s l) {g : Gang} (hg : g.launch = l) : Doomed (s.killGang g) l := by
  unfold State.killGang
  rw [h.unlinkWaiters hg]
  dsimp only
  refine Doomed.foldl (fun s t ht h => ?_) ?_
  · have launch : t.launch = l := (State.mem_streamsOf.mp ht).2.1.trans hg
    rw [h.flushCommitted launch]
    refine Doomed.updStream (h.congr (s' := s.loseAnswer t) rfl rfl) _ (fun t => ⟨rfl, rfl⟩) fun t free => ?_
    dsimp only
    split
    · next a n hw => exact absurd hw (free a n)
    · nofun
  · have rolled := h.rollbackStreams (s.streamsOf g.launch g.idx)
    split
    · next g' _ => exact (rolled.countReused g').updGang _ _ (fun _ => ⟨rfl, rfl⟩) fun _ idle => idle
    · exact rolled

end

/-! ### A gang goes (R322). -/

/-- The (slot, gang) pairs that a stream has left when gang k goes. -/
def Stream.pairsWithout (t : Stream) (k : Nat) : List (Nat × Nat) :=
  ((List.range 8).filterMap fun i => (vget t.slots i none).map fun k => (i, k)).filter fun x => x.2 != k

theorem Stream.mem_pairsWithout {t : Stream} {k : Nat} {x : Nat × Nat} :
    x ∈ t.pairsWithout k ↔ x.1 < 8 ∧ vget t.slots x.1 none = some x.2 ∧ x.2 ≠ k := by
  obtain ⟨i, j⟩ := x
  simp only [Stream.pairsWithout, List.mem_filter, List.mem_filterMap, List.mem_range, Option.map_eq_some_iff, Prod.mk.injEq, bne_iff_ne]
  constructor
  · rintro ⟨⟨i, hi, j, hj, rfl, rfl⟩, differ⟩
    exact ⟨hi, hj, differ⟩
  · rintro ⟨hi, hj, differ⟩
    exact ⟨⟨i, hi, j, hj, rfl, rfl⟩, differ⟩

/-- What is left of a stream when gang k of launch l goes. -/
def Stream.leaving (l k : Nat) (t : Stream) : Option Stream :=
  if t.launch == l && t.has k then
    if (t.pairsWithout k).isEmpty then none else some { t with slots := slotVec (t.pairsWithout k) }
  else some t

theorem mem_homes_slotVec {t : Stream} {ps : List (Nat × Nat)} {j : Nat} (h : j ∈ ({ t with slots := slotVec ps } : Stream).homes) :
    ∃ x ∈ ps, x.2 = j := by
  obtain ⟨i, hi, hj⟩ := Stream.mem_homes.mp h
  rw [slotVec, vget_vtab _ _ hi, Option.map_eq_some_iff] at hj
  obtain ⟨x, found, rfl⟩ := hj
  exact ⟨x, List.mem_of_find?_eq_some found, rfl⟩

theorem homes_slotVec_ne_nil {t : Stream} {ps : List (Nat × Nat)} {x : Nat × Nat} (h : x ∈ ps) (hx : x.1 < 8) :
    ({ t with slots := slotVec ps } : Stream).homes ≠ [] := by
  cases found : ps.find? fun y => y.1 == x.1 with
  | none => simpa using List.find?_eq_none.mp found x h
  | some y =>
    refine List.ne_nil_of_mem (a := y.2) (Stream.mem_homes.mpr ⟨x.1, hx, ?_⟩)
    rw [slotVec, vget_vtab _ _ hx, found]
    rfl

/-- What is left of a stream is in gangs that it was in, not in the one that goes, and it keeps its launch and its wait. -/
theorem Stream.leaving_some {l k : Nat} {t u : Stream} (h : t.leaving l k = some u) : u.launch = t.launch ∧ u.wait = t.wait ∧
    (t.homes ≠ [] → u.homes ≠ []) ∧ ∀ j ∈ u.homes, j ∈ t.homes ∧ (u.launch = l → j ≠ k) := by
  unfold Stream.leaving at h
  split at h
  · split at h
    · nomatch h
    · next some =>
      obtain rfl := Option.some.inj h
      refine ⟨rfl, rfl, fun _ => ?_, fun j hj => ?_⟩
      · obtain ⟨x, hx⟩ := List.exists_mem_of_ne_nil _ (by simpa using some)
        exact homes_slotVec_ne_nil hx (Stream.mem_pairsWithout.mp hx).1
      · obtain ⟨x, hx, rfl⟩ := mem_homes_slotVec hj
        obtain ⟨slot, here, differ⟩ := Stream.mem_pairsWithout.mp hx
        exact ⟨Stream.mem_homes.mpr ⟨x.1, slot, here⟩, fun _ => differ⟩
  · next other =>
    obtain rfl := Option.some.inj h
    refine ⟨rfl, rfl, id, fun j hj => ⟨hj, ?_⟩⟩
    rintro launch rfl
    exact other (by simp [launch, Stream.has_iff_mem_homes.mpr hj])

/-- Gang k of launch l gone, with its slices of every stream. -/
def State.withoutGang (s : State) (l k : Nat) : State :=
  { s with gangs := s.gangs.filter fun g => !(g.launch == l && g.idx == k), streams := s.streams.filterMap (Stream.leaving l k) }

theorem vget_mem_or {n : Nat} (v : Vector α n) (i : Nat) (d : α) : vget v i d ∈ v.toList ∨ vget v i d = d := by
  unfold vget
  by_cases h : i < n
  · left
    simp [h]
  · right
    simp [h]

section
variable {s : State} {l : Nat}

theorem State.mem_withoutGang {k : Nat} {g : Gang} : g ∈ (s.withoutGang l k).gangs ↔ g ∈ s.gangs ∧ ¬(g.launch = l ∧ g.idx = k) := by
  simp [State.withoutGang]
  tauto

theorem Doomed.withoutGang (h : Doomed s l) (k : Nat) : Doomed (s.withoutGang l k) l where
  gangs g hg hl := h.gangs g (State.mem_withoutGang.mp hg).1 hl
  waits u hu hl := by
    obtain ⟨t, ht, left⟩ := List.mem_filterMap.mp hu
    obtain ⟨launch, wait, -⟩ := Stream.leaving_some left
    rw [wait]
    exact h.waits t ht (launch ▸ hl)
  homes u hu hl := by
    obtain ⟨t, ht, left⟩ := List.mem_filterMap.mp hu
    obtain ⟨launch, -, some, among⟩ := Stream.leaving_some left
    obtain ⟨nonempty, all⟩ := h.homes t ht (launch ▸ hl)
    refine ⟨some nonempty, fun j hj => ?_⟩
    obtain ⟨old, other⟩ := among j hj
    obtain ⟨g, hg, gl, gj⟩ := all j old
    exact ⟨g, State.mem_withoutGang.mpr ⟨hg, fun e => other hl (gj.symm.trans e.2)⟩, gl, gj⟩

/-- An idle gang is in no knot that it would have to leave. -/
theorem Gang.Idle.leaveAll {g : Gang} (h : g.Idle) (s : State) : s.leaveAll g = s := by
  refine congrArg Prod.fst (foldl_eq_self fun i _ => ?_)
  have handle : (vget g.members i Member.empty).handle = 0 := by
    rcases vget_mem_or g.members i Member.empty with mem | default
    · exact h.2 _ mem
    · rw [default]; rfl
  simp [handle]

/-- A gang of such a launch goes at once. -/
theorem Doomed.reapGang_eq (h : Doomed s l) {g : Gang} (hg : g.launch = l) (idle : g.Idle) :
    ∃ s1 : State, s1.gangs = s.gangs ∧ s1.streams = s.streams ∧ s.reapGang g = s1.withoutGang l g.idx := by
  have flushed : g.flushed = true := by rw [Gang.flushed, idle.1]; rfl
  have visible : ((s.streamsOf g.launch g.idx).any fun t => (s.storesOf t).any fun x => x.2.committed) = false :=
    List.any_eq_false.mpr fun t ht => by rw [h.storesOf ((State.mem_streamsOf.mp ht).2.1.trans hg)]; decide
  have free : ((s.streamsOf g.launch g.idx).any fun t => match t.wait with | .knot _ _ => true | _ => false) = false :=
    List.any_eq_false.mpr fun t ht => by
      obtain ⟨mem, launch, -⟩ := State.mem_streamsOf.mp ht
      have none := h.waits t mem (launch.trans hg)
      split
      · next a n hw => exact absurd hw (none a n)
      · decide
  have left : s.hasLeft g = true := by
    rw [State.hasLeft, hg]
    cases found : s.gang? l g.idx with
    | none => rfl
    | some g' => exact List.all_eq_true.mpr fun m hm => beq_iff_eq.mpr ((h.gang? found).2 m hm)
  refine ⟨if g.pending.isEmpty then s else s.countCore g.core 4 (s.pasidOf g.launch) g.pending.length, ?_, ?_, ?_⟩
  · split
    · rfl
    · exact s.countCore_gangs ..
  · split
    · rfl
    · exact s.countCore_streams ..
  · unfold State.reapGang
    dsimp only
    rw [h.unlinkWaiters hg, idle.leaveAll, left, flushed, visible]
    refine (if_neg Bool.false_ne_true).trans ((if_neg fun e => Bool.false_ne_true (free.symm.trans e)).trans ?_)
    rw [hg]
    rfl

end

/-! ### The launch goes (R322). -/

/-- Gang k of an aborting launch goes if it can. -/
def State.reapIdx (l : Nat) (s : State) (k : Nat) : State :=
  match s.gang? l k with
  | some g => s.reapGang g
  | none => s

section
variable {s : State} {l : Nat}

theorem Doomed.reapIdx (h : Doomed s l) (k : Nat) :
    Doomed (s.reapIdx l k) l ∧ ∀ g ∈ (s.reapIdx l k).gangs, g.launch = l → g ∈ s.gangs ∧ g.idx ≠ k := by
  unfold State.reapIdx
  split
  · next g found =>
    obtain ⟨-, launch, idx⟩ := State.mem_of_gang? found
    obtain ⟨s1, gangs, streams, e⟩ := h.reapGang_eq launch (h.gang? found)
    rw [e, idx]
    refine ⟨(h.congr gangs streams).withoutGang k, fun g hg hl => ?_⟩
    obtain ⟨mem, other⟩ := State.mem_withoutGang.mp hg
    exact ⟨gangs ▸ mem, fun hk => other ⟨hl, hk⟩⟩
  · next none =>
    refine ⟨h, fun g hg hl => ⟨hg, fun hk => ?_⟩⟩
    simpa [hl, hk] using List.find?_eq_none.mp none g hg

theorem Doomed.foldl_reapIdx (h : Doomed s l) (ks : List Nat) : Doomed (ks.foldl (State.reapIdx l) s) l ∧
    ∀ g ∈ (ks.foldl (State.reapIdx l) s).gangs, g.launch = l → g ∈ s.gangs ∧ g.idx ∉ ks := by
  induction ks generalizing s with
  | nil => exact ⟨h, fun g hg _ => ⟨hg, List.not_mem_nil⟩⟩
  | cons k ks ih =>
    obtain ⟨doomed, first⟩ := h.reapIdx k
    obtain ⟨doomed, rest⟩ := ih doomed
    refine ⟨doomed, fun g hg hl => ?_⟩
    obtain ⟨mem, notLater⟩ := rest g hg hl
    obtain ⟨mem, notFirst⟩ := first g mem hl
    exact ⟨mem, by rw [List.mem_cons, not_or]; exact ⟨notFirst, notLater⟩⟩

/-- A launch of no gangs has no streams. -/
theorem Doomed.no_streams (h : Doomed s l) (gone : ∀ g ∈ s.gangs, g.launch ≠ l) : ∀ t ∈ s.streams, t.launch ≠ l := by
  intro t ht hl
  obtain ⟨some, all⟩ := h.homes t ht hl
  obtain ⟨k, hk⟩ := List.exists_mem_of_ne_nil _ some
  obtain ⟨g, hg, launch, -⟩ := all k hk
  exact gone g hg launch

/-- Every gang and stream of the launch goes. -/
theorem Doomed.reapLaunch (h : Doomed s l) :
    (∀ g ∈ (s.reapLaunch l).gangs, g.launch ≠ l) ∧ ∀ t ∈ (s.reapLaunch l).streams, t.launch ≠ l := by
  generalize reaped : ((s.gangs.filter (·.launch == l)).map (·.idx)).foldl (State.reapIdx l) s = r
  obtain ⟨doomed, kept⟩ : Doomed r l ∧ _ := reaped ▸ h.foldl_reapIdx _
  have gone : ∀ g ∈ r.gangs, g.launch ≠ l := fun g hg hl => by
    obtain ⟨mem, other⟩ := kept g hg hl
    exact other (List.mem_map_of_mem (List.mem_filter.mpr ⟨mem, by simp [hl]⟩))
  have same : (s.reapLaunch l).gangs = r.gangs ∧ (s.reapLaunch l).streams = r.streams := by
    rw [← reaped, List.foldl_map]
    unfold State.reapLaunch
    dsimp only
    split <;> exact ⟨rfl, rfl⟩
  rw [same.1, same.2]
  exact ⟨gone, doomed.no_streams gone⟩

/-- A record that waits to be posted, and the gangs and streams as they were (R324). -/
theorem State.addRecord_waits (s : State) (r : FaultRecord) (target : FaultTarget) : (s.addRecord r target).gangs = s.gangs ∧
    (s.addRecord r target).streams = s.streams ∧ ∃ w ∈ (s.addRecord r target).waitingRecords, w.record = r := by
  unfold State.addRecord
  dsimp only
  split <;> exact ⟨rfl, rfl, _, List.mem_append_right _ List.mem_cons_self, rfl⟩

/-- An aborting launch before its gangs go: they are killed, its commands, marks and locks dropped, the host told (R322). -/
def State.aborting (s : State) (l : Nat) : State :=
  let s := (s.gangs.filter (·.launch == l)).foldl State.killGang s
  { s with
    marks := s.marks.filter (·.launch != l), matCmds := s.matCmds.filter (·.launch != l), locks := s.locks.filter (·.launch != l)
    signals := s.signals ++ [Signal.irq (s.vectorOf (s.pasidOf l)) (.launchAbort l)] }.updLaunch l
      fun x => { x with aborting := true, regions := x.dropRegions }

theorem State.abortLaunch_eq (s : State) (l k cause : Nat) (pc : Word) : ∃ pasid, s.abortLaunch l k cause pc =
    ((s.aborting l).reapLaunch l).addRecord
      { addr := pc, src := gangSrc l k, pasid := pasid, reason := cause, acc := 0, skind := .gang, cls := 7 } .nothing := ⟨_, rfl⟩

theorem Doomed.aborting (h : Doomed s l) : Doomed (s.aborting l) l :=
  Doomed.congr (Doomed.foldl (fun _ _ hg h => h.killGang (by simpa using (List.mem_filter.mp hg).2)) h) rfl rfl

/-- The abort of such a launch (R322). -/
theorem Doomed.abortLaunch (h : Doomed s l) (k cause : Nat) (pc : Word) :
    (∀ g ∈ (s.abortLaunch l k cause pc).gangs, g.launch ≠ l) ∧ (∀ t ∈ (s.abortLaunch l k cause pc).streams, t.launch ≠ l) ∧
      ∃ w ∈ (s.abortLaunch l k cause pc).waitingRecords,
        w.record.cls = 7 ∧ w.record.reason = cause ∧ w.record.addr = pc ∧ w.record.skind = .gang := by
  obtain ⟨pasid, e⟩ := s.abortLaunch_eq l k cause pc
  obtain ⟨gangs, streams, w, hw, record⟩ := State.addRecord_waits ((s.aborting l).reapLaunch l)
    { addr := pc, src := gangSrc l k, pasid := pasid, reason := cause, acc := 0, skind := .gang, cls := 7 } .nothing
  rw [e, gangs, streams]
  obtain ⟨noGangs, noStreams⟩ := h.aborting.reapLaunch
  exact ⟨noGangs, noStreams, w, hw, by rw [record]; exact ⟨rfl, rfl, rfl, rfl⟩⟩

theorem Doomed.settleHome (h : Doomed s l) (t : Stream) (k : Nat) : Doomed (s.settleHome t k) l := by
  rcases s.settleHome_eq t k with e | ⟨core, n, e⟩ <;> rw [e]
  · exact h
  · exact (h.countCore ..).updGang _ _ (fun _ => ⟨rfl, rfl⟩) fun _ idle => idle

theorem Gang.Idle.committedStores {g : Gang} (h : g.Idle) (seq : Nat) : (g.committedStores seq).Idle :=
  ⟨by rw [Gang.committedStores, h.1]; rfl, h.2⟩

/-- The end of an instruction leaves nothing that holds up the end of the launch. -/
theorem Doomed.completed (h : Doomed s l) {t : Stream} {k : Nat} (hk : t.homes = [k]) (i : Issue) : Doomed (s.completed t i) l := by
  have advanced : Doomed (s.advance t.sid i.len) l := h.updStream _ (fun _ => ⟨rfl, rfl⟩) fun _ free => free
  have committed : Doomed ((s.advance t.sid i.len).commitHome t k) l :=
    (advanced.updGang _ _ (f := Gang.committedStores (s.advance t.sid i.len).seq) (fun _ => ⟨rfl, rfl⟩)
      fun _ idle => idle.committedStores _).countCore ..
  have counted : Doomed (((s.advance t.sid i.len).commitHome t k).updStream t.sid (Stream.counted i t.pc)) l :=
    committed.updStream _ (fun u => by obtain ⟨n, c, e⟩ := Stream.counted_eq i t.pc u; rw [e]; exact ⟨rfl, rfl⟩)
      fun u free => by obtain ⟨n, c, e⟩ := Stream.counted_eq i t.pc u; rw [e]; exact free
  have cleared : Doomed ((s.advance t.sid i.len).committedHome t k i) l := counted.updStream _ (fun _ => ⟨rfl, rfl⟩) fun _ free => free
  rw [State.completed_single hk, State.nextSeq, State.retiredHome]
  refine Doomed.congr (s := if i.hold then _ else _) (Doomed.ite (cleared.settleHome t k) cleared) rfl rfl

end

/-- No packed stream has a store that holds up a trap. -/
theorem Doomed.unflushed {s : State} {t : Stream} (h : Doomed s t.launch) (ks : List Nat) : s.unflushed t ks = none := by
  rw [State.unflushed, List.find?_eq_none]
  intro u _ held
  simp only [Bool.and_eq_true, beq_iff_eq] at held
  obtain ⟨⟨⟨launch, -⟩, -⟩, stores⟩ := held
  simp [h.storesOf launch] at stores

/-- A trap of a gang without a handler, or inside it, aborts its launch (R322). -/
theorem State.raiseTrap_aborts {s : State} {t : Stream} {g : Gang} {x : Launch} (ht : s.stream? t.sid = some t) (hk : t.homes = [g.idx])
    (hg : s.gang? t.launch g.idx = some g) (hx : s.launch? t.launch = some x) (ends : x.hpc = 0 ∨ g.hm = true) (cause : Nat) (info pc : Word) :
    s.raiseTrap t t.homes cause info pc = s.abortLaunch t.launch g.idx cause pc := by
  have whole : ¬1 < t.homes.length := by simp [hk]
  have mine : t ∈ s.streamsOf t.launch g.idx := State.mem_streamsOf.mpr ⟨(State.mem_of_stream? ht).1, rfl, by simp [hk]⟩
  obtain ⟨u, raiser⟩ : ∃ u, (s.streamsOf t.launch g.idx).find? (fun u => u.pc == t.pc && u.slotsOf g.idx == t.slotsOf g.idx) = some u :=
    Option.isSome_iff_exists.mp (List.find?_isSome.mpr ⟨t, mine, by simp⟩)
  have aborts : (decide (x.hpc = 0) || g.hm || false) = true := by
    rcases ends with e | e
    · rw [decide_eq_true e]; rfl
    · rw [e, Bool.or_true]; rfl
  rw [State.raiseTrap, if_neg whole]
  simp only [hk, List.foldl_cons, List.foldl_nil, raiser, State.takeTrap, hx, hg, if_pos aborts]

/-- TRAP of a gang without a handler, or inside it, where nothing holds up the launch's end (R264, R322). -/
theorem Issues.exec_trap_aborts {s : State} {t : Stream} {g : Gang} {x : Launch} (h : Issues s t g) (hx : s.launch? t.launch = some x)
    (ends : x.hpc = 0 ∨ g.hm = true) (doomed : Doomed s t.launch) (f : JFields) :
    exec (.trap f) s = .next ((s.completed t (controlIssue f.h)).abortLaunch t.launch g.idx 0x0F (t.pc + 4)) := by
  obtain ⟨u, hu, sid, launch, slots, pc, -⟩ := State.stream?_completed h.homes (controlIssue f.h) h.stream
  obtain ⟨sb, pending, hg⟩ := Gang.retired_eq t (controlIssue f.h) s.seq g
  have gang : (s.completed t (controlIssue f.h)).gang? u.launch g.idx = some { g with sb := sb, pending := pending } := by
    rw [launch, State.gang?_completed h.homes, h.gang, Option.map_some, hg]
  have known : (s.completed t (controlIssue f.h)).launch? u.launch = some x := by
    rw [State.launch?, State.completed_launches h.homes, launch]
    exact hx
  have aborts := State.raiseTrap_aborts (g := { g with sb := sb, pending := pending }) (sid ▸ hu)
    ((Stream.homes_congr slots).trans h.homes) gang known ends 0x0F (f.imm.setWidth 64) u.pc
  have hx : exec (.trap f) s = execTrap f s := rfl
  rw [hx, execTrap, s.issue_drained _ _ h.issuing h.drained rfl]
  simp only [State.finish, doomed.unflushed]
  rw [show (s.advance t.sid (controlIssue f.h).len).retire t (controlIssue f.h) false = s.completed t (controlIssue f.h) from rfl, hu]
  dsimp only
  rw [aborts, launch, pc]
  rfl

/-- Settles O18: each trap where the launch has a handler, and the abort of a launch that nothing holds up where it has none. -/
theorem trapsTaken : Obligations.TrapsTaken := by
  unfold Obligations.TrapsTaken
  refine ⟨fun s t g x h r => ?_, fun s t g x f h hx ends stores knots streams => ?_⟩
  · refine ⟨fun f => ?_, fun f => ?_, fun info => ?_, fun f hd => h.exec_br_disagrees r hd, fun f => h.exec_rte_outside r f⟩
    · exact h.exec_trapNext r (i := controlIssue f.h) (show exec (.trap f) s = execTrap f s from rfl) rfl fun _ => rfl
    · exact h.exec_trapNext r (i := controlIssue f.h) (show exec (.brk f) s = execBrk f s from rfl) rfl fun _ => rfl
    · exact h.exec_trap r (show exec (.illegalInstruction info) s = execIllegalInstruction info s from rfl) rfl fun _ _ => rfl
  · have doomed : Doomed s t.launch :=
      { gangs := fun g hg hl => ⟨stores g hg hl, knots g hg hl⟩
        waits := fun u hu hl => (streams u hu hl).1
        homes := fun u hu hl => ⟨(streams u hu hl).2.1, fun k hk => by
          obtain ⟨g, hg⟩ := Option.isSome_iff_exists.mp ((streams u hu hl).2.2 k hk)
          exact ⟨g, State.mem_of_gang? hg⟩⟩ }
    obtain ⟨noGangs, noStreams, record⟩ := (doomed.completed h.homes (controlIssue f.h)).abortLaunch g.idx 0x0F (t.pc + 4)
    exact ⟨_, h.exec_trap_aborts hx ends doomed f, noGangs, noStreams, record⟩

end Sys2Proof.Machine
end

section
/-! SUPPORT. What module reset leaves (O60). -/

namespace Sys2Proof.Machine

/-- Settles O60: the reset state is a term, and each register of it is evaluated. -/
theorem resetState : Obligations.ResetState := by
  refine ⟨State.reset_mem_wf, rfl, rfl, rfl, ?perDie, ?perStack, fun c => ?pool, rfl, rfl, rfl, rfl⟩
  case perDie => decide
  case perStack => decide
  case pool => rfl

end Sys2Proof.Machine
end

section
/-! SUPPORT. Memory words as they issue (R82, R119, R249), and translation faults and misses of a scalar load (O28; spec R77, R82, R323,
R326). -/

namespace Sys2Proof.Machine

/-! ### Registers and addresses of a stream that issues undisturbed (R119). -/

theorem accessSize_eq (w : BitVec 3) : accessSize w = wBytes w := by
  revert w
  decide

/-! ### The checks of one access (R120, R123). -/

/-- An aligned canonical access fails as its translation does. -/
theorem State.checkSite_fault {s : State} {core : Option Nat} {pasid z r : Nat} {acc : Access} {a : Word} (ha : a.toNat % z = 0)
    (hc : canonical a = true) (hx : s.translate core pasid (vaOf a) acc = .error (.fault r)) :
    s.checkSite core pasid z acc a = .error (.fault r) := by
  unfold State.checkSite
  rw [ha, hc, hx]
  rfl

theorem State.checkSite_wait {s : State} {core : Option Nat} {pasid z : Nat} {acc : Access} {a : Word} (ha : a.toNat % z = 0)
    (hc : canonical a = true) (hx : s.translate core pasid (vaOf a) acc = .error .wait) :
    s.checkSite core pasid z acc a = .error .wait := by
  unfold State.checkSite
  rw [ha, hc, hx]
  rfl

theorem State.reach_fault {s : State} {t : Stream} {z r : Nat} {acc : Access} {p : Site}
    (h : s.checkSite (s.coreOf t.launch p.gang) (s.pasidOf t.launch) z acc p.addr = .error (.fault r)) :
    s.reach t z acc [p] = .error (.fault p.addr r acc.code p.gang (memInfo p.lane acc.trapCode false false p.addr.toNat)) := by
  unfold State.reach
  rw [State.checkSites, h]
  rfl

theorem State.reach_wait {s : State} {t : Stream} {z : Nat} {acc : Access} {p : Site}
    (h : s.checkSite (s.coreOf t.launch p.gang) (s.pasidOf t.launch) z acc p.addr = .error .wait) :
    s.reach t z acc [p] = .error (.miss s [(p.addr, acc, p.gang)]) := by
  unfold State.reach
  rw [State.checkSites, h]
  rfl

section
variable {s : State} {t : Stream} {g : Gang} (h : Issues s t g)
include h

theorem Issues.gangS (tick r : Nat) : s.gangS t.launch g.idx t.sid tick r = vget g.s r 0 := by
  simp only [State.gangS, h.gang, Gang.readS, Gang.read_quiet h.quiet h.joined, Gang.reg]

theorem Issues.gangV (tick r : Nat) : s.gangV t.launch g.idx t.sid tick r = vget g.v r zeroV := by
  simp only [State.gangV, h.gang, Gang.readV, Gang.read_quiet h.quiet h.joined, Gang.reg]

theorem Issues.rows (tick r : Nat) : s.rows t tick r = vget g.v r zeroV := by
  unfold State.rows
  rw [h.homes]
  exact h.gangV tick r

theorem Issues.scalarRows (tick r : Nat) {l : Nat} (hl : l < 32) : lane (s.scalarRows t tick r) l = vget g.s r 0 := by
  simp only [State.scalarRows, h.homes, h.gangS, lane_byLane _ hl]

theorem Issues.partS (tick : Nat) (r : BitVec 6) : s.partS (t.part g) tick r = vget g.s r.toNat 0 := h.gangS tick r.toNat

theorem Issues.coreOf : s.coreOf t.launch g.idx = g.core := by rw [State.coreOf, h.gang, Option.bind_some]

/-- The address of a scalar form's access. -/
theorem Issues.scalarSite_addr (tick : Nat) (f : MFields) (z : Nat) (data : List Byte) :
    (s.scalarSite (t.part g) tick f z data).addr = scalarAddress g f z := by
  have index : s.partS (t.part g) tick f.b = vget g.s f.b.toNat 0 := h.partS tick f.b
  have base : s.partS (t.part g) tick f.a = vget g.s f.a.toNat 0 := h.partS tick f.a
  unfold State.scalarSite memAddress scalarAddress
  rw [index, base]
  match f.mode.toNat with
  | 0 | 1 => rfl
  | 2 =>
    have none : toWord (0 * z) = 0#64 := by rw [Nat.zero_mul]; rfl
    exact (congrArg _ none).trans (BitVec.add_zero _)
  | _ + 3 => rfl

/-! ### The one part of a stream that is not packed (R249). -/

theorem Issues.parts : t.parts = [t.part g] := by rw [Stream.parts, h.homes]; rfl

theorem Issues.not_past (k : Nat) : t.past k = false := by rw [Stream.past, h.homes]; rfl

/-- The instruction of a stream with one part ends as that part's does. -/
theorem Issues.onParts (i : Issue) (eff : Part → Who → State → Res) {w : Who} (hw : w.spec = false) :
    onParts i eff t w s = eff (t.part g) w s := by
  obtain ⟨sid, seq, spec, alone, tick⟩ := w
  cases hw
  rw [Machine.onParts, h.parts]
  refine (if_neg (by rw [h.not_past]; decide)).trans ?_
  cases eff (t.part g) ⟨sid, seq, false, alone, tick⟩ s <;> rfl

/-- An instruction that executes once per part, of a stream that issues undisturbed. -/
theorem Issues.issueParts {ins : Instr} {i : Issue} {eff : Stream → Part → Who → State → Res}
    (hx : exec ins s = s.issue i fun t w s => Machine.onParts i (eff t) t w s) (hi : i.settleFirst = false) :
    ∃ w : Who, w.sid = t.sid ∧ w.seq = s.seq ∧ w.tick = s.ticks ∧ w.spec = false ∧
      exec ins s = .next (s.finish t i false (eff t (t.part g) w s)) := by
  refine ⟨{ sid := t.sid, seq := s.seq, spec := false, alone := t.homes.all fun k => decide ((s.streamsOf t.launch k).length ≤ 1)
            tick := s.ticks }, rfl, rfl, rfl, rfl, ?_⟩
  rw [hx, s.issue_drained i _ h.issuing h.drained hi, h.onParts i (eff t) rfl]

/-! ### The checks of a scalar access (R120, R123). -/

/-- An aligned canonical access whose translation fails ends as its failure says. -/
theorem Issues.reach_scalar_fault {z tick r : Nat} {acc : Access} {f : MFields} {data : List Byte}
    (ha : (scalarAddress g f z).toNat % z = 0) (hc : canonical (scalarAddress g f z) = true)
    (hx : s.translate g.core (s.pasidOf t.launch) (vaOf (scalarAddress g f z)) acc = .error (.fault r)) :
    s.reach t z acc [s.scalarSite (t.part g) tick f z data] =
      .error (.fault (scalarAddress g f z) r acc.code g.idx (memInfo 0 acc.trapCode false false (scalarAddress g f z).toNat)) := by
  rw [← h.coreOf] at hx
  rw [← h.scalarSite_addr tick f z data] at ha hc hx ⊢
  exact State.reach_fault (State.checkSite_fault ha hc hx)

/-- One that misses in the TLBs waits for its walk (R82). -/
theorem Issues.reach_scalar_wait {z tick : Nat} {acc : Access} {f : MFields} {data : List Byte}
    (ha : (scalarAddress g f z).toNat % z = 0) (hc : canonical (scalarAddress g f z) = true)
    (hx : s.translate g.core (s.pasidOf t.launch) (vaOf (scalarAddress g f z)) acc = .error .wait) :
    s.reach t z acc [s.scalarSite (t.part g) tick f z data] = .error (.miss s [(scalarAddress g f z, acc, g.idx)]) := by
  rw [← h.coreOf] at hx
  rw [← h.scalarSite_addr tick f z data] at ha hc hx ⊢
  exact State.reach_wait (State.checkSite_wait ha hc hx)

end

/-! ### Fault records and misses. -/

/-- What a new fault record changes (R324), but for what counts it. -/
theorem State.addRecord_eq (s : State) (r : FaultRecord) (target : FaultTarget) : ∃ u : State,
    (u.streams = s.streams ∧ u.gangs = s.gangs ∧ u.mem = s.mem ∧ u.waitingRecords = s.waitingRecords ∧ u.seq = s.seq) ∧
    s.addRecord r target =
      { u with waitingRecords := u.waitingRecords ++ [{ serial := u.seq, record := r, target := target }], seq := u.seq + 1 } :=
  ⟨if s.fqRoom (s.waitingRecords.length + 1) then s else s.countHub r.pasid,
    by split <;> exact ⟨rfl, rfl, rfl, rfl, rfl⟩, rfl⟩

/-- A stream that joins the miss of a page changes the misses alone; it is then among those that wait for the page, unless its die's misses
are full (R82). -/
theorem State.joinMiss_eq (s : State) (die pasid sid va : Nat) (acc : Access) : ∃ misses,
    s.joinMiss die pasid sid va acc = { s with misses := misses } ∧ ((s.misses.filter (·.die == die)).length < 256 →
      ∃ m ∈ misses, m.die = die ∧ m.pasid = pasid ∧ m.page = va / 65536 ∧ (sid, acc) ∈ m.waiters) := by
  unfold State.joinMiss
  by_cases missing : s.missing die pasid (va / 65536) = true
  · refine ⟨_, if_pos missing, fun _ => ?_⟩
    obtain ⟨m, mem, here⟩ := List.any_eq_true.mp missing
    rw [Bool.and_eq_true, Bool.and_eq_true, beq_iff_eq, beq_iff_eq, beq_iff_eq] at here
    obtain ⟨⟨rfl, rfl⟩, page⟩ := here
    cases waits : m.waiters.contains (sid, acc) with
    | true =>
      refine ⟨m, List.mem_map.mpr ⟨m, mem, if_neg ?_⟩, rfl, rfl, page, List.contains_iff_mem.mp waits⟩
      rw [waits, Bool.not_true, Bool.and_false]
      decide
    | false =>
      refine ⟨_, List.mem_map.mpr ⟨m, mem, if_pos ?_⟩, rfl, rfl, page, List.mem_append_right _ List.mem_cons_self⟩
      rw [waits, page, beq_self_eq_true, beq_self_eq_true, beq_self_eq_true]
      rfl
  · by_cases room : (s.misses.filter (·.die == die)).length < 256
    · exact ⟨_, (if_neg missing).trans (if_pos room), fun _ => ⟨_, List.mem_append_right _ List.mem_cons_self, rfl, rfl, rfl, List.mem_cons_self⟩⟩
    · exact ⟨s.misses, (if_neg missing).trans (if_neg room), fun h => absurd h room⟩

/-! ### SLD. -/

/-- A load ends as its checks do, where they fail. -/
theorem loadOp_error {s : State} {w : BitVec 3} {t : Stream} {who : Who} {sites : List Site}
    {fin : State → List (Nat × List Byte) → State} {r : Res} (h : s.reach t (wBytes w) .load sites = .error r) :
    loadOp w t who sites fin s = r := by
  rw [← accessSize_eq] at h
  unfold loadOp
  dsimp only
  rw [h]

/-- An instruction of a stream that is not packed ends in a translation fault. -/
theorem State.finish_fault {s : State} {t : Stream} {k : Nat} (h : s.faulting t k = (s, some t)) {i : Issue} {va info : Word}
    {reason acc : Nat} : s.finish t i false (.fault va reason acc k info) =
      (s.addRecord { addr := va, src := gangSrc t.launch k, pasid := s.pasidOf t.launch, reason := reason, acc := acc, skind := .gang
                     cls := 1 } (.stream t.sid info)).updStream t.sid fun t =>
        { t with wait := .fault s.seq, walkFails := [], spin := Spin.empty } := by
  rw [State.finish, h]
  rfl

/-- An instruction ends in one access that misses. -/
theorem State.finish_miss {s : State} {t : Stream} {k c : Nat} (h : (s.gang? t.launch k).bind Gang.core = some c) {i : Issue} {a : Word}
    {acc : Access} : s.finish t i false (.miss s [(a, acc, k)]) =
      (s.joinMiss (dieOf c) (s.pasidOf t.launch) t.sid (vaOf a) acc).updStream t.sid fun t => { t with wait := .walk } := by
  change s.joinMisses t [(a, acc, k)] = _
  unfold State.joinMisses
  rw [List.foldl_cons, List.foldl_nil, h]

section
variable {s : State} {t : Stream} {g : Gang} (h : Issues s t g) {f : MFields}
include h

theorem Issues.exec_sld : ∃ w : Who, w.sid = t.sid ∧ w.seq = s.seq ∧ w.tick = s.ticks ∧ w.spec = false ∧ exec (.sld f) s =
    .next (s.finish t (word f.h) false (loadOp f.w t w [s.scalarSite (t.part g) w.tick f (wBytes f.w) []] (finScalar f (t.part g) w) s)) := by
  have hx : exec (.sld f) s = execSld f s := rfl
  unfold execSld at hx
  rw [accessSize_eq] at hx
  exact h.issueParts (eff := fun t p w s => loadOp f.w t w [s.scalarSite p w.tick f (wBytes f.w) []] (finScalar f p w) s) hx rfl

variable (ha : (scalarAddress g f (wBytes f.w)).toNat % wBytes f.w = 0) (hc : canonical (scalarAddress g f (wBytes f.w)) = true)
include ha hc

/-- A load whose walk has failed: the record waits to be posted, the stream for its resolution (R77, R323, R326). -/
theorem Issues.exec_sld_fault {r : Nat}
    (hx : s.translate g.core (s.pasidOf t.launch) (vaOf (scalarAddress g f (wBytes f.w))) .load = .error (.fault r)) :
    exec (.sld f) s = .next ((s.addRecord
      { addr := scalarAddress g f (wBytes f.w), src := gangSrc t.launch g.idx, pasid := s.pasidOf t.launch, reason := r
        acc := 0, skind := .gang, cls := 1 }
      (.stream t.sid (memInfo 0 Access.load.trapCode false false (scalarAddress g f (wBytes f.w)).toNat))).updStream t.sid fun t =>
        { t with wait := .fault s.seq, walkFails := [], spin := Spin.empty }) := by
  obtain ⟨w, -, -, -, -, issued⟩ := h.exec_sld (f := f)
  have faulting : s.faulting t g.idx = (s, some t) := by unfold State.faulting; rw [h.homes]; rfl
  rw [issued, loadOp_error (h.reach_scalar_fault (tick := w.tick) (data := []) ha hc hx), State.finish_fault faulting]
  rfl

/-- A load that misses: the stream joins the miss of its page and waits (R82). -/
theorem Issues.exec_sld_wait {c : Nat} (core : g.core = some c)
    (hx : s.translate g.core (s.pasidOf t.launch) (vaOf (scalarAddress g f (wBytes f.w))) .load = .error .wait) :
    exec (.sld f) s = .next ((s.joinMiss (dieOf c) (s.pasidOf t.launch) t.sid (vaOf (scalarAddress g f (wBytes f.w))) .load).updStream t.sid
      fun t => { t with wait := .walk }) := by
  obtain ⟨w, -, -, -, -, issued⟩ := h.exec_sld (f := f)
  have there : (s.gang? t.launch g.idx).bind Gang.core = some c := by rw [h.gang]; exact core
  rw [issued, loadOp_error (h.reach_scalar_wait (tick := w.tick) (data := []) ha hc hx), State.finish_miss there]

end

/-- Settles O28: the access's checks end in the failure of its translation, and the instruction as that failure says. -/
theorem translationFaultWaits : Obligations.TranslationFaultWaits := by
  unfold Obligations.TranslationFaultWaits
  intro s t g f h _ z a pasid ha hc
  refine ⟨fun r hx => ?_, fun c core hx => ?_⟩
  · have ends := h.exec_sld_fault ha hc hx
    obtain ⟨u, ⟨streams, gangs, mem, waiting, seq⟩, recorded⟩ := s.addRecord_eq _ _
    rw [recorded, ← seq] at ends
    have there : u.stream? t.sid = some t := (congrArg (List.find? _) streams).trans h.stream
    exact ⟨_, _, ends, congrArg (· ++ [_]) waiting, rfl,
      (State.stream?_updStream _ _ _ (by exact fun _ => rfl)).trans (congrArg (Option.map _) there), gangs, mem⟩
  · obtain ⟨misses, joined, waits⟩ := s.joinMiss_eq (dieOf c) pasid t.sid (vaOf a) .load
    have ends := h.exec_sld_wait ha hc core hx
    rw [joined] at ends
    exact ⟨_, ends, (State.stream?_updStream _ _ _ (by exact fun _ => rfl)).trans (congrArg (Option.map _) h.stream), waits, rfl⟩

end Sys2Proof.Machine
end

section
/-! SUPPORT. Rollback of a gang with one stream (O30; spec R89, R161, R306, R307, R309). -/

namespace Sys2Proof.Machine

/-! ### Logged values put back (R306). -/

theorem vget_vset_same {n i : Nat} (v : Vector α n) (x d : α) (h : i < n) : vget (vset v i x) i d = x := by
  simp [vget, vset, h]

theorem vget_vset_other {n i j : Nat} (v : Vector α n) (x d : α) (h : j ≠ i) : vget (vset v i x) j d = vget v j d := by
  simp [vget, vset, Ne.symm h]

/-- A result in flight with what a logged value put back would leave for it. -/
noncomputable def BelayEntry.returns (e : BelayEntry) (m : Mask) (p : Pending) : Pending :=
  match e.flight.find? fun x => p.reg == e.reg && x.1 == p.seq with
  | some x => { p with old := rowsVal m x.2 p.old }
  | none => p

theorem BelayEntry.returns_eq (e : BelayEntry) (m : Mask) (p : Pending) : e.returns m p = { p with old := (e.returns m p).old } := by
  unfold BelayEntry.returns
  split <;> rfl

/-- What a logged value put back changes of a gang. -/
theorem Gang.putBack_eq (m : Mask) (g : Gang) (e : BelayEntry) : let g' := Gang.putBack m g e
    g' = { g with
      pending := g.pending.map (e.returns m), v := g'.v, s := g'.s, m := g'.m, codebook := g'.codebook, seed := g'.seed, st := g'.st } := by
  obtain ⟨sid, seq, reg, old, flight⟩ := e
  cases reg <;> cases old <;> rfl

/-- What a logged value put back leaves alone: results in flight keep all but what they would leave. -/
def Gang.Restored (g g' : Gang) : Prop :=
  (g'.belay = g.belay ∧ g'.sig = g.sig) ∧ (g'.tagBase = g.tagBase ∧ g'.tagExt = g.tagExt ∧ g'.tagScalar = g.tagScalar) ∧
    ∃ f : Pending → RegVal, g'.pending = g.pending.map fun p => { p with old := f p }

theorem Gang.Restored.refl (g : Gang) : g.Restored g := ⟨⟨rfl, rfl⟩, ⟨rfl, rfl, rfl⟩, Pending.old, g.pending.map_id.symm⟩

theorem Gang.Restored.trans {a b c : Gang} (h : a.Restored b) (k : b.Restored c) : a.Restored c := by
  obtain ⟨⟨belay, sig⟩, ⟨base, ext, scalar⟩, f, hf⟩ := h
  obtain ⟨⟨belay', sig'⟩, ⟨base', ext', scalar'⟩, f', hf'⟩ := k
  exact ⟨⟨belay'.trans belay, sig'.trans sig⟩, ⟨base'.trans base, ext'.trans ext, scalar'.trans scalar⟩,
    fun p => f' { p with old := f p }, by rw [hf', hf, List.map_map]; rfl⟩

theorem Gang.putBack_restored (m : Mask) (g : Gang) (e : BelayEntry) : g.Restored (Gang.putBack m g e) := by
  rw [Gang.putBack_eq m g e]
  exact ⟨⟨rfl, rfl⟩, ⟨rfl, rfl, rfl⟩, _, List.map_congr_left fun p _ => e.returns_eq m p⟩

theorem Gang.foldl_putBack_restored (m : BelayEntry → Mask) (es : List BelayEntry) (g : Gang) :
    g.Restored (es.foldl (fun g e => Gang.putBack (m e) g e) g) := by
  induction es generalizing g with
  | nil => exact .refl g
  | cons e es ih => exact (Gang.putBack_restored (m e) g e).trans (ih _)

/-- An entry of another register leaves a scalar register alone. -/
theorem Gang.putBack_s_other {e : BelayEntry} {r : Nat} (h : e.reg ≠ .s r) (m : Mask) (g : Gang) :
    vget (Gang.putBack m g e).s r 0 = vget g.s r 0 := by
  obtain ⟨sid, seq, reg, old, flight⟩ := e
  cases reg with
  | s r' =>
    cases old with
    | s w => exact vget_vset_other g.s w 0 fun same => h (congrArg RegRef.s same.symm)
    | _ => rfl
  | _ => cases old <;> rfl

/-- An entry of a scalar register puts its value back. -/
theorem Gang.putBack_s_same {e : BelayEntry} {r : Nat} {w : Word} (hr : e.reg = .s r) (ho : e.old = .s w) (hb : r < 64) (m : Mask)
    (g : Gang) : vget (Gang.putBack m g e).s r 0 = w := by
  obtain ⟨sid, seq, reg, old, flight⟩ := e
  cases hr
  cases ho
  exact vget_vset_same g.s w 0 hb

theorem Gang.foldl_putBack_s_other (m : BelayEntry → Mask) {es : List BelayEntry} {r : Nat} (h : ∀ e ∈ es, e.reg ≠ .s r) (g : Gang) :
    vget (es.foldl (fun g e => Gang.putBack (m e) g e) g).s r 0 = vget g.s r 0 := by
  induction es generalizing g with
  | nil => rfl
  | cons e es ih =>
    rw [List.foldl_cons, ih (fun e he => h e (List.mem_cons_of_mem _ he)), Gang.putBack_s_other (h e List.mem_cons_self)]

/-- Of the entries of a scalar register the oldest, which is put back last, tells its value. -/
theorem Gang.foldl_putBack_s_oldest (m : BelayEntry → Mask) {es : List BelayEntry} {r : Nat} {w : Word} (hb : r < 64)
    (h : (es.filter (·.reg == .s r)).getLast?.map (·.old) = some (.s w)) (g : Gang) :
    vget (es.foldl (fun g e => Gang.putBack (m e) g e) g).s r 0 = w := by
  induction es using List.reverseRecOn with
  | nil => simp at h
  | append_singleton es e ih =>
    rw [List.foldl_append, List.foldl_cons, List.foldl_nil]
    by_cases hr : e.reg = .s r
    · have mine : [e].filter (fun e => e.reg == .s r) = [e] := by simp [hr]
      rw [List.filter_append, mine, List.getLast?_concat, Option.map_some] at h
      exact Gang.putBack_s_same hr (Option.some.inj h) hb _ _
    · have other : [e].filter (fun e => e.reg == .s r) = [] := by simp [hr]
      rw [List.filter_append, other, List.append_nil] at h
      rw [Gang.putBack_s_other hr, ih h]

/-- No logged change stays where all are taken out. -/
theorem undoFlags_all {gone : BelayEntry → Bool} {es : List BelayEntry} (h : ∀ e ∈ es, gone e = true) (cur : Option Word)
    (acc : List BelayEntry) : (undoFlags gone es cur acc).2 = acc := by
  induction es generalizing cur with
  | nil => rfl
  | cons e es ih =>
    have mine := h e List.mem_cons_self
    have rest := ih fun e he => h e (List.mem_cons_of_mem _ he)
    obtain ⟨sid, seq, reg, old, flight⟩ := e
    cases old with
    | flags => exact (congrArg Prod.snd (if_pos mine)).trans (rest _)
    | _ => exact (congrArg (fun l => (undoFlags gone es cur l).2) (if_pos mine)).trans (rest _)

/-! ### Tags advanced (R161; log 54). -/

theorem Gang.tagOf_advanceTags (g : Gang) (gone : Pending → Bool) (r : RegRef) : (g.advanceTags gone).tagOf r = g.tagOf r + 1 := by
  cases r with
  | v n => exact (apply_ite (· + 1) (n < 32) g.tagBase g.tagExt).symm
  | _ => rfl

theorem Gang.Restored.tagOf {g g' : Gang} (h : g.Restored g') (r : RegRef) : g'.tagOf r = g.tagOf r := by
  obtain ⟨-, ⟨base, ext, scalar⟩, -⟩ := h
  cases r with
  | v n =>
    unfold Gang.tagOf
    rw [base, ext]
  | _ => exact scalar

theorem add_one_ne_self (x : BitVec 8) : x + 1 ≠ x := by
  revert x
  decide

/-- A result of what is discarded does not match its tag afterwards. -/
theorem Gang.advanceTags_gone {g : Gang} {gone : Pending → Bool} (hg : ∀ (p : Pending) (tag : BitVec 8), gone { p with tag := tag } = gone p)
    {p : Pending} (h : p ∈ (g.advanceTags gone).pending) (hp : gone p = true) : p.tag ≠ (g.advanceTags gone).tagOf p.reg := by
  rw [Gang.tagOf_advanceTags]
  obtain ⟨q, hq, rfl⟩ := List.mem_map.mp h
  have keeps := bne_iff_ne.mp (List.mem_filter.mp hq).2
  split at hp
  · next h => rw [if_pos h]; exact keeps
  · next h =>
    rw [hg] at hp
    exact absurd (by rw [hp, Bool.or_true]) h

/-- A result that is not discarded keeps up with its tag. -/
theorem Gang.advanceTags_kept {g : Gang} {gone : Pending → Bool} {p : Pending} (h : p ∈ g.pending) (ht : p.tag = g.tagOf p.reg)
    (hp : gone p = false) : { p with tag := p.tag + 1 } ∈ (g.advanceTags gone).pending := by
  have keeps : p.tag ≠ g.tagOf p.reg + 1 := ht ▸ (add_one_ne_self _).symm
  have current : g.stale p = false := bne_eq_false_iff_eq.mpr ht
  refine List.mem_map.mpr ⟨p, List.mem_filter.mpr ⟨h, bne_iff_ne.mpr keeps⟩, if_neg ?_⟩
  rw [current, hp]
  decide

/-! ### The gang's part (R307). -/

/-- The gang with its logged values back. -/
noncomputable def Gang.undone (ds : List Discard) (g : Gang) : Gang :=
  (g.belay.filter fun e => ds.any (·.sid == e.sid)).foldl
    (fun g e => Gang.putBack (((ds.find? (·.sid == e.sid)).map (·.rows)).getD 0) g e) g

theorem Gang.undone_restored (ds : List Discard) (g : Gang) : g.Restored (g.undone ds) := Gang.foldl_putBack_restored _ _ g

section
variable {g : Gang} {sid first : Nat} {rows : Mask} (mine : ∀ e ∈ g.belay, e.sid = sid)

theorem discarded_single (p : Pending) :
    discarded [⟨sid, rows, first⟩] p.sids p.seq = (p.sids.contains sid && decide (first ≤ p.seq)) := Bool.or_false _

/-- Uncommitted stores are lost. -/
theorem Gang.rollback_sb (g : Gang) : (Gang.rollback [⟨sid, rows, first⟩] true g).sb = g.sb.filter fun e => e.sid != sid || e.committed := by
  obtain ⟨-, -, stores, -⟩ := Gang.foldl_putBack_alike (fun e => (([⟨sid, rows, first⟩].find? (·.sid == e.sid)).map Discard.rows).getD 0)
    (g.belay.filter fun e => [(⟨sid, rows, first⟩ : Discard)].any (·.sid == e.sid)) g
  refine (congrArg _ stores).trans (List.filter_congr fun e _ => ?_)
  rw [List.any_cons, List.any_nil, Bool.or_false, bne, Bool.beq_comm]

/-- A result of what is discarded does not match its tag afterwards. -/
theorem Gang.rollback_gone {p : Pending} (hp : p ∈ (Gang.rollback [⟨sid, rows, first⟩] true g).pending) (has : p.sids.contains sid = true)
    (late : first ≤ p.seq) : p.tag ≠ (Gang.rollback [⟨sid, rows, first⟩] true g).tagOf p.reg :=
  Gang.advanceTags_gone (g := g.undone [⟨sid, rows, first⟩]) (gone := fun p => discarded [⟨sid, rows, first⟩] p.sids p.seq) (fun _ _ => rfl) hp
    (by rw [discarded_single, has, decide_eq_true late, Bool.and_self])

/-- A result of what has committed keeps up with its tag. -/
theorem Gang.rollback_kept {p : Pending} (hp : p ∈ g.pending) (current : p.tag = g.tagOf p.reg)
    (kept : p.sids.contains sid = false ∨ p.seq < first) : ∃ p' ∈ (Gang.rollback [⟨sid, rows, first⟩] true g).pending,
      p'.seq = p.seq ∧ p'.reg = p.reg ∧ p'.val = p.val ∧ p'.tag = (Gang.rollback [⟨sid, rows, first⟩] true g).tagOf p'.reg := by
  have tags := (g.undone_restored [⟨sid, rows, first⟩]).tagOf p.reg
  obtain ⟨-, -, f, pending⟩ := g.undone_restored [⟨sid, rows, first⟩]
  have there : { p with old := f p } ∈ (g.undone [⟨sid, rows, first⟩]).pending := pending ▸ List.mem_map_of_mem hp
  refine ⟨_, Gang.advanceTags_kept there (current.trans tags.symm) ?_, rfl, rfl, rfl, ?_⟩
  · rw [discarded_single]
    rcases kept with other | early
    · exact congrArg (· && _) other
    · exact (congrArg (_ && ·) (decide_eq_false (Nat.not_le.mpr early))).trans (Bool.and_false _)
  · refine Eq.trans (congrArg (· + 1) (current.trans tags.symm)) ?_
    exact (Gang.tagOf_advanceTags (g.undone [⟨sid, rows, first⟩]) (fun p => discarded [⟨sid, rows, first⟩] p.sids p.seq) p.reg).symm

theorem Gang.rollback_tags (g : Gang) : (Gang.rollback [⟨sid, rows, first⟩] true g).tagBase = g.tagBase + 1 ∧
    (Gang.rollback [⟨sid, rows, first⟩] true g).tagExt = g.tagExt + 1 ∧
    (Gang.rollback [⟨sid, rows, first⟩] true g).tagScalar = g.tagScalar + 1 := by
  obtain ⟨-, ⟨base, ext, scalar⟩, -⟩ := g.undone_restored [⟨sid, rows, first⟩]
  exact ⟨congrArg (· + 1) base, congrArg (· + 1) ext, congrArg (· + 1) scalar⟩

include mine

theorem Gang.undone_single : ∃ m : BelayEntry → Mask, g.undone [⟨sid, rows, first⟩] = g.belay.foldl (fun g e => Gang.putBack (m e) g e) g := by
  have all : (g.belay.filter fun e => [(⟨sid, rows, first⟩ : Discard)].any (·.sid == e.sid)) = g.belay :=
    List.filter_eq_self.mpr fun e he => by simp [mine e he]
  unfold Gang.undone
  rw [all]
  exact ⟨_, rfl⟩

/-- A scalar register without a logged value is as it was. -/
theorem Gang.rollback_s_other {r : Nat} (free : ∀ e ∈ g.belay, e.reg ≠ .s r) :
    vget (Gang.rollback [⟨sid, rows, first⟩] true g).s r 0 = vget g.s r 0 := by
  obtain ⟨m, undone⟩ := Gang.undone_single (rows := rows) (first := first) mine
  exact (congrArg (fun g : Gang => vget g.s r 0) undone).trans (Gang.foldl_putBack_s_other m free g)

/-- A scalar register has its oldest logged value. -/
theorem Gang.rollback_s_oldest {r : Nat} {w : Word} (hr : r < 64)
    (old : (g.belay.filter (·.reg == .s r)).getLast?.map (·.old) = some (.s w)) :
    vget (Gang.rollback [⟨sid, rows, first⟩] true g).s r 0 = w := by
  obtain ⟨m, undone⟩ := Gang.undone_single (rows := rows) (first := first) mine
  exact (congrArg (fun g : Gang => vget g.s r 0) undone).trans (Gang.foldl_putBack_s_oldest m hr old g)

theorem Gang.rollback_belay : (Gang.rollback [⟨sid, rows, first⟩] true g).belay = [] := by
  obtain ⟨⟨belay, -⟩, -⟩ := g.undone_restored [⟨sid, rows, first⟩]
  refine undoFlags_all (gone := fun e => [(⟨sid, rows, first⟩ : Discard)].any (·.sid == e.sid)) (fun e he => ?_) none []
  have here : e ∈ g.belay := belay ▸ List.mem_reverse.mp he
  simp [mine e here]

end

/-! ### The stream's part (R307, R309). -/

theorem State.countReused_eq (s : State) (g : Gang) : ∃ core n, s.countReused g = s.countCore core 4 (s.pasidOf g.launch) n := by
  unfold State.countReused
  dsimp only
  split
  · exact ⟨none, 0, rfl⟩
  · exact ⟨g.core, _, rfl⟩

/-- A stream back at its oldest uncommitted instruction, with some counts of R309. -/
noncomputable def Stream.rewound (pc : Word) (count careful : Nat → Nat) (t : Stream) : Stream :=
  { t with
    pc := pc, unc := [], loading := false, wait := .none, answers := [], walkFails := [], spin := Spin.empty, rbPc := pc
    rbCount := count t.rbCount, careful := careful t.careful }

/-- The rewind of a stream changes it and counters. -/
theorem State.rewind_eq {t : Stream} {u : Unc} {rest : List Unc} (h : t.unc = u :: rest) (s : State) : ∃ (c : State) (n k : Nat → Nat),
    (OnlyStreams s c ∧ c.streams = s.streams ∧ c.gangs = s.gangs) ∧ s.rewind t = c.updStream t.sid (Stream.rewound u.pc n k) := by
  unfold State.rewind
  rw [h]
  dsimp only
  generalize (if t.rbPc == u.pc then t.rbCount + 1 else 1) = n
  refine ⟨_, fun _ => if decide (8 ≤ n) then 0 else n, fun x => if decide (8 ≤ n) then 32 else x, ?_, rfl⟩
  split
  · exact ⟨(s.countCore_onlyStreams ..).trans (State.countCore_onlyStreams ..), (State.countCore_streams ..).trans (State.countCore_streams ..),
      (State.countCore_gangs ..).trans (State.countCore_gangs ..)⟩
  · exact ⟨s.countCore_onlyStreams .., State.countCore_streams .., State.countCore_gangs ..⟩

/-- A gang with one stream, which has something uncommitted, rolls back. -/
theorem State.rollbackGang_single {s : State} {t : Stream} {g : Gang} {u : Unc} {rest : List Unc} (hs : s.stream? t.sid = some t)
    (hk : t.homes = [g.idx]) (hg : s.gang? t.launch g.idx = some g) (only : s.streamsOf t.launch g.idx = [t]) (hu : t.unc = u :: rest) :
    ∃ n k, OnlyStreams s (s.rollbackGang t.launch g.idx) ∧
      (s.rollbackGang t.launch g.idx).stream? t.sid = some (t.rewound u.pc n k) ∧
      (s.rollbackGang t.launch g.idx).gang? t.launch g.idx =
        some (Gang.rollback [{ sid := t.sid, rows := lanesOf (t.slotsOf g.idx), first := u.seq }] true g) := by
  have has : t.has g.idx = true := Stream.has_iff_mem_homes.mpr (by simp [hk])
  obtain ⟨core, lost, reused⟩ := s.countReused_eq g
  have home : s.rollbackHome t.launch g.idx [t] = (s.countCore core 4 (s.pasidOf g.launch) lost).updGang t.launch g.idx
      (Gang.rollback [{ sid := t.sid, rows := lanesOf (t.slotsOf g.idx), first := u.seq }] true) := by
    have streams : (s.countCore core 4 (s.pasidOf g.launch) lost).streamsOf t.launch g.idx = [t] := by
      rw [State.streamsOf, State.countCore_streams]
      exact only
    unfold State.rollbackHome
    rw [hg]
    dsimp only
    rw [reused, streams]
    simp [has, hu]
  have whole : s.rollbackGang t.launch g.idx = (s.rollbackHome t.launch g.idx [t]).rewind t := by
    have one : [(t.launch, g.idx)].eraseDups = [(t.launch, g.idx)] := rfl
    unfold State.rollbackGang State.rollbackStreams
    rw [only]
    simp [hu, hk, one]
  obtain ⟨c, n, k, ⟨frame, streams, gangs⟩, rewound⟩ := State.rewind_eq hu (s.rollbackHome t.launch g.idx [t])
  refine ⟨n, k, ?_, ?_, ?_⟩
  · rw [whole, rewound]
    refine OnlyStreams.trans (OnlyStreams.trans ?_ frame) rfl
    rw [home]
    exact (s.countCore_onlyStreams ..).trans rfl
  · have there : c.stream? t.sid = some t := by
      rw [State.stream?, streams, home]
      exact (s.stream?_countCore ..).trans hs
    rw [whole, rewound, State.stream?_updStream _ _ (Stream.rewound u.pc n k) fun _ => rfl, there]
    rfl
  · have there : c.gang? t.launch g.idx = (s.rollbackHome t.launch g.idx [t]).gang? t.launch g.idx := by
      rw [State.gang?, gangs]
      rfl
    rw [whole, rewound, State.gang?_updStream, there, home, State.gang?_updGang _ _ _ _ (Gang.rollback_names _ _), State.gang?_countCore, hg]
    rfl

/-- Settles O30: the gang's part and the stream's part. -/
theorem rollbackRestores : Obligations.RollbackRestores := by
  unfold Obligations.RollbackRestores
  intro s t g u hs hk hg only hu mine
  obtain ⟨rest, hu⟩ : ∃ rest, t.unc = u :: rest := List.head?_eq_some_iff.mp hu
  obtain ⟨n, k, frame, stream, gang⟩ := State.rollbackGang_single hs hk hg only hu
  obtain ⟨base, ext, scalar⟩ := Gang.rollback_tags (sid := t.sid) (rows := lanesOf (t.slotsOf g.idx)) (first := u.seq) g
  exact ⟨_, _, _, rfl, stream, rfl, rfl, rfl, gang, fun _ _ free => Gang.rollback_s_other mine free,
    fun _ _ hr _ old => Gang.rollback_s_oldest mine hr old, Gang.rollback_sb g, fun _ hp has late => Gang.rollback_gone hp has late,
    fun _ hp current kept => Gang.rollback_kept hp current kept, Gang.rollback_belay mine, rfl, base, ext, scalar, frame⟩

end Sys2Proof.Machine
end

section
/-! SUPPORT. Format windows (O32; spec R95, R97, R98): the window lines of one block, their decoding on a read and the encoding of a block on a
write-back. -/

namespace Sys2Proof.Machine

/-! ### The windows' geometry (R95, R97). -/

/-- A window begins at a line. -/
theorem base_of_winOf {n : Nat} {r : FormatWindow} {w : Win} (h : winOf n r = some w) : ∃ c, w.base = 64 * c := by
  unfold winOf at h
  rw [Option.ite_none_right_eq_some] at h
  obtain ⟨-, h⟩ := h
  revert h
  cases Fmt.ofCode (bits r.ctl 36 32) with
  | none => exact fun h => by cases h
  | some e =>
    cases Fmt.ofCode (bits r.ctl 44 40) with
    | none => exact fun h => by cases h
    | some d => exact fun h => ⟨_, (congrArg Win.base (Option.some.inj h)).symm.trans (Nat.mul_left_comm 64 _ 1024).symm⟩

theorem State.base_of_mem_windows {s : State} {w : Win} (h : w ∈ s.windows) : ∃ c, w.base = 64 * c := by
  obtain ⟨n, -, hw⟩ := List.mem_filterMap.mp h
  exact base_of_winOf (Option.ite_none_right_eq_some.mp hw).2

/-- An address in a window lies in the window's range, and its block is the one that `State.aliasAt` names. -/
theorem State.aliasAt_some {s : State} {pa k : Nat} {w : Win} (h : s.aliasAt pa = some (w, k)) :
    w ∈ s.windows ∧ w.base ≤ pa ∧ pa < w.base + w.blockBytes * w.blocks ∧ k = (pa - w.base) / w.blockBytes := by
  obtain ⟨w', found, e⟩ := Option.map_eq_some_iff.mp h
  obtain ⟨rfl, rfl⟩ := Prod.mk.inj e
  have range := List.find?_some found
  simp only [Bool.and_eq_true, decide_eq_true_eq] at range
  exact ⟨List.mem_of_find?_eq_some found, range.1, range.2, rfl⟩

/-- The address lies in its block. -/
theorem State.mem_block_of_aliasAt {s : State} {pa k : Nat} {w : Win} (h : s.aliasAt pa = some (w, k)) :
    w.base + w.blockBytes * k ≤ pa ∧ pa < w.base + w.blockBytes * (k + 1) := by
  obtain ⟨-, low, high, rfl⟩ := s.aliasAt_some h
  have pos : 0 < w.blockBytes := Nat.pos_of_ne_zero fun zero => by
    rw [zero, Nat.zero_mul, Nat.add_zero] at high
    exact Nat.not_le_of_lt high low
  exact ⟨Nat.add_le_of_le_sub' low (Nat.mul_div_le _ _), (Nat.sub_lt_iff_lt_add' low).mp (Nat.lt_mul_div_succ _ pos)⟩

theorem Win.blockBytes_lines (w : Win) : w.blockBytes = 64 * (2 * w.bytes) := by
  rw [← Nat.mul_assoc]
  rfl

/-- A range of whole lines holds an address as it holds its line. -/
theorem lines_hold (a c n : Nat) : 64 * c ≤ a ∧ a < 64 * c + 64 * n ↔ c ≤ a / 64 ∧ a / 64 < c + n := by
  rw [← Nat.mul_add, Nat.mul_comm 64 c, Nat.mul_comm 64 (c + n), Nat.le_div_iff_mul_le (by decide), Nat.div_lt_iff_lt_mul (by decide)]

/-- Addresses of one line lie in the same block of the same window. -/
theorem State.aliasAt_line {s : State} {a b : Nat} (h : a / 64 = b / 64) : s.aliasAt a = s.aliasAt b := by
  have window : s.windows.find? (fun w => decide (w.base ≤ a) && decide (a < w.base + w.blockBytes * w.blocks)) =
      s.windows.find? (fun w => decide (w.base ≤ b) && decide (b < w.base + w.blockBytes * w.blocks)) := by
    refine List.find?_congr fun w hw => ?_
    obtain ⟨c, base⟩ := s.base_of_mem_windows hw
    rw [← Bool.decide_and, ← Bool.decide_and, w.blockBytes_lines, Nat.mul_assoc, base, decide_eq_decide, lines_hold, lines_hold, h]
  unfold State.aliasAt
  rw [window]
  cases found : s.windows.find? (fun w => decide (w.base ≤ b) && decide (b < w.base + w.blockBytes * w.blocks)) with
  | none => rfl
  | some w =>
    obtain ⟨c, base⟩ := s.base_of_mem_windows (List.mem_of_find?_eq_some found)
    rw [Option.map_some, Option.map_some, w.blockBytes_lines, ← Nat.div_div_eq_div_mul _ 64 (2 * w.bytes),
      ← Nat.div_div_eq_div_mul _ 64 (2 * w.bytes), base, Nat.sub_mul_div, Nat.sub_mul_div, h]

/-- The place of an address in its block: that of its line, and its place in the line. -/
theorem State.blockOffset_line {s : State} {b k : Nat} {w : Win} (h : s.aliasAt b = some (w, k)) :
    (b - w.base) % w.blockBytes = (lineOf b - w.base) % w.blockBytes + b % 64 := by
  obtain ⟨mem, low, -, -⟩ := s.aliasAt_some h
  obtain ⟨c, base⟩ := s.base_of_mem_windows mem
  have line : lineOf b - 64 * c = 64 * (b / 64 - c) := by rw [lineOf, Nat.mul_comm (b / 64), Nat.mul_sub]
  rw [w.blockBytes_lines, base, line, Nat.mul_mod_mul_left, Nat.mod_mul, Nat.sub_mul_div, Nat.sub_mul_mod (base ▸ low), Nat.add_comm]

theorem State.aliasAt_congr {s s' : State} (h : s'.io = s.io) (pa : Nat) : s'.aliasAt pa = s.aliasAt pa := by
  unfold State.aliasAt
  rw [State.windows_congr h]

/-! ### A line read (R97). -/

/-- Reading a line into the L2 brings no window line. -/
theorem State.aliasLines_readL2 (s : State) (die pasid pa : Nat) : (s.readL2 die pasid pa).aliasLines ⊆ s.aliasLines := by
  have fill (s : State) (u : Filler) (st : L2State) : (s.fillWay u pa st).aliasLines ⊆ s.aliasLines := by
    unfold State.fillWay
    dsimp only
    split
    · exact List.Subset.refl _
    · split
      · exact List.Subset.refl _
      · exact List.filter_sublist.subset
      · exact List.Subset.refl _
  have put (s : State) (u : Filler) (st : L2State) : (s.putL2 u pa st).aliasLines ⊆ s.aliasLines := by
    unfold State.putL2
    split
    · exact List.Subset.refl _
    · exact fill s u st
  have miss (s : State) (u : Filler) : (s.missL2 u pa).aliasLines = s.aliasLines := by
    unfold State.missL2
    split <;> rfl
  unfold State.readL2
  split
  · exact List.Subset.refl _
  · rw [← miss s ⟨die, pasid⟩]
    refine List.Subset.trans (put _ _ _) ?_
    split <;> exact List.Subset.refl _

theorem State.countDecode_cached (s : State) (w : Win) (k pasid : Nat) : Cached s (s.countDecode w k pasid) := by
  unfold State.countDecode
  split
  · exact s.count_cached ..
  · exact .refl s

/-- Of 64 elements from some place on, the one at i is the list's at that place and i. -/
theorem getD_take_drop (l : List α) (n i : Nat) (d : α) (h : i < 64) : ((l.drop n).take 64).getD i d = l.getD (n + i) d := by
  simp [List.getD_eq_getElem?_getD, h]

/-- A window line that no cache holds is cached, and reads as before (R97). -/
theorem State.fillAlias_reads {s : State} {die pasid pa k : Nat} {w : Win} (hw : s.aliasAt pa = some (w, k))
    (hn : ∀ x ∈ s.aliasLines, x.1 ≠ lineOf pa) :
    (∃ x ∈ (s.fillAlias die pasid pa).aliasLines, x.1 = lineOf pa) ∧
      (∀ b, b / 64 = pa / 64 → (s.fillAlias die pasid pa).aliasRead b = s.aliasRead b) ∧ (s.fillAlias die pasid pa).mem = s.mem := by
  have cached := s.readL2_cached die pasid (lineOf pa)
  have brings := s.aliasLines_readL2 die pasid (lineOf pa)
  have line : s.aliasAt (lineOf pa) = some (w, k) := (s.aliasAt_line (Nat.mul_div_cancel _ (by decide))).trans hw
  unfold State.fillAlias
  dsimp only
  generalize s.readL2 die pasid (lineOf pa) = r at cached brings ⊢
  have absent : ¬(r.aliasLines.any fun x => x.1 == lineOf pa) = true := by
    rw [List.any_eq_true]
    rintro ⟨x, hx, e⟩
    exact hn x (brings hx) (beq_iff_eq.mp e)
  rw [if_neg absent, State.aliasAt_congr cached.io, line]
  dsimp only
  have mem : (r.countDecode w k pasid).mem = s.mem := (cached.trans (r.countDecode_cached ..)).mem
  refine ⟨⟨_, List.mem_cons_self, rfl⟩, fun b hb => ?_, mem⟩
  have same : lineOf b = lineOf pa := congrArg (· * 64) hb
  have here : s.aliasAt b = some (w, k) := (s.aliasAt_line hb).trans hw
  have uncached : s.aliasLines.find? (fun x => x.1 == lineOf pa) = none := List.find?_eq_none.mpr fun x hx => by simpa using hn x hx
  have place := s.blockOffset_line here
  unfold State.aliasRead
  dsimp only
  rw [same, uncached, here, mem, List.find?_cons_of_pos (by exact beq_self_eq_true _)]
  dsimp only
  rw [getD_take_drop _ _ _ _ (Nat.mod_lt b (by decide)), place, same]

/-! ### Writes that no signature and no region answers to. -/

/-- No region is marked. -/
def State.Unmarked (s : State) : Prop := ∀ x ∈ s.launches, ∀ i, i < 16 → (x.region i).state = .unmarked

theorem State.regionsOf_unmarked {s : State} (h : s.Unmarked) (pa : Nat) : s.regionsOf pa = [] := by
  rw [State.regionsOf, List.flatMap_eq_nil_iff]
  intro x hx
  rw [List.filterMap_eq_nil_iff]
  intro i hi
  simp [h x hx i (List.mem_range.mp hi)]

theorem State.logLine_unmarked {s : State} (h : s.Unmarked) (pa : Nat) : s.logLine pa = .ok s := by
  simp [State.logLine, s.regionsOf_unmarked h]

theorem State.logLines_unmarked {s : State} (h : s.Unmarked) (pas : List Nat) : s.logLines pas = .ok s :=
  foldl_eq_self fun pa _ => s.logLine_unmarked h pa

theorem State.lineBusy_unmarked {s : State} (h : s.Unmarked) (free : s.guest.owned = []) (pa : Nat) : s.lineBusy pa = false := by
  simp [State.lineBusy, State.lineHeld, s.regionsOf_unmarked h, free]

theorem State.logStores_unmarked {s : State} (h : s.Unmarked) (es : List (Nat × StoreEntry)) : s.logStores es = .inl s :=
  foldl_eq_self fun x _ => foldl_eq_self fun pa _ => by dsimp only; rw [s.logLine_unmarked h]

/-- A line written where no signature answers: its bytes are in memory, and every gang is as before. -/
theorem State.storeLine_unsigned {s : State} (h : ∀ g ∈ s.gangs, g.sig = []) (w : Option Writer) (die : Option Filler) (whole : Bool)
    (cells : List Host.Cell) : (s.storeLine w die whole cells).gangs = s.gangs ∧
      (s.storeLine w die whole cells).mem = cells.foldl (fun (m : Memory) (c : Host.Cell) => m.set c.1 c.2) s.mem := by
  match cells with
  | [] => exact ⟨rfl, rfl⟩
  | (a, b) :: rest =>
    simp only [State.storeLine]
    generalize ho : s.ownLine die (w.bind fun w => (s.gang? w.1 w.2.1).bind Gang.core) (lineOf a) = o
    have owned : Cached s o := ho ▸ s.ownLine_cached ..
    have quiet : ∀ g ∈ o.gangs, g.sig = [] := owned.gangs ▸ h
    split
    · rw [State.testSignatures_quiet (by exact quiet)]
      exact ⟨owned.gangs, by rw [← owned.mem]; rfl⟩
    · rw [State.testSignatures_quiet (by exact quiet)]
      exact ⟨owned.gangs, by rw [← owned.mem]; rfl⟩

/-- Bytes written line by line where no signature answers. -/
theorem State.foldl_storeLine_unsigned {s : State} (h : ∀ g ∈ s.gangs, g.sig = []) (w : Option Writer) (die : Option Filler)
    (a : Nat) (bytes : List Byte) :
    ((byLine (cellsOf a bytes)).foldl (fun s g => s.storeLine w die false g) s).gangs = s.gangs ∧
      ((byLine (cellsOf a bytes)).foldl (fun s g => s.storeLine w die false g) s).mem = s.mem.write a bytes := by
  have fold : ∀ (gs : List (List Host.Cell)) (s : State), (∀ g ∈ s.gangs, g.sig = []) →
      (gs.foldl (fun s g => s.storeLine w die false g) s).gangs = s.gangs ∧ (gs.foldl (fun s g => s.storeLine w die false g) s).mem =
        gs.flatten.foldl (fun (m : Memory) (c : Host.Cell) => m.set c.1 c.2) s.mem := by
    intro gs
    induction gs with
    | nil => exact fun s _ => ⟨rfl, rfl⟩
    | cons cells gs ih =>
      intro s h
      obtain ⟨gangs, mem⟩ := s.storeLine_unsigned h w die false cells
      obtain ⟨gangs', mem'⟩ := ih (s.storeLine w die false cells) (gangs ▸ h)
      refine ⟨gangs'.trans gangs, ?_⟩
      rw [List.foldl_cons, mem', mem, List.flatten_cons, List.foldl_append]
  obtain ⟨gangs, mem⟩ := fold (byLine (cellsOf a bytes)) s h
  rw [byLine_flatten, Memory.foldl_cells] at mem
  exact ⟨gangs, mem⟩

/-! ### A block encoded again (R98). -/

/-- A block's decoded image with bytes put over it. -/
noncomputable def Win.imageWith (w : Win) (m : Memory) (k : Nat) (cells : List Host.Cell) : List Byte :=
  (List.range w.blockBytes).map fun i =>
    cells.foldl (fun (b : Byte) c => if c.1 == w.base + w.blockBytes * k + i then c.2 else b) ((w.decodeBlock m k).getD i 0)

/-- The bytes of an image's 128 elements encoded, in a format without scales. -/
noncomputable def Win.encoded (w : Win) (image : List Byte) : List Byte :=
  leBytes (16 * w.bits) ((encodeBlock w.efmt ((List.range 128).map fun i =>
    w.dfmt.decode (leNat ((image.drop (w.bytes * i)).take w.bytes)))).2.1.foldr (fun x acc => x % 2 ^ w.bits + 2 ^ w.bits * acc) 0)

/-- A store to a block in a format without scales: the block's bytes become those of the image with the stored bytes over it. -/
theorem State.aliasStore_unscaled {s : State} (hu : s.Unmarked) (hs : ∀ g ∈ s.gangs, g.sig = []) {w : Win} (hw : w.efmt.scaled = false)
    (writer : Option Writer) (pasid k : Nat) (cells : List Host.Cell) : ∃ u, s.aliasStore writer pasid w k cells = .ok u ∧
      u.gangs = s.gangs ∧ u.mem = s.mem.write (w.enc + 16 * w.bits * k) (w.encoded (w.imageWith s.mem k cells)) := by
  have decoded := s.countDecode_cached w k pasid
  unfold State.aliasStore
  dsimp only
  generalize s.countDecode w k pasid = d at decoded ⊢
  rw [decoded.mem]
  generalize he : encodeBlock w.efmt _ = e
  generalize hc : (if e.2.2 = 0 then d else d.count (384 + w.stack) 0x20 pasid e.2.2) = c
  have counted : Cached s c := by
    rw [← hc]
    split
    · exact decoded
    · exact decoded.trans (d.count_cached ..)
  have unmarked : c.Unmarked := by
    unfold State.Unmarked
    rw [counted.launches]
    exact hu
  rw [c.logLines_unmarked unmarked]
  simp only [hw, Bool.false_eq_true, if_false]
  refine ⟨_, rfl, ?_⟩
  obtain ⟨gangs, mem⟩ := c.foldl_storeLine_unsigned (counted.gangs ▸ hs) writer none (w.enc + 16 * w.bits * k)
    (w.encoded (w.imageWith s.mem k cells))
  rw [counted.gangs] at gangs
  rw [counted.mem] at mem
  rw [← he]
  exact ⟨gangs, mem⟩

/-! ### The write-back of a stream that holds slices of one gang. -/

/-- A stream's buffered stores, of one that holds slices of one gang. -/
theorem State.storesOf_single {s : State} {t : Stream} {g : Gang} (homes : t.homes = [g.idx]) (gang : s.gang? t.launch g.idx = some g) :
    s.storesOf t = (g.sb.filter (·.sid == t.sid)).map fun e => (g.idx, e) := by
  unfold State.storesOf
  rw [homes, List.flatMap_singleton, gang]

theorem State.storesOf_only {s : State} {t : Stream} {g : Gang} {e : StoreEntry} (homes : t.homes = [g.idx])
    (gang : s.gang? t.launch g.idx = some g) (sb : g.sb = [e]) (sid : e.sid = t.sid) : s.storesOf t = [(g.idx, e)] := by
  have mine : (e.sid == t.sid) = true := beq_iff_eq.mpr sid
  rw [s.storesOf_single homes gang, sb, List.filter_cons_of_pos (by exact mine)]
  rfl

theorem State.mapStores_single (s : State) {t : Stream} {k : Nat} (homes : t.homes = [k]) (f : List StoreEntry → List StoreEntry) :
    s.mapStores t f = s.updGang t.launch k fun g => { g with sb := (g.sb.filter (·.sid != t.sid)) ++ f (g.sb.filter (·.sid == t.sid)) } := by
  unfold State.mapStores
  rw [homes]
  rfl

/-- The gang after a change of a stream's stores. -/
theorem State.gang?_mapStores {s : State} {t : Stream} {g : Gang} (homes : t.homes = [g.idx]) (gang : s.gang? t.launch g.idx = some g)
    (f : List StoreEntry → List StoreEntry) : (s.mapStores t f).gang? t.launch g.idx =
      some { g with sb := (g.sb.filter (·.sid != t.sid)) ++ f (g.sb.filter (·.sid == t.sid)) } := by
  rw [s.mapStores_single homes]
  exact (State.gang?_updGang _ _ _ _ (by exact fun _ => ⟨rfl, rfl⟩)).trans (by rw [gang]; rfl)

theorem State.gang?_of_gangs {s s' : State} (h : s'.gangs = s.gangs) (l k : Nat) : s'.gang? l k = s.gang? l k := by
  unfold State.gang?
  rw [h]

/-- The bytes of one store put over a block's image, by the bytes' places in the line. -/
theorem Win.imageWith_entry (w : Win) (m : Memory) (k : Nat) {e : StoreEntry} {pa va : Nat} (place : e.place = .mem pa va) :
    w.imageWith m k e.cells = (List.range w.blockBytes).map fun i =>
      e.bytes.foldl (fun b (c : Nat × Byte) => if pa + c.1 = w.base + w.blockBytes * k + i then c.2 else b)
        ((w.decodeBlock m k).getD i 0) := by
  unfold Win.imageWith StoreEntry.cells
  rw [place]
  simp [List.foldl_map]

/-- The oldest store of a stream, if it is the only one of its instruction and goes to a block of an unscaled window, leaves the buffer,
and its block is encoded again. -/
theorem State.storeStep_alias {s : State} {t : Stream} {g : Gang} {e : StoreEntry} {pa va k : Nat} {w : Win} (hu : s.Unmarked)
    (hs : ∀ h ∈ s.gangs, h.sig = []) (free : s.guest.owned = []) (homes : t.homes = [g.idx]) (gang : s.gang? t.launch g.idx = some g)
    (sb : g.sb = [e]) (sid : e.sid = t.sid) (committed : e.committed = true) (waiting : e.waiting = false) (place : e.place = .mem pa va)
    (range : paRange s.memMap pa = .aliases) (hw : s.aliasAt pa = some (w, k)) (scaled : w.efmt.scaled = false) :
    (s.storeStep t).gang? t.launch g.idx = some { g with sb := [] } ∧
      (s.storeStep t).mem = s.mem.write (w.enc + 16 * w.bits * k) (w.encoded (w.imageWith s.mem k e.cells)) := by
  have stores := State.storesOf_only homes gang sb sid
  obtain ⟨low, high⟩ := s.mem_block_of_aliasAt hw
  obtain ⟨u, stored, gangs, mem⟩ := s.aliasStore_unscaled hu hs scaled (some (t.launch, g.idx, t.sid)) (s.pasidOf t.launch) k e.cells
  have whole : s.storeStep t = u.mapStores t fun l => l.filter fun x => !(e == x || false) := by
    have same : [(g.idx, e)].filter (·.2.seq == e.seq) = [(g.idx, e)] := List.filter_cons_of_pos (beq_self_eq_true e.seq)
    have busy (l : List (Nat × StoreEntry)) : ¬(l.any fun x => (s.linesWritten x.2).any s.lineBusy) = true := by
      simp [s.lineBusy_unmarked hu free]
    have mine : (match e.place with
        | .mem pa' _ => decide (w.base + w.blockBytes * k ≤ pa') && decide (pa' < w.base + w.blockBytes * (k + 1))
        | _ => false) = true := by
      rw [place]
      exact Bool.and_eq_true_iff.mpr ⟨decide_eq_true low, decide_eq_true high⟩
    unfold State.storeStep
    rw [stores]
    refine (if_neg (by rw [committed, waiting]; decide)).trans ?_
    dsimp only
    rw [s.logStores_unmarked hu, place]
    refine (if_neg (busy _)).trans ?_
    dsimp only
    rw [range]
    dsimp only
    rw [hw, same]
    dsimp only [byLaneOrder, sortBy, List.foldr_cons, List.foldr_nil, insertBy]
    rw [List.filter_cons_of_pos (by exact mine), List.filter_nil, List.flatMap_singleton, stored]
    rfl
  rw [whole]
  refine ⟨?_, by rw [u.mapStores_single homes]; exact mem⟩
  rw [State.gang?_mapStores homes ((State.gang?_of_gangs gangs _ _).trans gang)]
  simp [sb, sid]

/-- Settles O32: a window line that no cache holds is cached as its block decodes; a store to such a line encodes its block again. -/
theorem aliasLines : Obligations.AliasLines := by
  unfold Obligations.AliasLines
  constructor
  · intro s die pa w k hw hn free
    obtain ⟨there, reads, mem⟩ := State.fillAlias_reads (die := die) (pasid := 0) hw hn
    refine ⟨s.fillAlias die 0 pa, ?_, there, reads, mem⟩
    refine if_neg (c := ((s.aliasAt pa).isNone || s.blockOwned pa) = true) ?_
    unfold State.blockOwned
    rw [hw, free]
    simp
  · intro s t g e pa va w k _ hs hu free stream homes gang sb sid committed waiting place range hw scaled
    obtain ⟨gang', mem⟩ := State.storeStep_alias hu hs free homes gang sb sid committed waiting place range hw scaled
    rw [w.imageWith_entry s.mem k place] at mem
    refine ⟨s.storeStep t, _, ?_, gang', rfl, rfl, mem⟩
    change execAliasWriteBack t.sid s = _
    unfold execAliasWriteBack
    rw [stream]
    dsimp only
    rw [State.storesOf_only homes gang sb sid]
    unfold oldest
    dsimp only [List.foldl_cons, List.foldl_nil]
    rw [place]
    exact if_pos range

end Sys2Proof.Machine
end

section
/-! SUPPORT. Stores made visible (O23; spec R105, R106, R125, R126). An entry of the store buffer goes by the line of its first byte, and a
TLB entry of the model may map its page to any address, so a lane's aligned bytes may run into the next line. The bytes there become visible
with the first line's entry: before those of a lower lane whose first byte lies in the second line. -/

namespace Sys2Proof.Machine

/-- The byte at an address once an instruction has run and a stream's next store has become visible. -/
noncomputable def byteOnceVisible (i : Instr) (sid a : Nat) (s : State) : Option Byte :=
  match exec i s with
  | .next s1 => match exec (.storeVisibility sid) s1 with
    | .next s2 => some (s2.mem.get a)
    | _ => none
  | _ => none

theorem byteOnceVisible_eq {i : Instr} {sid : Nat} {s s1 s2 : State} (run : exec i s = .next s1)
    (visible : exec (.storeVisibility sid) s1 = .next s2) (a : Nat) : byteOnceVisible i sid a s = some (s2.mem.get a) := by
  unfold byteOnceVisible
  rw [run]
  dsimp only
  rw [visible]

/-! ### Four lanes, of which lane 1 stores to a page of its own. -/

namespace SkewedPage

/-- Each lane's address. -/
noncomputable def address (l : Nat) : Word := if l = 1 then 0x20040 else 0x10038

/-- A gang whose v1 holds the addresses. -/
noncomputable def gang : Gang :=
  { launch := 1, idx := 0, place := some (0, 0), since := 0, evict := false, evictFor := none, record := 0, xb := false
    blockCore := none, awake := false, bad := false, v := vset (Vector.replicate 64 zeroV) 1 (byLane address)
    s := Vector.replicate 64 0, m := Vector.replicate 16 0
    om := Vector.replicate 8 { isSet := false, low := 0, high := 0, cursor := 0 }
    tiles := Vector.replicate 16 { kind := .f, words := Vector.replicate 1024 0 }, codebook := Vector.replicate 16 0
    st := Vector.replicate 32 0, fflags := 0, seed := 0, trapCause := 0, trapInfo := 0, trapPc := 0, hm := false, hmSlices := 0
    armed := none, batch := 0, members := Vector.replicate 16 { handle := 0, av := false, agen := 0 }, exited := 0, tagBase := 0
    tagExt := 0, tagScalar := 0, pending := [], races := [], belay := [], sig := [], sb := [], deferred := [] }

/-- A stream of the gang's first slice. -/
noncomputable def stream : Stream :=
  { sid := 0, launch := 1, splice := 0, slots := vset (Vector.replicate 8 none) 0 (some 0), pc := 0x1000, wait := .none, unc := []
    rbCount := 0, rbPc := 0, careful := 0, spin := Spin.empty, stopped := false, claim := none, grant := none, operands := []
    popped := none, loading := false, saved := none, answers := [], walkFails := [], partsDone := [], doneLen := 0, watchDie := none
    due := false }

/-- A writable page of DRAM in the TLB of core 0. -/
noncomputable def page (vpage pa : Nat) : TlbEntry :=
  { core := 0, pasid := 0, vpage := vpage, pages := 1, pa := pa, w := true, x := false, kind := 0, dirty := true }

/-- Page 1 lies at address 4, page 2 at address 0: lane 1 stores at 64, the others at 60. -/
noncomputable def state : State := { State.reset with cur := some 0, nextSid := 1, gangs := [gang], streams := [stream], tlb := [page 1 4, page 2 0] }

/-- ST.64 of v1 to the addresses in v1. -/
noncomputable def store : MFields := { mode := 3, b := 1, a := 0, d := 1, w := 3, h := false }

/-- Each lane's translation. -/
noncomputable def translation (l : Nat) : Xlat := (if l = 1 then page 2 0 else page 1 4).xlat (vaOf (address l))

theorem issues : Issues state stream gang where
  cur := rfl
  stream := rfl
  homes := by decide +kernel
  gang := rfl
  placed := rfl
  drained := by decide +kernel
  belay := by decide
  stores := by decide
  quiet := rfl
  joined := rfl

theorem calm : Calm state where
  signatures g hg := by rw [List.mem_singleton.mp hg]; rfl
  windows := by decide +kernel
  regions _ hx := absurd hx List.not_mem_nil
  guest := rfl
  errors := rfl

theorem laneAddress_store {l : Nat} (hl : l < 32) : laneAddress gang store 8 l = address l := by
  change lane (vget (vset (Vector.replicate 64 zeroV) 1 (byLane address)) 1 zeroV) l = address l
  rw [vget_vset_same _ _ _ (by decide), lane_byLane _ hl]

theorem reached {l : Nat} (hl : l < 32) : Reached state stream gang 8 .store (laneAddress gang store 8 l) (translation l) ∧
    state.plainPa (lineOf (translation l).pa) = true := by
  rw [laneAddress_store hl]
  by_cases one : l = 1
  · unfold translation address
    rw [if_pos one, if_pos one]
    exact ⟨⟨by decide, by decide, rfl, by decide⟩, by decide +kernel⟩
  · unfold translation address
    rw [if_neg one, if_neg one]
    exact ⟨⟨by decide, by decide, rfl, by decide⟩, by decide +kernel⟩

/-- Lane 1's first byte stands at address 64, though lanes 2 and 3 store there too. -/
theorem byte_visible : byteOnceVisible (.st store) 0 64 state = some 0x40 := by decide +kernel

theorem byte_highest : storedByte (lanesIn stream) (fun l => (translation l).pa)
    (fun l => leBytes 8 ((lane (vget gang.v 1 zeroV) l).toNat + 0)) (state.mem.get 64) 64 = 0 := by decide +kernel

end SkewedPage

/-- Refutes O23: nothing in the statement says that a TLB entry maps its page to a multiple of 64 bytes. With page 1 at address 4, lanes 0,
2 and 3 store at 60 and lane 1, by another page, at 64; the highest lane's byte belongs at 64, but lane 1's entry becomes visible last. -/
theorem not_stores : ¬ Obligations.Stores := by
  unfold Obligations.Stores
  intro h
  obtain ⟨_, _, s2, -, run, visible, ⟨-, bytes⟩, -⟩ :=
    (h SkewedPage.state SkewedPage.stream SkewedPage.gang SkewedPage.store SkewedPage.issues rfl SkewedPage.calm rfl rfl).1
      SkewedPage.translation (.inr (by decide)) fun l hl _ => SkewedPage.reached hl
  have found := (byteOnceVisible_eq run visible 64).symm.trans SkewedPage.byte_visible
  have claimed : s2.mem.get 64 = 0 := (bytes 64).trans SkewedPage.byte_highest
  rw [claimed] at found
  exact absurd found (by decide)

end Sys2Proof.Machine
end
